-- ==== Sys2Proof/Word.lean ====
section
/-! DEFINITION. The byte and the plainest little-endian and bit-field arithmetic over natural numbers. -/

namespace Sys2Proof

/-- One byte of memory, of an image or of a packet. -/
abbrev Byte := BitVec 8

/-- The number a little-endian byte string stands for (R6: memory structures are little-endian). -/
def leNat : List Byte → Nat
  | [] => 0
  | b :: bs => b.toNat + 256 * leNat bs

/-- The `n` bytes of `v`, least significant first. -/
def leBytes : Nat → Nat → List Byte
  | 0, _ => []
  | n + 1, v => BitVec.ofNat 8 v :: leBytes n (v / 256)

/-- The `n` bytes of `v` in network order (R6: wire headers are big-endian). -/
def beBytes (n v : Nat) : List Byte := (leBytes n v).reverse

/-- Field [lsb + width − 1 : lsb] of `v` (R6: bit 0 is the least significant). -/
def bits (v lsb width : Nat) : Nat := v / 2 ^ lsb % 2 ^ width

/-- `v` with field [lsb + width − 1 : lsb] replaced by `x`, cut to the field's width. -/
def putBits (v lsb width x : Nat) : Nat :=
  v % 2 ^ lsb + 2 ^ lsb * (x % 2 ^ width) + 2 ^ (lsb + width) * (v / 2 ^ (lsb + width))

/-- One bit of `v`. -/
def bit (v i : Nat) : Bool := bits v i 1 == 1

/-- A Boolean as a bit. -/
def b2n (b : Bool) : Nat := if b then 1 else 0

/-- Quotient rounded up. -/
def ceilDiv (a b : Nat) : Nat := (a + b - 1) / b

/-- `x` rounded up to a multiple of `m`. -/
def roundUp (m x : Nat) : Nat := ceilDiv x m * m

end Sys2Proof
end

