-- ==== Sys2Proof/Syntax.lean ====
section
/-! DEFINITION. The commands of the W48: one constructor of Instr for every row of spec/opcode_table.json, with the
operands its rule names; and the plain records those operands are made of. A yard is named by its lowest bay (R5). -/

namespace Sys2Proof

/-- A master that can reach a register (R20, R449). -/
inductive Master where
  | security
  | deviceCore (i : Nat)
  | bayCore (b : Nat)
  | pf
  | yard (y : Nat)
  | bmc
deriving DecidableEq, Repr

/-- Where an SPDM request arrives (R422). -/
inductive Transport where
  | pfDoe
  | yardDoe (y : Nat)
  | mctp
deriving DecidableEq, Repr

/-- The parts of a WRT base header (R259) and of its carriage (R249) that the receiver judges by. `conn` is the
connection number at this W48; `tagOk` says that the authentication tag verifies under the key its NONCE names;
`ip` is the IP source address, an IPv4 one in the low 32 bits (0 on W-link); `arrived` the time of a packet that has been kept
since. DESIGN CHOICE, log 59. -/
structure WrtHdr where
  conn : Nat
  inc : Nat
  psn : Nat
  src : Nat
  ackreq : Bool
  first : Bool
  last : Bool
  solicit : Bool
  ts : Nat
  ce : Bool
  tagOk : Bool
  ip : Nat := 0
  arrived : Option Nat := none
deriving DecidableEq, Repr

/-- The header of a lap packet (R143, KIND 1 and 2), with the source address of the fabric or WRT header; `wrt` is the WRT
header of one that came over a WRT hop (R269). -/
structure LapHdr where
  gather : Bool
  last : Bool
  zero : Bool
  scale : Bool
  src : Nat
  ringId : Nat
  attempt : Nat
  opseq : Nat
  step : Nat
  seg : Nat
  substep : Nat
  chunk : Nat
  pkt : Nat
  zmask : Nat
  crc : Nat
  wrt : Option WrtHdr := none
deriving DecidableEq, Repr

/-- The header of a ring control packet (R143, KIND 3 to 6); `wrt` as for a lap packet. -/
structure CtlHdr where
  back : Bool
  src : Nat
  nonce : Nat
  ringId : Nat
  attempt : Nat
  opseq : Nat
  step : Nat
  check : Bool
  code : Nat
  origin : Nat
  originValid : Bool
  cause : Nat
  verdict : Nat
  passed : Nat
  wrt : Option WrtHdr := none
deriving DecidableEq, Repr

/-- The extension header of an ACK or NAK (R262). `sack` lists the offsets j whose SACK bit is set. -/
structure AckExt where
  syndrome : Nat
  rnrTime : Nat
  ecnCount : Nat
  nakPsn : Nat
  tsEcho : Nat
  rxDelay : Nat
  sack : List Nat
deriving DecidableEq, Repr

/-- What the host side of an access to host virtual memory finds (R340, R341). DESIGN CHOICE, log 60. -/
inductive Xlat where
  | hit            -- a translation with the needed permission is there
  | waiting        -- the ATS translation has been requested and has not arrived (R346)
  | fault          -- missing, or lacking the permission (R341)
deriving DecidableEq, Repr

/-- The host side of a command that may touch host memory: the translation, the bytes host memory holds there, whether the
read came back poisoned or aborted (R329), and which page of the access, from its first, lacks its translation (R341).
DESIGN CHOICE, log 60. -/
structure HostSide where
  xl : Xlat
  data : List Byte
  bad : Bool
  page : Nat := 0
deriving DecidableEq, Repr

/-- A host buffer that is translated, and nothing read from it. -/
def HostSide.there : HostSide := { xl := .hit, data := [], bad := false }

/-- A write to a yard function's configuration space that the W48 acts on (R341, R353): the ATS and PRI enables and the
Outstanding Page Request Allocation. -/
inductive CfgWrite where
  | ats (on : Bool)
  | pri (on : Bool)
  | allocation (n : Nat)
deriving DecidableEq, Repr

/-- The fields of an OPEN (R232, R367). -/
structure OpenReq where
  buf : Nat
  kind : Nat
  length : Nat
  slots : Nat
  slotBytes : Nat
  scaleOff : Nat
deriving DecidableEq, Repr

/-- What the check of a near block finds (R328, R333). -/
inductive BlockCheck where
  | good
  | corrected
  | uncorrectable
deriving DecidableEq, Repr

/-- A PCIe page request response (R344). -/
inductive PageRsp where
  | success (mapped : Bool)   -- the page was serviced; `mapped`: the replay translates
  | invalidRequest
  | failure
deriving DecidableEq, Repr

/-- The trailer of a W-link frame (R358) and the state of its checks. `nbr` says whether FEC and CRC are good. -/
structure FrameTrailer where
  fseq : Nat
  ack : Nat
  nak : Bool
  good : Bool
  credit : List Nat
  flits : Nat
deriving DecidableEq, Repr

/-- The fields of a HELLO (R368). -/
structure Hello where
  device : Nat
  addr : Nat
  buf : List Nat
  role : Nat
deriving DecidableEq, Repr

/-- The header flit of a fabric packet in transit (R364): its fields, its NONCE, its 32 type-specific bytes and its TAG. -/
structure TransitHdr where
  typ : Nat
  ce : Bool
  tag : Bool
  vc : Nat
  flits : Nat
  pad : Nat
  dst : Nat
  src : Nat
  rank : Nat
  hops : Nat
  nonce : Nat
  body : List Byte
  mac : List Byte := []
deriving DecidableEq, Repr

/-- What the classifier of R395 sees of a received Ethernet frame; `icrcOk` says that the ICRC of a RoCEv2 frame verifies. -/
structure EthFrame where
  len : Nat
  dstMac : Nat
  etherType : Nat
  isIp : Bool
  dscp : Nat
  dstIp : Nat
  ip6 : Bool
  udpPort : Nat
  ndSolicit : Bool
  bad : Bool
  runt : Bool
  codeErr : Bool
  bytes : List Byte
  icrcOk : Bool := true
deriving DecidableEq, Repr

/-- How a PCIe link event resets the host side (R315, R477). -/
inductive HostResetKind where
  | hotReset
  | perst
  | linkLoss
deriving DecidableEq, Repr

/-- Who authorises a life-cycle transition or an operator key change (R416 to R418): the signed object and its two
signatures. -/
structure Auth where
  slot : Nat           -- operator slot that signs; 4 for a Gaovowyn token
  serial : Nat
  count : Nat
  body : List Byte
  rsa : List Byte
  slh : List Byte
deriving DecidableEq, Repr

/-- The commands. A comment names the row and the rule of the table. -/
inductive Instr where
  /-- REGISTER_WRITE (R7) -/
  | registerWrite (m : Master) (off width value : Nat)
  /-- WRONG_WIDTH_ACCESS (R12) -/
  | wrongWidthAccess (m : Master) (off logBytes : Nat) (isRead : Bool)
  /-- DIRECT_SET_WRITE (R53) -/
  | directSetWrite (m : Master) (off width value : Nat)
  /-- LAYOUT_FETCH_DONE (R41): the bytes host memory held, or none after a host error -/
  | layoutFetchDone (data : Option (List Byte))
  /-- LAY_COMMIT (R43) -/
  | layCommit (value : Nat)
  /-- LAY_SET_CMD (R49) -/
  | laySetCmd (value : Nat)
  /-- YRD_SET_CMD (R56) -/
  | yrdSetCmd (y value : Nat)
  /-- SET_APPLY (R52): the fetched array of the set in progress, or none when the fetch failed; `dev` for the
  device-scope set, otherwise that of yard `y` -/
  | setApply (dev : Bool) (y : Nat) (data : Option (List Byte))
  /-- PAN_BEAT (R81): bay b, logical pan k of the bay -/
  | panBeat (b k : Nat) (bad : Bool := false)
  /-- CONTEXT_READY (R86): context x of logical pan k of bay b; `host` the host side of the streams that lie in host
  memory, in stream order, the output last; `uc` the input stream whose read meets an uncorrectable unit -/
  | contextReady (b k x : Nat) (host : List HostSide) (uc : Option Nat)
  /-- PAN_KAT_CMD (R89) -/
  | panKatCmd (y value : Nat)
  /-- PAN_CVT_CMD (R89) -/
  | panCvtCmd (y value : Nat)
  /-- PAN_TEST_DONE (R89): the draw test, or the conversion test -/
  | panTestDone (y : Nat) (draw : Bool)
  /-- LOAD (R117) -/
  | load (y : Nat)
  /-- PLAN_LOAD_DONE (R117): the fetched image, or none after a host error -/
  | planLoadDone (y : Nat) (data : Option (List Byte))
  /-- START (R122) -/
  | start (y : Nat)
  /-- STOP (R122) -/
  | stop (y : Nat)
  /-- UNLOAD (R125) -/
  | unload (y : Nat)
  /-- PLAN_UNLOAD_DONE (R125) -/
  | planUnloadDone (y : Nat)
  /-- CLEAR (R124) -/
  | clear (y : Nat)
  /-- ITERATION_START (R108) -/
  | iterationStart (y : Nat)
  /-- STEP_COMPLETE (R91): the active step of thread t -/
  | stepComplete (y t : Nat)
  /-- MOVE (R103): issue of the next step of thread t; `host` the host side of a HOST buffer -/
  | move (y t : Nat) (host : HostSide)
  /-- REDUCE_LAP (R138); `host` the host side of what its issue reads in a HOST buffer -/
  | reduceLap (y t : Nat) (host : HostSide)
  /-- GATHER_LAP (R140); `host` as for REDUCE_LAP -/
  | gatherLap (y t : Nat) (host : HostSide)
  /-- SEAL (R147) -/
  | seal (y t : Nat)
  /-- UPDATE (R172) -/
  | update (y t : Nat)
  /-- SELECT (R194); `host` as for REDUCE_LAP -/
  | select (y t : Nat) (host : HostSide)
  /-- DEMAND (R221); `host` as for REDUCE_LAP -/
  | demand (y t : Nat) (host : HostSide)
  /-- STREAM (R227); `host` as for REDUCE_LAP -/
  | stream (y t : Nat) (host : HostSide)
  /-- WAIT (R109) -/
  | wait (y t : Nat)
  /-- WAIT_SATISFIED (R109) -/
  | waitSatisfied (y t : Nat)
  /-- SIGNAL (R110) -/
  | signal (y t : Nat)
  /-- LOOP (R105) -/
  | loop (y t : Nat)
  /-- STEP_WATCHDOG_EXPIRY (R107) -/
  | stepWatchdogExpiry (y t : Nat)
  /-- PLN_EVENT_ADD (R108) -/
  | plnEventAdd (y value : Nat)
  /-- LAP_PACKET (R132); `host` the host side of a lap-2 write to a HOST buffer (R343) -/
  | lapPacket (y : Nat) (h : LapHdr) (payload : List Byte) (tagOk : Bool) (host : HostSide := HostSide.there)
  /-- SEAL_PACKET (R147) -/
  | sealPacket (y : Nat) (h : CtlHdr) (tagOk : Bool)
  /-- SEAL_RETURN (R148) -/
  | sealReturn (y : Nat) (h : CtlHdr) (tagOk : Bool)
  /-- VERDICT (R149) -/
  | verdict (y : Nat) (h : CtlHdr) (tagOk : Bool)
  /-- ABORT (R151) -/
  | abort (y : Nat) (h : CtlHdr) (tagOk : Bool)
  /-- TRN_COMM_RESOLVE (R154) -/
  | trnCommResolve (y value : Nat)
  /-- OPEN (R232) -/
  | openBuf (y src nonce : Nat) (r : OpenReq) (tagOk : Bool)
  /-- CLOSE (R232) -/
  | closeBuf (y src nonce buf : Nat) (tagOk : Bool)
  /-- CLOSE_ACK (R232) -/
  | closeAck (y src buf : Nat)
  /-- GRANT (R234) -/
  | grant (y src nonce buf epoch limit : Nat) (tagOk : Bool)
  /-- DELIVERY_EMIT (R229): the entry in service at drover d of the yard for thread t; `host` the host
  side of a tile in a HOST buffer -/
  | deliveryEmit (y t d : Nat) (host : HostSide)
  /-- LAND_ANS (R235) -/
  | landAns (y src ansId status reason buf : Nat) (tagOk : Bool)
  /-- SHED_SLOT_FILLED (R240) -/
  | shedSlotFilled (y t slot : Nat)
  /-- DRV_SHED_FLUSH (R241) -/
  | drvShedFlush (y value : Nat)
  /-- CREATE (R252): the descriptor at TRN_CMD_ADDR, or none when it cannot be read -/
  | create (y conn : Nat) (desc : Option (List Byte))
  /-- CONNECT (R253) -/
  | connect (y conn : Nat) (desc : Option (List Byte))
  /-- MODIFY (R253) -/
  | modify (y conn : Nat) (desc : Option (List Byte))
  /-- REHOME (R256) -/
  | rehome (y conn : Nat) (desc : Option (List Byte))
  /-- DISCONNECT (R252) -/
  | disconnect (y conn : Nat)
  /-- DESTROY (R252) -/
  | destroy (y conn : Nat)
  /-- QUERY (R290) -/
  | query (y conn : Nat)
  /-- MATCH_CREATE (R282) -/
  | matchCreate (y list : Nat) (desc : Option (List Byte))
  /-- MATCH_DESTROY (R282) -/
  | matchDestroy (y list : Nat)
  /-- QUARANTINE_EXPIRY (R255) -/
  | quarantineExpiry (y conn : Nat)
  /-- CONN_DRAIN_DONE (R252) -/
  | connDrainDone (y conn : Nat)
  /-- SEND (R264) -/
  | send (y : Nat) (h : WrtHdr) (msn msgLen msgOff : Nat) (payload : List Byte) (host : HostSide)
  /-- SEND_IMM (R261) -/
  | sendImm (y : Nat) (h : WrtHdr) (msn imm msgLen msgOff : Nat) (payload : List Byte) (host : HostSide)
  /-- TSEND (R284) -/
  | tsend (y : Nat) (h : WrtHdr) (msn msgLen msgOff tag : Nat) (payload : List Byte) (host : HostSide)
  /-- RTS (R284) -/
  | rts (y : Nat) (h : WrtHdr) (msn handle msgLen tag : Nat)
  /-- WRITE (R348) -/
  | write (y : Nat) (h : WrtHdr) (msn msgLen off wkey : Nat) (payload : List Byte) (host : HostSide)
  /-- WRITE_IMM (R261) -/
  | writeImm (y : Nat) (h : WrtHdr) (msn imm msgLen off wkey : Nat) (payload : List Byte) (host : HostSide)
  /-- READ_REQ (R261) -/
  | readReq (y : Nat) (h : WrtHdr) (msn handle readLen off wkey : Nat) (host : HostSide)
  /-- READ_RSP (R268) -/
  | readRsp (y : Nat) (h : WrtHdr) (msn readLen off : Nat) (payload : List Byte)
  /-- FADD (R266) -/
  | fadd (y : Nat) (h : WrtHdr) (msn wkey off operand : Nat) (host : HostSide)
  /-- CSWAP (R266) -/
  | cswap (y : Nat) (h : WrtHdr) (msn wkey off operand compare : Nat) (host : HostSide)
  /-- ATOMIC_RSP (R261) -/
  | atomicRsp (y : Nat) (h : WrtHdr) (msn original : Nat)
  /-- ADDW_FP32 (R267) -/
  | addwFp32 (y : Nat) (h : WrtHdr) (msn msgLen off wkey : Nat) (payload : List Byte) (host : HostSide)
  /-- ADDW_BF16 (R267) -/
  | addwBf16 (y : Nat) (h : WrtHdr) (msn msgLen off wkey : Nat) (payload : List Byte) (host : HostSide)
  /-- FLUSH_READ (R265) -/
  | flushRead (y : Nat) (h : WrtHdr) (msn off wkey : Nat) (host : HostSide)
  /-- RNDV_FIN (R284) -/
  | rndvFin (y : Nat) (h : WrtHdr) (msn handle delivered code : Nat)
  /-- ACK (R275) -/
  | ack (y : Nat) (h : WrtHdr) (e : AckExt)
  /-- NAK (R280) -/
  | nak (y : Nat) (h : WrtHdr) (e : AckExt)
  /-- RETRANSMIT_TIMER_EXPIRY (R276) -/
  | retransmitTimerExpiry (y conn : Nat)
  /-- ACK_TIMER_EXPIRY (R274) -/
  | ackTimerExpiry (y conn : Nat)
  /-- INCREASE_TIMER (R287) -/
  | increaseTimer (y conn : Nat)
  /-- RNR_WAIT_END (R280) -/
  | rnrWaitEnd (y conn : Nat)
  /-- BIND (R298): the binding at YRD_RING_ADDR, or none when it cannot be read -/
  | bind (y conn : Nat) (desc : Option (List Byte))
  /-- UNBIND (R298) -/
  | unbind (y conn : Nat)
  /-- RING_QUERY (R323) -/
  | ringQuery (y conn : Nat)
  /-- DOORBELL (R303): the send or receive doorbell of ring r, and the entries the ring's memory holds from entry
  n mod E on, as the scan finds them (for a ring in a device segment they are read from the segment); `xl` the translation
  of the first page it fetches from (R302) -/
  | doorbell (y r : Nat) (recv : Bool) (mem : List (List Byte)) (xl : Xlat := .hit)
  /-- PUSH (R308): a 64-byte write at `off` of the push window of ring r; `mem` and `xl` as for DOORBELL -/
  | push (y r off : Nat) (bytes : List Byte) (mem : List (List Byte)) (xl : Xlat := .hit)
  /-- NOP_ENTRY (R302) -/
  | nopEntry (y r : Nat)
  /-- SEND_ENTRY (R302) -/
  | sendEntry (y r : Nat) (host : HostSide)
  /-- SEND_IMM_ENTRY (R302) -/
  | sendImmEntry (y r : Nat) (host : HostSide)
  /-- TSEND_ENTRY (R302) -/
  | tsendEntry (y r : Nat) (host : HostSide)
  /-- WRITE_ENTRY (R302) -/
  | writeEntry (y r : Nat) (host : HostSide)
  /-- WRITE_IMM_ENTRY (R302) -/
  | writeImmEntry (y r : Nat) (host : HostSide)
  /-- READ (R302) -/
  | read (y r : Nat) (host : HostSide)
  /-- FADD_ENTRY (R302) -/
  | faddEntry (y r : Nat) (host : HostSide)
  /-- CSWAP_ENTRY (R302) -/
  | cswapEntry (y r : Nat) (host : HostSide)
  /-- ADDW_FP32_ENTRY (R302) -/
  | addwFp32Entry (y r : Nat) (host : HostSide)
  /-- ADDW_BF16_ENTRY (R302) -/
  | addwBf16Entry (y r : Nat) (host : HostSide)
  /-- FLUSH_READ_ENTRY (R302) -/
  | flushReadEntry (y r : Nat)
  /-- RECV (R301) -/
  | recv (y r : Nat)
  /-- TRECV (R301) -/
  | trecv (y r : Nat) (host : HostSide := HostSide.there)
  /-- ENABLE (R294) -/
  | enable (b : Nat)
  /-- RELEASE (R294) -/
  | release (b : Nat)
  /-- YRD_RELEASE (R294) -/
  | yrdRelease (y value : Nat)
  /-- RAKE_DRAIN_END (R441) -/
  | rakeDrainEnd (y : Nat)
  /-- RAKE_COMPLETE (R441) -/
  | rakeComplete (y : Nat)
  /-- YRD_HOST_RESUME (R316) -/
  | yrdHostResume (y value : Nat)
  /-- CONFIG_REQUEST (R295): function 0 is the physical function, b + 1 the virtual function of bay b; `locked` for a
  write to a configuration field that TDISP locks (R436); `w` what it writes of the fields the W48 acts on -/
  | configRequest (fn : Nat) (locked : Bool) (w : Option CfgWrite := none)
  /-- MSIX_UNMASK (R318): vector v of function fn -/
  | msixUnmask (fn v : Nat)
  /-- HOST_RESET (R315) -/
  | hostReset (k : HostResetKind)
  /-- LGQ_AQ_SQ_TAIL (R320): the new tail and the 64-byte administrative entries it passes -/
  | lgqAqSqTail (y value : Nat) (entries : List (List Byte))
  /-- CREATE_CQ (R320): the entry at the head of the administrative queue -/
  | createCq (y : Nat)
  /-- DELETE_CQ (R320) -/
  | deleteCq (y : Nat)
  /-- CREATE_SQ (R320) -/
  | createSq (y : Nat)
  /-- DELETE_SQ (R320) -/
  | deleteSq (y : Nat)
  /-- CREATE_RQ (R320) -/
  | createRq (y : Nat)
  /-- DELETE_RQ (R320) -/
  | deleteRq (y : Nat)
  /-- TAIL_DOORBELL (R321) -/
  | tailDoorbell (y r : Nat) (recv : Bool) (value : Nat) (entries : List (List Byte)) (xl : Xlat := .hit)
  /-- LGQ_CQ_HEAD (R322) -/
  | lgqCqHead (y c value : Nat)
  /-- CTX_CREATE (R336): the descriptor at XLT_CMD_ADDR, or none when it cannot be read -/
  | ctxCreate (y : Nat) (desc : Option (List Byte))
  /-- CTX_DESTROY (R338) -/
  | ctxDestroy (y : Nat) (desc : Option (List Byte))
  /-- SEG_SET (R337) -/
  | segSet (y : Nat) (desc : Option (List Byte))
  /-- SEG_CLEAR (R338) -/
  | segClear (y : Nat) (desc : Option (List Byte))
  /-- WIN_CREATE (R347) -/
  | winCreate (y : Nat) (desc : Option (List Byte))
  /-- WIN_REVOKE (R349) -/
  | winRevoke (y : Nat) (desc : Option (List Byte))
  /-- REVOKE_COMPLETE (R349) -/
  | revokeComplete (y idx : Nat)
  /-- WIN_QUERY (R351) -/
  | winQuery (y : Nat) (desc : Option (List Byte))
  /-- FAULT_RESET (R344) -/
  | faultReset (y : Nat)
  /-- XLT_LOFT_CLEAR (R353) -/
  | xltLoftClear (y value : Nat)
  /-- BATCH_TIME_EXPIRY (R341) -/
  | batchTimeExpiry (y : Nat)
  /-- PAGE_RESPONSE (R344) -/
  | pageResponse (y pasid page : Nat) (r : PageRsp)
  /-- FAULT_TIMEOUT (R344) -/
  | faultTimeout (y pasid page : Nat)
  /-- ATS_INVALIDATE (R340) -/
  | atsInvalidate (y pasid page tag : Nat)
  /-- INVALIDATE_COMPLETION (R340) -/
  | invalidateCompletion (y tag : Nat)
  /-- ATS_TRANSLATION_DONE (R346): the oldest packet of bay b's translation store -/
  | atsTranslationDone (b : Nat) (ok : Bool) (data : List Byte)
  /-- PATROL_SCRUB (R333): one near block of a device -/
  | patrolScrub (dev block : Nat) (r : BlockCheck)
  /-- CXL_LINK_DOWN (R334) -/
  | cxlLinkDown (q : Nat)
  /-- CXL_LINK_UP (R437): with the capacity in GiB of the device found -/
  | cxlLinkUp (q cap : Nat)
  /-- FRAME_RECEIVED (R359) -/
  | frameReceived (l : Nat) (f : FrameTrailer)
  /-- REPLAY_TIMER_EXPIRY (R359) -/
  | replayTimerExpiry (l : Nat)
  /-- LINK_TRAINED (R362) -/
  | linkTrained (l : Nat) (reversed : Bool)
  /-- HELLO (R363) -/
  | hello (l : Nat) (h : Hello)
  /-- DOWN_NOTICE (R362) -/
  | downNotice (l : Nat)
  /-- FEC_LOCK_LOST (R362) -/
  | fecLockLost (l : Nat)
  /-- DOWN_TIMEOUT (R383) -/
  | downTimeout (l : Nat)
  /-- REVIVE (R362) -/
  | revive (l : Nat)
  /-- RETRAIN (R386) -/
  | retrain (l : Nat)
  /-- TRANSIT_PACKET (R373) -/
  | transitPacket (l : Nat) (h : TransitHdr) (bytes : List Byte)
  /-- SIGNAL_PACKET (R367) -/
  | signalPacket (b src nonce event add : Nat) (tagOk : Bool)
  /-- SHADOW_LOAD_DONE (R372): the fetched table image, or none after a host error -/
  | shadowLoadDone (data : Option (List Byte))
  /-- LOAD_GROUPS (R387): the fetched group image, or none after a host error -/
  | loadGroups (data : Option (List Byte))
  /-- SLUICE_PERIOD (R381) -/
  | sluicePeriod (b : Nat)
  /-- ETH_FRAME_RECEIVED (R395) -/
  | ethFrameReceived (u : Nat) (f : EthFrame)
  /-- TRANSMIT_PICK (R398) -/
  | transmitPick (u : Nat)
  /-- SHAPER_REFILL (R402): the shaper of class c of bay b; b = 12 names the management flow -/
  | shaperRefill (b c : Nat)
  /-- GATE_ENTRY_END (R404) -/
  | gateEntryEnd (u : Nat)
  /-- CONFIG_CHANGE (R405) -/
  | configChange (u : Nat)
  /-- GCL_CHANGE_TIME (R405) -/
  | gclChangeTime (u : Nat)
  /-- LPI_ENTRY (R406) -/
  | lpiEntry (u : Nat)
  /-- LPI_WAKE (R406) -/
  | lpiWake (u : Nat)
  /-- ETH_MGMT_TX_TAIL (R408): the new tail, and the slots the host has posted up to it -/
  | ethMgmtTxTail (value : Nat) (slots : List (List Byte))
  /-- ETH_TIME_ADJ (R409) -/
  | ethTimeAdj (value : Nat)
  /-- SUBPORT_LINK_CHANGE (R409) -/
  | subportLinkChange (u : Nat) (up : Bool)
  /-- GET_MEASUREMENTS (R424) -/
  | getMeasurements (tr : Transport) (index : Nat) (nonce : List Byte) (sign : Bool)
  /-- KEY_EXCHANGE (R422) -/
  | keyExchange (tr : Transport) (share : List Byte)
  /-- RESPOND_IF_READY (R423) -/
  | respondIfReady (tr : Transport) (token : Nat)
  /-- GET_REPORT (R427) -/
  | getReport (tr : Transport) (index : Nat) (nonce : List Byte)
  /-- SET_KEYS (R429): `session` is the number of the secure session -/
  | setKeys (tr : Transport) (session lowest keySetId : Nat) (jms mig : List Byte)
  /-- GET_PQ_SIG (R426) -/
  | getPqSig (tr : Transport) (cmd : Nat := 3)
  /-- OPERATOR_KEY (R417) -/
  | operatorKey (tr : Transport) (install : Bool) (slot : Nat) (rsaKey slhKey : List Byte) (a : Auth)
  /-- SET_LIFECYCLE (R419) -/
  | setLifecycle (tr : Transport) (target : Nat) (a : Auth)
  /-- GET_TDISP_VERSION (R436) -/
  | getTdispVersion (y : Nat)
  /-- GET_TDISP_CAPABILITIES (R436) -/
  | getTdispCapabilities (y : Nat)
  /-- LOCK_INTERFACE_REQUEST (R436) -/
  | lockInterfaceRequest (y : Nat) (stream : Nat := 0)
  /-- GET_DEVICE_INTERFACE_REPORT (R436) -/
  | getDeviceInterfaceReport (y : Nat)
  /-- GET_DEVICE_INTERFACE_STATE (R436) -/
  | getDeviceInterfaceState (y : Nat)
  /-- START_INTERFACE_REQUEST (R436) -/
  | startInterfaceRequest (y : Nat)
  /-- STOP_INTERFACE_REQUEST (R436) -/
  | stopInterfaceRequest (y : Nat)
  /-- IDE_KM (R436): stream 0 is the link stream, 1 to 4 the selective streams -/
  | ideKm (session streamId : Nat) (key : List Byte)
  /-- FW_STAGE_DONE (R445): the fetched image, or none after a host error; `core` for control-core firmware -/
  | fwStageDone (core : Bool) (data : Option (List Byte))
  /-- TRACE (R420) -/
  | trace (target : Nat)
  /-- HALT (R420) -/
  | halt (target : Nat)
  /-- SEC_DEBUG_END (R421) -/
  | secDebugEnd (value : Nat)
  /-- SEAL_OBJECT (R439): KEY 0 or 1 -/
  | sealObject (y : Nat) (key : Nat) (host : HostSide)
  /-- UNSEAL (R439) -/
  | unseal (y : Nat) (key : Nat) (host : HostSide)
  /-- SEAL_DONE (R439) -/
  | sealDone (y : Nat)
  /-- CORE_WATCHDOG_EXPIRY (R448): cores 0 to 11 are bay cores, 12 and 13 the device cores -/
  | coreWatchdogExpiry (c : Nat)
  /-- DEVICE_FATAL (R464): the unit that failed, coded as SOURCE of R465 -/
  | deviceFatal (source : Nat)
  /-- GO (R453): identity `id` writes TX_CTRL of channel c -/
  | go (id c len : Nat)
  /-- TAKE (R453) -/
  | take (id c : Nat)
  /-- MBX_BELL_MASK (R454) -/
  | mbxBellMask (id value : Nat)
  /-- PING (R455): a core with identity code `id` answers the message waiting on channel c -/
  | ping (id c : Nat)
  /-- GET_INFO (R455) -/
  | getInfo (id c : Nat)
  /-- GET_ERR (R455) -/
  | getErr (id c : Nat)
  /-- PAN_CHECK_FAIL (R466) -/
  | panCheckFail (b k : Nat)
  /-- SPARE_SUBSTITUTION (R467) -/
  | spareSubstitution (b k : Nat)
  /-- COLD_RESET (R476): the pin straps and what the boot finds: `tamperLow` for TAMPER_N low at step 2, `failed` for the pans that
  the self-test finds failed, `core` for the core 12 to 14 whose boot fails -/
  | coldReset (addr : Nat) (tamperLow : Bool) (failed : Nat := 0) (core : Option Nat := none) (badSlots : Nat := 0)
  /-- CRP_RESET_CMD (R477) -/
  | crpResetCmd (value : Nat)
  /-- BMC_WARM_RESET (R461) -/
  | bmcWarmReset (value : Nat)
  /-- FUNCTION_LEVEL_RESET (R296) -/
  | functionLevelReset (y : Nat)
  /-- CRP_BAY_RESET (R480) -/
  | crpBayReset (value : Nat)
  /-- YARD_RESET_DONE (R480) -/
  | yardResetDone (y : Nat)
  /-- CRP_PSTATE_REQ (R482) -/
  | crpPstateReq (value : Nat)
  /-- BMC_PSTATE_REQ (R482) -/
  | bmcPstateReq (value : Nat)
  /-- LINK_QUIET (R481) -/
  | linkQuiet (l : Nat)
  /-- THERMAL_THROTTLE (R483): the hottest sensor in °C -/
  | thermalThrottle (temp : Nat)
  /-- THERMTRIP (R483) -/
  | thermtrip (temp : Nat)
  /-- FREEZE (R484) -/
  | freeze (y mode : Nat)
  /-- CRP_FREEZE_REQ (R494) -/
  | crpFreezeReq (value : Nat)
  /-- FREEZE_TAKES_EFFECT (R484) -/
  | freezeTakesEffect (y : Nat)
  /-- RESUME (R486) -/
  | resume (y : Nat)
  /-- SAVE (R487) -/
  | save (y : Nat)
  /-- RESTORE (R490) -/
  | restore (y : Nat)
  /-- YRD_FRZ_ACK (R489) -/
  | yrdFrzAck (y value : Nat)
  /-- SAVE_PART (R489) -/
  | savePart (y : Nat)
  /-- RESTORE_PART (R490): the seal object in the part's host slot -/
  | restorePart (y : Nat) (object : List Byte)
  /-- LAP_CREDIT_RETURN (R133) -/
  | lapCreditReturn (y comm n : Nat)
  /-- FRAME_SCHEDULER_PICK (R380) -/
  | frameSchedulerPick (l : Nat)
  /-- PACED_TRANSMISSION (R286): the source bytes of the packet when they lie in host memory -/
  | pacedTransmission (y conn : Nat) (host : HostSide)
  /-- LGQ_AQ_CQ_HEAD (R320) -/
  | lgqAqCqHead (y value : Nat)
  /-- I3C_PRIVATE_WRITE (R461) -/
  | i3cPrivateWrite (off value : Nat)
  /-- SETDASA (R501): static address and the dynamic address assigned -/
  | setdasa (static dynamic : Nat)
  /-- SECURITY_PROCESSOR_RESTARTED (R445): `ok` when the new firmware passed its own check at boot -/
  | securityProcessorRestarted (ok : Bool)
  /-- THROTTLE_RAISE (R483) -/
  | throttleRaise (temp : Nat)
  /-- RX_LOW_POWER_IDLE (R407) -/
  | rxLowPowerIdle (u : Nat) (enter : Bool)
  /-- GET_VERSION (R422) -/
  | getVersion (tr : Transport)
  /-- GET_CAPABILITIES (R422) -/
  | getCapabilities (tr : Transport)
  /-- NEGOTIATE_ALGORITHMS (R422) -/
  | negotiateAlgorithms (tr : Transport)
  /-- GET_DIGESTS (R422) -/
  | getDigests (tr : Transport)
  /-- GET_CERTIFICATE (R415) -/
  | getCertificate (tr : Transport) (slot : Nat)
  /-- CHALLENGE (R422) -/
  | challenge (tr : Transport) (nonce : List Byte)
  /-- FINISH (R422) -/
  | finish (tr : Transport) (session : Nat)
  /-- HEARTBEAT (R422) -/
  | heartbeat (tr : Transport) (session : Nat)
  /-- KEY_UPDATE (R422) -/
  | keyUpdate (tr : Transport) (session : Nat)
  /-- END_SESSION (R422) -/
  | endSession (tr : Transport) (session : Nat)
  /-- CHUNK_SEND (R422) -/
  | chunkSend (tr : Transport) (handle seq : Nat) (last : Bool) (bytes : List Byte)
  /-- CHUNK_GET (R422) -/
  | chunkGet (tr : Transport) (handle seq : Nat)
  /-- FETCH (R42) -/
  | fetch
  /-- VALIDATE (R38) -/
  | validate
  /-- LAYOUT_CHECK_DONE (R38) -/
  | layoutCheckDone
  /-- DISCARD (R41) -/
  | discard
  /-- LAYOUT_COMMIT_APPLY (R44) -/
  | layoutCommitApply
  /-- PERST_DEASSERT (R500) -/
  | perstDeassert
  /-- PCIE_RETRAIN (R314) -/
  | pcieRetrain
  /-- LOAD_SHADOW (R375) -/
  | loadShadow
  /-- DRAIN (R376) -/
  | drain
  /-- DRAIN_COUNT_ZERO (R375) -/
  | drainCountZero
  /-- SWAP (R376) -/
  | swap
  /-- TBL_RELEASE (R376) -/
  | tblRelease
  /-- DUMP_ACTIVE (R387) -/
  | dumpActive
  /-- DUMP_GROUPS (R387) -/
  | dumpGroups
  /-- TAMPER (R414) -/
  | tamper
  /-- STAGE (R445) -/
  | stage
  /-- ACTIVATE (R445) -/
  | activate
  /-- FW_DISCARD (R444) -/
  | fwDiscard
  /-- SCAN (R420) -/
  | scan
  /-- IDCODE (R503) -/
  | idcode
  /-- BYPASS (R503) -/
  | bypass
  /-- SAMPLE_PRELOAD (R503) -/
  | samplePreload
  /-- EXTEST (R503) -/
  | extest
  /-- EXTEST_PULSE (R503) -/
  | extestPulse
  /-- EXTEST_TRAIN (R503) -/
  | extestTrain
  /-- MIRROR_UPDATE (R460) -/
  | mirrorUpdate
  /-- RAIL_FAULT (R505) -/
  | railFault
  /-- WARM_RESET (R479) -/
  | warmReset
  /-- WARM_RESET_DONE (R479) -/
  | warmResetDone
  /-- PSTATE_CHANGE_DONE (R482) -/
  | pstateChangeDone
  /-- TAMPER_N_HIGH (R414) -/
  | tamperNHigh
deriving DecidableEq, Repr

end Sys2Proof
end

