-- ==== Sys2Proof/Decode.lean ====
section
/-! DEFINITION. The command a table word spells. The rows of the opcode table of this block give no bits: a command
comes from outside with its operands, so no word spells one. -/

namespace Sys2Proof

/-- The command spelled by the `nbits` low bits of `w`: none, as no row of the table gives bits. -/
def decodeTableWord (_nbits _w : Nat) : Option Instr := none

end Sys2Proof
end

