-- ==== Sys2Proof/Config.lean ====
section
/-! DEFINITION. What one implementation or an outside standard fixes, and the free values: constants with no body. -/

namespace Sys2Proof.Config

/-- A free value: a fresh unspecified number for each index (see State.freeIx). Nothing constrains it.
DESIGN CHOICE, log 3. -/
opaque freeNat : Nat → Nat

/-- A free byte: what an open memory range `seed` holds at an address, where the spec calls the contents
unspecified (R16, R83, R186, R197, R214, R243, R280, R334, R435). Nothing constrains it. DESIGN CHOICE, log 3. -/
opaque freeByte : (seed addr : Nat) → Byte

/-- A free choice the spec leaves to the W48 ("the W48 is free to ..."). Nothing constrains it.
DESIGN CHOICE, log 3. -/
opaque freeBool : Nat → Bool

/-- SHA-384 of a byte string (R36, R120, R424, R429): a named outside standard, left uninterpreted.
DESIGN CHOICE, log 59. -/
opaque sha384 : List Byte → BitVec 384

/-- RSA-3072 PSS SHA-384 verification of a signature by the public key `key` (R36, R416), uninterpreted.
DESIGN CHOICE, log 59. -/
opaque rsaVerify : (key : List Byte) → (msg sig : List Byte) → Bool

/-- SLH-DSA-SHA2-192s verification (R36, R416), uninterpreted. DESIGN CHOICE, log 59. -/
opaque slhVerify : (key : List Byte) → (msg sig : List Byte) → Bool

/-- An RSA-3072 PSS signature by identity A (R415, R427), uninterpreted. -/
opaque rsaSign : List Byte → List Byte

/-- An SLH-DSA-SHA2-192s signature by identity B (R415, R427), uninterpreted. -/
opaque slhSign : List Byte → List Byte

/-- HKDF-SHA-384 Expand(Extract(salt, ikm), info, 32) of R431, uninterpreted. DESIGN CHOICE, log 59. -/
opaque hkdf : (salt ikm info : List Byte) → List Byte

/-- AES-256-GCM encryption: key, iv, associated data, plaintext to ciphertext and tag (R248, R439), uninterpreted.
DESIGN CHOICE, log 59. -/
opaque gcmSeal : (key iv aad plain : List Byte) → List Byte

/-- AES-256-GCM decryption; `none` when the tag fails (R439), uninterpreted. DESIGN CHOICE, log 59. -/
opaque gcmOpen : (key iv aad sealed : List Byte) → Option (List Byte)

/-- XTS-AES-256 encryption of a data unit under a key pair and a tweak (R435), uninterpreted. DESIGN CHOICE, log 59. -/
opaque xtsSeal : (keys tweak plain : List Byte) → List Byte

/-- A value drawn from the CTR_DRBG of R413, for each index. Nothing constrains it. DESIGN CHOICE, log 59. -/
opaque drbg : Nat → Nat

/-- The Gaovowyn firmware and life-cycle public keys held in ROM (R416). -/
opaque romKey : (kind : Nat) → List Byte

/-- SHA-384 of the boot ROM (R424, block 1). DESIGN CHOICE, log 6. -/
opaque romDigest : BitVec 384

/-- An FP32 or format result the spec states no value for, from the operation and its operands.
DESIGN CHOICE, log 3; DESIGN CHOICE, log 61. -/
opaque freeResult : (op a b : Nat) → Nat

/-- The lane word that DEV_PANDBG_DATA shows of a working value: 0 finite, 1 infinite, 2 NaN, 3 no lane; its sign; its magnitude.
The spec gives the word no form (R470). DESIGN CHOICE, log 20. -/
opaque laneWord : (kind : Nat) → (neg : Bool) → (mag : Nat) → Nat

/-- The lane word that DEV_PANDBG_DATA shows of an accumulator lane (R70, R470). DESIGN CHOICE, log 20. -/
opaque accWord : (sum : Int) → (nan pinf ninf negz : Bool) → (terms : Nat) → Nat

/-- The device serial number held in fuses (R470). DESIGN CHOICE, log 6. -/
opaque serial : Nat

/-- Gaovowyn's PCI vendor ID, as the configuration space of the physical function reads (R426). DESIGN CHOICE, log 6. -/
opaque pciVendor : Nat

/-- SHA-384 of the firmware the device runs after a cold reset: 0 the security processor's, 1 the control cores'.
DESIGN CHOICE, log 6. -/
opaque bootDigest : (kind : Nat) → List Byte

/-- The certificate chain in an SPDM slot (R415). DESIGN CHOICE, log 6. -/
opaque certificate : (slot : Nat) → List Byte

/-- The part of an SPDM or TDISP response that the outside standards fix: the standard, the request code, what the
answer depends on. PRESUMED, log 30; PRESUMED, log 57. -/
opaque standardResponse : (standard code : Nat) → List Byte → List Byte

/-- The security version a firmware image carries, and its two signatures' offset (the image format is not given).
DESIGN CHOICE, log 33. -/
opaque fwVersion : List Byte → Nat

/-- What GET_INFO reports of firmware with a digest: 0 its version, 1 its security version. -/
opaque fwInfo : (kind : Nat) → List Byte → Nat

/-- The longest SPDM message of a transport, in bytes: 0 DOE, 1 MCTP. PRESUMED, log 30. -/
opaque spdmLimit : (kind : Nat) → Nat

/-- Whether a firmware image has the format the W48 accepts. DESIGN CHOICE, log 33. -/
opaque fwFormat : List Byte → Bool

end Sys2Proof.Config
end

