-- ==== Sys2Proof/Machine/Tab.lean ====
section
/-! DEFINITION. The one shape of every map in State: a list of (key, value) pairs with strictly rising keys. A map of
numbers lists no zero, so that equal register files are equal data. -/

namespace Sys2Proof.Machine

/-- A finite map from numbers, kept with strictly rising keys. DESIGN CHOICE, log 2. -/
abbrev Tab (α : Type) := List (Nat × α)

/-- The entry at `k`. -/
def Tab.find {α : Type} (t : Tab α) (k : Nat) : Option α :=
  match t with
  | [] => none
  | (j, v) :: r => if j = k then some v else Tab.find r k

/-- The entry at `k`, or `dflt`. -/
def Tab.get {α : Type} (t : Tab α) (k : Nat) (dflt : α) : α := (Tab.find t k).getD dflt

/-- `t` with the value `v` at `k`, in key order. -/
def Tab.put {α : Type} (t : Tab α) (k : Nat) (v : α) : Tab α :=
  match t with
  | [] => [(k, v)]
  | (j, w) :: r =>
    if k < j then (k, v) :: (j, w) :: r
    else if k = j then (k, v) :: r
    else (j, w) :: Tab.put r k v

/-- `t` without an entry at `k`. -/
def Tab.del {α : Type} (t : Tab α) (k : Nat) : Tab α :=
  match t with
  | [] => []
  | (j, w) :: r => if j = k then r else (j, w) :: Tab.del r k

/-- A number map: what is not listed is 0, and 0 is never listed. -/
def Tab.num (t : Tab Nat) (k : Nat) : Nat := Tab.get t k 0

/-- Write a number map, keeping 0 unlisted. -/
def Tab.setNum (t : Tab Nat) (k v : Nat) : Tab Nat := if v = 0 then Tab.del t k else Tab.put t k v

/-- The canonical form: keys strictly rise. -/
def Tab.wf {α : Type} (t : Tab α) : Bool :=
  match t with
  | [] => true
  | [_] => true
  | (j, _) :: (k, w) :: r => decide (j < k) && Tab.wf ((k, w) :: r)

/-- The canonical form of a number map: keys strictly rise and no value is 0. -/
def Tab.wfNum (t : Tab Nat) : Bool := Tab.wf t && t.all (fun p => p.2 != 0)

/-- Keep the entries whose key and value satisfy `p`. -/
def Tab.keep {α : Type} (t : Tab α) (p : Nat → α → Bool) : Tab α := List.filter (fun e => p e.1 e.2) t

/-- The keys, rising. -/
def Tab.keys {α : Type} (t : Tab α) : List Nat := List.map (fun e => e.1) t

/-- The values, in key order. -/
def Tab.vals {α : Type} (t : Tab α) : List α := List.map (fun e => e.2) t

end Sys2Proof.Machine
end

