-- ==== Sys2Proof/Machine/Memory.lean ====
section
/-! DEFINITION. The addressed storage of the W48 (loft, near tier, far tier): cells in one canonical form, and the
ranges whose contents the spec calls unspecified. -/

namespace Sys2Proof.Machine

/-- A range of storage whose unlisted bytes are free values (R16, R186, R214, R243, R334, R435): what the range was
left holding by an event the spec gives no contents for. `seed` tells one such event from another. -/
structure OpenRange where
  lo : Nat
  len : Nat
  seed : Nat
deriving DecidableEq, Repr

/-- Storage: listed cells, the open ranges (the newest first), the veiled ranges (R16: what a failed collective wrote reads
as free values until its re-run commits, whatever stands beneath), and the addresses of units whose check cannot be
corrected (R329: a unit is named by its first byte). DESIGN CHOICE, log 2; DESIGN CHOICE, log 44. -/
structure Memory where
  cells : List Host.Cell
  opened : List OpenRange
  veils : List OpenRange
  uc : List Nat
deriving DecidableEq, Repr

/-- Whether address `a` lies in `[lo, lo + len)`. -/
def inRange (a lo len : Nat) : Bool := decide (lo ≤ a) && decide (a < lo + len)

/-- The newest open range that holds address `a`. -/
def openSeed (rs : List OpenRange) (a : Nat) : Option Nat :=
  match rs with
  | [] => none
  | r :: t => if inRange a r.lo r.len then some r.seed else openSeed t a

/-- What an unlisted address reads as: zero, or a free value in an open range. DESIGN CHOICE, log 4. -/
def Memory.background (m : Memory) (a : Nat) : Byte :=
  match openSeed m.opened a with
  | none => 0
  | some seed => Config.freeByte seed a

/-- One byte. -/
def Memory.byte (m : Memory) (a : Nat) : Byte :=
  match openSeed m.veils a with
  | none => (Tab.find m.cells a).getD (m.background a)
  | some seed => Config.freeByte seed a

/-- Ranges with `[lo, lo + len)` taken out. -/
def carve (rs : List OpenRange) (lo len : Nat) : List OpenRange :=
  rs.flatMap (fun r =>
    if lo + len ≤ r.lo ∨ r.lo + r.len ≤ lo then [r] else
      (if r.lo < lo then [{ r with len := lo - r.lo }] else []) ++
      (if lo + len < r.lo + r.len then [{ r with lo := lo + len, len := r.lo + r.len - (lo + len) }] else []))

/-- One byte written. Outside the open ranges a zero is not listed; inside them every written byte is. -/
def Memory.setByte (m : Memory) (a : Nat) (b : Byte) : Memory :=
  if b = 0 ∧ openSeed m.opened a = none then { m with cells := Tab.del m.cells a }
  else { m with cells := Tab.put m.cells a b }

/-- The `n` bytes from `a` on. -/
def Memory.read (m : Memory) (a : Nat) : Nat → List Byte
  | 0 => []
  | n + 1 => m.byte a :: m.read (a + 1) n

/-- Bytes written from `a` on, the first at `a`, beneath any veil: the writes of a collective in progress (R16). -/
def Memory.under (m : Memory) (a : Nat) : List Byte → Memory
  | [] => m
  | b :: bs => (m.setByte a b).under (a + 1) bs

/-- The veils over `[lo, lo + len)` are lifted. -/
def Memory.unveil (m : Memory) (lo len : Nat) : Memory := { m with veils := carve m.veils lo len }

/-- Bytes written from `a` on, the first at `a`: they read as written. -/
def Memory.write (m : Memory) (a : Nat) (bytes : List Byte) : Memory := (m.unveil a bytes.length).under a bytes

/-- `[lo, lo + len)` reads as free values until it is unveiled or written (R16). DESIGN CHOICE, log 44. -/
def Memory.veil (m : Memory) (lo len seed : Nat) : Memory :=
  { m with veils := { lo := lo, len := len, seed := seed } :: m.veils }

/-- Every byte of `[lo, lo + len)` zero: no cell is listed there and no open range covers it. -/
def Memory.clear (m : Memory) (lo len : Nat) : Memory :=
  { cells := m.cells.filter (fun c => !inRange c.1 lo len)
    opened := carve m.opened lo len
    veils := carve m.veils lo len
    uc := m.uc.filter (fun a => !inRange a lo len) }

/-- The contents of `[lo, lo + len)` become unspecified. DESIGN CHOICE, log 3. -/
def Memory.spoil (m : Memory) (lo len seed : Nat) : Memory :=
  { m with cells := m.cells.filter (fun c => !inRange c.1 lo len), opened := { lo := lo, len := len, seed := seed } :: m.opened }

/-- The canonical form: addresses strictly rise, and outside the open ranges no listed byte is zero.
DESIGN CHOICE, log 2. -/
def Memory.wf (m : Memory) : Bool :=
  Tab.wf m.cells && m.cells.all (fun c => c.2 != 0 || (openSeed m.opened c.1).isSome)

end Sys2Proof.Machine
end

