-- ==== Sys2Proof/Machine/Num.lean ====
section
/-! DEFINITION. Pan numbers: working values (R60), storage formats (R61 to R65), the one rounding (R66 to R69), the long
accumulator (R70, R71) and the Philox draw (R73). -/

namespace Sys2Proof.Machine

/-- A working value (R60): `fin neg m` is ± m × 2^−149, and `fin neg 0` a signed zero. -/
inductive WV where
  | fin (neg : Bool) (m : Nat)
  | inf (neg : Bool)
  | nan
deriving DecidableEq, Repr

/-- The flags of PAN_FLAGS (R88) as a bit mask. -/
abbrev Flags := Nat
def flInvalid : Flags := 1
def flDivZero : Flags := 2
def flOverflow : Flags := 4
def flUnderflow : Flags := 8

/-- Two flag masks joined. -/
def flOr (a b : Flags) : Flags := Nat.lor a b

/-- The format codes of R61. -/
inductive Fmt where
  | fp32 | bf16 | fp16 | e4m3 | e5m2 | e2m1 | int8 | int32
  | mxE4m3 | mxE5m2 | mxE3m2 | mxE2m3 | mxE2m1 | mxInt8
deriving DecidableEq, Repr

/-- The format of a 4-bit code (R61); 0xE and 0xF are reserved. -/
def Fmt.ofCode : Nat → Option Fmt
  | 0 => some .fp32 | 1 => some .bf16 | 2 => some .fp16 | 3 => some .e4m3 | 4 => some .e5m2 | 5 => some .e2m1
  | 6 => some .int8 | 7 => some .int32 | 8 => some .mxE4m3 | 9 => some .mxE5m2 | 10 => some .mxE3m2
  | 11 => some .mxE2m3 | 12 => some .mxE2m1 | 13 => some .mxInt8 | _ => none

/-- Whether the format carries block scales (R64). -/
def Fmt.isMx : Fmt → Bool
  | .mxE4m3 | .mxE5m2 | .mxE3m2 | .mxE2m3 | .mxE2m1 | .mxInt8 => true
  | _ => false

/-- Bits of one element. -/
def Fmt.bits : Fmt → Nat
  | .fp32 | .int32 => 32
  | .bf16 | .fp16 => 16
  | .e4m3 | .e5m2 | .int8 | .mxE4m3 | .mxE5m2 | .mxInt8 => 8
  | .mxE3m2 | .mxE2m3 => 6
  | .e2m1 | .mxE2m1 => 4

/-- A floating-point element format: exponent and mantissa widths, bias, whether it has infinities, and whether the
whole top exponent (`ieee`) or only the top mantissa (`top`) of it stands for NaN. -/
structure FpSpec where
  eb : Nat
  mb : Nat
  bias : Nat
  hasInf : Bool
  topNan : Bool

/-- The floating-point formats of R61. -/
def Fmt.fp : Fmt → Option FpSpec
  | .fp32 => some ⟨8, 23, 127, true, false⟩
  | .bf16 => some ⟨8, 7, 127, true, false⟩
  | .fp16 => some ⟨5, 10, 15, true, false⟩
  | .e4m3 | .mxE4m3 => some ⟨4, 3, 7, false, true⟩
  | .e5m2 | .mxE5m2 => some ⟨5, 2, 15, true, false⟩
  | .e2m1 | .mxE2m1 => some ⟨2, 1, 1, false, false⟩
  | .mxE3m2 => some ⟨3, 2, 3, false, false⟩
  | .mxE2m3 => some ⟨2, 3, 1, false, false⟩
  | .int8 | .int32 | .mxInt8 => none

/-- m × 2^k for an integer k, in units of 2^−149, for k + 149 not negative. -/
def units (m : Nat) (k : Int) : Nat := m * 2 ^ (k + 149).toNat

/-- The exponent of the smallest normal magnitude. -/
def FpSpec.emin (f : FpSpec) : Int := 1 - f.bias

/-- The largest finite magnitude, in units of 2^−149. -/
def FpSpec.maxU (f : FpSpec) : Nat :=
  let topE : Int := (2 ^ f.eb - 1 : Nat) - (f.bias : Int) - (if f.hasInf then 1 else 0)
  let sig := 2 ^ (f.mb + 1) - 1 - (if f.topNan then 1 else 0)
  units sig (topE - f.mb)

/-- Decode the bits of a floating-point element (R61). -/
def FpSpec.decode (f : FpSpec) (w : Nat) : WV :=
  let neg := bit w (f.eb + f.mb)
  let e := bits w f.mb f.eb
  let m := bits w 0 f.mb
  if f.hasInf && e == 2 ^ f.eb - 1 then (if m = 0 then .inf neg else .nan)
  else if f.topNan && e == 2 ^ f.eb - 1 && m == 2 ^ f.mb - 1 then .nan
  else if e = 0 then .fin neg (units m (f.emin - f.mb))
  else .fin neg (units (2 ^ f.mb + m) ((e : Int) - f.bias - f.mb))

/-- The NaN encoding the W48 writes (R62). -/
def FpSpec.nanWord (f : FpSpec) : Nat :=
  if f.topNan then 2 ^ (f.eb + f.mb) - 1
  else (2 ^ f.eb - 1) * 2 ^ f.mb + 2 ^ (f.mb - 1)

/-- Encode a working value that the format holds exactly. -/
def FpSpec.encode (f : FpSpec) (v : WV) : Nat :=
  match v with
  | .nan => f.nanWord
  | .inf neg => b2n neg * 2 ^ (f.eb + f.mb) + (2 ^ f.eb - 1) * 2 ^ f.mb
  | .fin neg m =>
    let s := b2n neg * 2 ^ (f.eb + f.mb)
    if m = 0 then s
    else
      let top : Int := (Nat.log2 m : Int) - 149
      if top < f.emin then s + m / 2 ^ (f.emin - f.mb + 149).toNat
      else s + (top + f.bias).toNat * 2 ^ f.mb + (m / 2 ^ (top - f.mb + 149).toNat) % 2 ^ f.mb

/-- Two's complement of width `w` to a working value, `lsb` the exponent of its unit. -/
def intDecode (w : Nat) (lsb : Int) (x : Nat) : WV :=
  if x < 2 ^ (w - 1) then .fin false (units x lsb) else .fin true (units (2 ^ w - x) lsb)

/-- A working value that is a whole multiple of 2^lsb, in two's complement of width `w`. -/
def intEncode (w : Nat) (lsb : Int) (v : WV) : Nat :=
  match v with
  | .fin neg m =>
    let n := m / 2 ^ (lsb + 149).toNat
    if neg then (2 ^ w - n) % 2 ^ w else n % 2 ^ w
  | _ => 0

/-- The value an element's bits stand for; for an MX format before its block scale. -/
def Fmt.decodeElem (f : Fmt) (w : Nat) : WV :=
  match f with
  | .int8 => intDecode 8 0 w
  | .int32 => intDecode 32 0 w
  | .mxInt8 => intDecode 8 (-6) w
  | .mxE4m3 | .mxE5m2 | .mxE3m2 | .mxE2m3 | .mxE2m1 | .fp32 | .bf16 | .fp16 | .e4m3 | .e5m2 | .e2m1 =>
    match f.fp with
    | some s => s.decode w
    | none => .nan

/-- The bits of a working value the format holds exactly; for an MX format without its block scale. -/
def Fmt.encodeElem (f : Fmt) (v : WV) : Nat :=
  match f with
  | .int8 => intEncode 8 0 v
  | .int32 => intEncode 32 0 v
  | .mxInt8 => intEncode 8 (-6) v
  | .mxE4m3 | .mxE5m2 | .mxE3m2 | .mxE2m3 | .mxE2m1 | .fp32 | .bf16 | .fp16 | .e4m3 | .e5m2 | .e2m1 =>
    match f.fp with
    | some s => s.encode v
    | none => 0

/-- A working value times 2^k, exact where the result is a multiple of 2^−149. -/
def WV.shift (v : WV) (k : Int) : WV :=
  match v with
  | .fin neg m => .fin neg (if k < 0 then m / 2 ^ (-k).toNat else m * 2 ^ k.toNat)
  | x => x

/-- An MX element under its scale byte (R64). An element whose own bits are a NaN or an infinity in its element format decodes
so, whatever the scale: the table gives the MX formats elements "as 0x3" and "as 0x4" and names no NaN of theirs but scale
0xFF (R61). DESIGN CHOICE, log 61. -/
def Fmt.decodeMx (f : Fmt) (scale w : Nat) : WV :=
  if scale = 0xFF then .nan else (f.decodeElem w).shift ((scale : Int) - 127)

/-! ### The one rounding -/

/-- An exact non-negative magnitude: num / den, or its square root. -/
structure Mag where
  num : Nat
  den : Nat
  root : Bool

/-- The whole part of the square root of `n`, by `fuel` binary digits. -/
def isqrt (fuel n : Nat) : Nat :=
  match fuel with
  | 0 => 0
  | k + 1 =>
    let r := 2 * isqrt k (n / 4)
    if (r + 1) * (r + 1) ≤ n then r + 1 else r

/-- floor(x × 2^s), and whether something was cut off. -/
def Mag.scaled (x : Mag) (s : Int) : Nat × Bool :=
  let t : Int := if x.root then 2 * s else s
  let n := x.num * 2 ^ t.toNat
  let d := x.den * 2 ^ (-t).toNat
  if x.root then
    let q := n / d
    let r := isqrt (Nat.log2 q / 2 + 1) q
    (r, r * r * d != n)
  else (n / d, n % d != 0)

/-- floor(log2 x) of a nonzero magnitude. -/
def Mag.log2 (x : Mag) : Int :=
  let e0 : Int := (Nat.log2 x.num : Int) - Nat.log2 x.den
  let e : Int := if x.num * 2 ^ (-e0).toNat < x.den * 2 ^ e0.toNat then e0 - 1 else e0
  if x.root then e / 2 else e

/-- The rounding modes of R66. -/
inductive Rnd where
  | rne | rtz | sr
deriving DecidableEq, Repr

/-- The mode of an RND code; 3 is reserved. -/
def Rnd.ofCode : Nat → Option Rnd
  | 0 => some .rne | 1 => some .rtz | 2 => some .sr | _ => none

/-- A nonzero magnitude rounded to a multiple of 2^k (R66, R67): the multiple, and whether it is inexact. `u` is the
draw of SR. -/
def roundGrid (x : Mag) (k : Int) (r : Rnd) (u : Nat) : Nat × Bool :=
  let h := x.scaled (1 - k)
  let n := h.1 / 2
  let half := h.1 % 2
  let inexact := half == 1 || h.2
  let up : Bool := match r with
    | .rne => half == 1 && (h.2 || n % 2 == 1)
    | .rtz => false
    | .sr => decide (u < (x.scaled (32 - k)).1 % 2 ^ 32)
  (if inexact && up then n + 1 else n, inexact)

/-- An exact result: what an instruction rounds once. -/
inductive Exact where
  | mag (neg : Bool) (x : Mag)      -- x not zero
  | zero (neg : Bool)
  | inf (neg : Bool)
  | nan

/-- A working value as an exact result. -/
def WV.exact (v : WV) : Exact :=
  match v with
  | .nan => .nan
  | .inf s => .inf s
  | .fin s m => if m = 0 then .zero s else .mag s { num := m, den := 2 ^ 149, root := false }

/-- A rounded magnitude placed into a floating-point format (R68). -/
def placeFp (fmt : Fmt) (f : FpSpec) (r : Rnd) (sat neg : Bool) (u : Nat) (x : Mag) : WV × Flags :=
  let k := max (x.log2 - f.mb) (f.emin - f.mb)
  let g := roundGrid x k r u
  let m := units g.1 k
  if f.maxU < m then
    if sat || r == .rtz || fmt == .e2m1 then (.fin neg f.maxU, flOverflow)
    else if fmt == .e4m3 then (.nan, flOr flOverflow flInvalid)
    else (.inf neg, flOverflow)
  else (.fin neg m, if g.2 && decide (m < units 1 f.emin) then flUnderflow else 0)

/-- A rounded magnitude placed into a two's complement format (R68); the most negative number is in range. -/
def placeInt (w : Nat) (r : Rnd) (neg : Bool) (u : Nat) (x : Mag) : WV × Flags :=
  let n := (roundGrid x 0 r u).1
  let lim := if neg then 2 ^ (w - 1) else 2 ^ (w - 1) - 1
  if lim < n then (.fin neg (units lim 0), flOverflow)
  else (.fin (neg && n != 0) (units n 0), 0)

/-- The single rounding of R66 to R68 into a format that is not MX, under RND, SAT and the draw u. -/
def roundTo (fmt : Fmt) (r : Rnd) (sat : Bool) (u : Nat) (e : Exact) : WV × Flags :=
  match fmt.fp with
  | some f =>
    match e with
    | .nan => if fmt == .e2m1 then (.fin false 0, flInvalid) else (.nan, 0)
    | .inf s =>
      if f.hasInf then (if sat then (.fin s f.maxU, 0) else (.inf s, 0))
      else if fmt == .e4m3 && !sat then (.nan, flInvalid)
      else (.fin s f.maxU, flInvalid)
    | .zero s => (.fin s 0, 0)
    | .mag s x => placeFp fmt f r sat s u x
  | none =>
    let w := fmt.bits
    match e with
    | .nan => (.fin false 0, flInvalid)
    | .inf s => (.fin s (units (if s then 2 ^ (w - 1) else 2 ^ (w - 1) - 1) 0), flInvalid)
    | .zero _ => (.fin false 0, 0)
    | .mag s x => placeInt w r s u x

/-! ### MX blocks (R65) -/

/-- The E of R65 for an element format. -/
def Fmt.mxE : Fmt → Int
  | .mxE4m3 => 8 | .mxE5m2 => 15 | .mxE3m2 => 4 | .mxE2m3 => 2 | .mxE2m1 => 2 | _ => 0

/-- One element of a block under scale exponent X, saturated; with its flags, `capped` saying X was clamped to 127. -/
def mxElem (fmt : Fmt) (r : Rnd) (capped : Bool) (X : Int) (u : Nat) (v : WV) : Nat × Flags :=
  match v with
  | .fin neg m =>
    if m = 0 then (match fmt.fp with | some f => f.encode (.fin neg 0) | none => 0, 0)
    else
      let x : Mag := { num := m * 2 ^ (-X).toNat, den := 2 ^ 149 * 2 ^ X.toNat, root := false }
      match fmt.fp with
      | some f =>
        let k := max (x.log2 - f.mb) (f.emin - f.mb)
        let g := roundGrid x k r u
        let mu := units g.1 k
        if f.maxU < mu then (f.encode (.fin neg f.maxU), if capped then flOverflow else 0)
        else (f.encode (.fin neg mu), if g.2 && decide (mu < units 1 f.emin) then flUnderflow else 0)
      | none =>
        let g := roundGrid x (-6) r u
        if 127 < g.1 then (intEncode 8 0 (.fin neg (units 127 0)), if capped then flOverflow else 0)
        else (intEncode 8 0 (.fin neg (units g.1 0)), if g.2 && g.1 == 0 then flUnderflow else 0)
  | _ => (0, 0)

/-- Whether a working value is NaN or infinite. -/
def WV.special : WV → Bool
  | .fin _ _ => false
  | _ => true

/-- The magnitude of a finite working value in units of 2^−149. -/
def WV.m : WV → Nat
  | .fin _ m => m
  | _ => 0

/-- Encode one MX block (R65): the scale byte, the element codes and the flags. `us` are the elements' draws. -/
def mxBlock (fmt : Fmt) (r : Rnd) (us : List Nat) (xs : List WV) : Nat × List Nat × Flags :=
  if xs.any WV.special then (0xFF, xs.map (fun _ => 0), flInvalid)
  else
    let top := xs.foldl (fun a v => max a v.m) 0
    if top = 0 then (0, xs.map (fun v => (mxElem fmt r false 0 0 v).1), 0)
    else
      let X0 : Int := (Nat.log2 top : Int) - 149 - fmt.mxE
      let X : Int := max (-127) (min 127 X0)
      let es := List.zipWith (fun u v => mxElem fmt r (decide (127 < X0)) X u v) us xs
      ((X + 127).toNat, es.map (fun e => e.1), es.foldl (fun a e => flOr a e.2) 0)

/-! ### Exact arithmetic (R69) -/

/-- The signed integer of a finite value in units of 2^−149. -/
def signedU (neg : Bool) (m : Nat) : Int := if neg then -(m : Int) else m

/-- An exact sum in units of 2^−s; a zero takes the sign `zneg`. -/
def exactOfInt (n : Int) (s : Nat) (zneg : Bool) : Exact :=
  if n = 0 then .zero zneg else .mag (decide (n < 0)) { num := n.natAbs, den := 2 ^ s, root := false }

/-- Wa + Wb, exactly, with its flags. -/
def exactAdd (a b : WV) : Exact × Flags :=
  match a, b with
  | .nan, _ => (.nan, 0)
  | _, .nan => (.nan, 0)
  | .inf s, .inf t => if s = t then (.inf s, 0) else (.nan, flInvalid)
  | .inf s, _ => (.inf s, 0)
  | _, .inf t => (.inf t, 0)
  | .fin s m, .fin t n => (exactOfInt (signedU s m + signedU t n) 149 (s && t && m == 0 && n == 0), 0)

/-- The sign of a value inverted; NaN stays NaN. -/
def WV.neg : WV → WV
  | .fin s m => .fin (!s) m
  | .inf s => .inf (!s)
  | .nan => .nan

/-- Wa × Wb, exactly, with its flags. -/
def exactMul (a b : WV) : Exact × Flags :=
  match a, b with
  | .nan, _ => (.nan, 0)
  | _, .nan => (.nan, 0)
  | .inf s, .inf t => (.inf (s != t), 0)
  | .inf s, .fin t n => if n = 0 then (.nan, flInvalid) else (.inf (s != t), 0)
  | .fin s m, .inf t => if m = 0 then (.nan, flInvalid) else (.inf (s != t), 0)
  | .fin s m, .fin t n =>
    if m * n = 0 then (.zero (s != t), 0) else (.mag (s != t) { num := m * n, den := 2 ^ 298, root := false }, 0)

/-- Wa × Wb + Wc, exactly, with its flags. -/
def exactFma (a b c : WV) : Exact × Flags :=
  match exactMul a b with
  | (.nan, f) => (.nan, f)
  | (.inf s, f) =>
    match c with
    | .nan => (.nan, f)
    | .inf t => if s = t then (.inf s, f) else (.nan, flOr f flInvalid)
    | .fin _ _ => (.inf s, f)
  | (.zero s, f) =>
    match c with
    | .nan => (.nan, f)
    | .inf t => (.inf t, f)
    | .fin t n => (if n = 0 then .zero (s && t) else (WV.fin t n).exact, f)
  | (.mag s x, f) =>
    match c with
    | .nan => (.nan, f)
    | .inf t => (.inf t, f)
    | .fin t n => (exactOfInt (signedU s x.num + signedU t (n * 2 ^ 149)) 298 false, f)

/-- Wa / Wb, exactly, with its flags. -/
def exactDiv (a b : WV) : Exact × Flags :=
  match a, b with
  | .nan, _ => (.nan, 0)
  | _, .nan => (.nan, 0)
  | .inf _, .inf _ => (.nan, flInvalid)
  | .inf s, .fin t _ => (.inf (s != t), 0)
  | .fin s _, .inf t => (.zero (s != t), 0)
  | .fin s m, .fin t n =>
    if n = 0 then (if m = 0 then (.nan, flInvalid) else (.inf (s != t), flDivZero))
    else if m = 0 then (.zero (s != t), 0)
    else (.mag (s != t) { num := m, den := n, root := false }, 0)

/-- The square root of Wa, exactly, with its flags. -/
def exactSqrt (a : WV) : Exact × Flags :=
  match a with
  | .nan => (.nan, 0)
  | .inf s => if s then (.nan, flInvalid) else (.inf false, 0)
  | .fin s m =>
    if m = 0 then (.zero s, 0)
    else if s then (.nan, flInvalid)
    else (.mag false { num := m, den := 2 ^ 149, root := true }, 0)

/-- The reciprocal square root of Wa, exactly, with its flags. -/
def exactRsqrt (a : WV) : Exact × Flags :=
  match a with
  | .nan => (.nan, 0)
  | .inf s => if s then (.nan, flInvalid) else (.zero false, 0)
  | .fin s m =>
    if m = 0 then (.inf s, flDivZero)
    else if s then (.nan, flInvalid)
    else (.mag false { num := 2 ^ 149, den := m, root := true }, 0)

/-- Wa × 2^k, exactly. Beyond ±1,000 the power is cut: every result then already overflows, or rounds as one below
every grid point does. -/
def exactScale (a : WV) (k : Int) : Exact :=
  match a.exact with
  | .mag s x =>
    let j : Int := max (-1000) (min 1000 k)
    .mag s { x with num := x.num * 2 ^ j.toNat, den := x.den * 2 ^ (-j).toNat }
  | e => e

/-- Order of two values for MIN and MAX (R69): −0 below +0. -/
def WV.below (a b : WV) : Bool :=
  match a, b with
  | .nan, _ => false
  | _, .nan => false
  | .inf s, .inf t => s && !t
  | .inf s, .fin _ _ => s
  | .fin _ _, .inf t => !t
  | .fin s m, .fin t n => decide (signedU s m < signedU t n) || (m == 0 && n == 0 && s && !t)

/-- minimum of R69. -/
def wvMin (a b : WV) : WV := if a = .nan ∨ b = .nan then .nan else if b.below a then b else a

/-- maximum of R69. -/
def wvMax (a b : WV) : WV := if a = .nan ∨ b = .nan then .nan else if a.below b then b else a

/-- The integer a working value holds, if it holds one (R79, INT32 operations). -/
def WV.toInt? (v : WV) : Option Int :=
  match v with
  | .fin s m => if m % 2 ^ 149 = 0 then some (signedU s (m / 2 ^ 149)) else none
  | _ => none

/-- An integer as a working value. -/
def WV.ofInt (n : Int) : WV := .fin (decide (n < 0)) (units n.natAbs 0)

/-- An exact integer result cut to INT32 (R79): wrapped, or saturated under SAT; OVERFLOW when out of range.
DESIGN CHOICE, log 61. -/
def int32Result (sat : Bool) (n : Int) : WV × Flags :=
  let ok : Bool := decide (-(2 ^ 31) ≤ n) && decide (n < 2 ^ 31)
  if ok then (WV.ofInt n, 0)
  else if sat then (WV.ofInt (if n < 0 then -(2 ^ 31) else 2 ^ 31 - 1), flOverflow)
  else (intDecode 32 0 (n % 2 ^ 32).toNat, flOverflow)

/-! ### The long accumulator (R70, R71) -/

/-- One accumulator lane: the exact sum in units of 2^−298, its condition bits and its term count. -/
structure Acc where
  sum : Int
  nan : Bool
  pinf : Bool
  ninf : Bool
  negz : Bool
  terms : Nat
deriving DecidableEq, Repr

/-- An empty lane. -/
def Acc.empty : Acc := { sum := 0, nan := false, pinf := false, ninf := false, negz := false, terms := 0 }

/-- A term added to a lane. -/
def Acc.add (a : Acc) (e : Exact) : Acc :=
  let nz : Bool := match e with
    | .zero true => a.terms == 0 || a.negz
    | _ => false
  let b := { a with terms := a.terms + 1, negz := nz }
  match e with
  | .nan => { b with nan := true }
  | .inf true => { b with ninf := true }
  | .inf false => { b with pinf := true }
  | .zero _ => b
  | .mag s x => { b with sum := b.sum + signedU s (x.num * (2 ^ 298 / x.den)) }

/-- The value read from a lane, with the flag of ∞ − ∞. -/
def Acc.value (a : Acc) : Exact × Flags :=
  if a.nan then (.nan, 0)
  else if a.pinf && a.ninf then (.nan, flInvalid)
  else if a.pinf then (.inf false, 0)
  else if a.ninf then (.inf true, 0)
  else (exactOfInt a.sum 298 a.negz, 0)

/-- The exact result with its sign inverted. -/
def Exact.neg : Exact → Exact
  | .mag s x => .mag (!s) x
  | .zero s => .zero (!s)
  | .inf s => .inf (!s)
  | .nan => .nan

/-! ### Stochastic draws (R73) -/

/-- `n` rounds of Philox-4x32, the first with the key as given. -/
def philoxRounds (n : Nat) (c0 c1 c2 c3 k0 k1 : Nat) : List Nat :=
  match n with
  | 0 => [c0, c1, c2, c3]
  | j + 1 =>
    let p0 := 0xD2511F53 * c0
    let p1 := 0xCD9E8D57 * c2
    philoxRounds j (Nat.xor (Nat.xor (p1 / 2 ^ 32) c1) k0) (p1 % 2 ^ 32)
      (Nat.xor (Nat.xor (p0 / 2 ^ 32) c3) k1) (p0 % 2 ^ 32)
      ((k0 + 0x9E3779B9) % 2 ^ 32) ((k1 + 0xBB67AE85) % 2 ^ 32)

/-- Philox-4x32-10. -/
def philox (c0 c1 c2 c3 k0 k1 : Nat) : List Nat := philoxRounds 10 c0 c1 c2 c3 k0 k1

/-- What a draw depends on beside the element index and the slot (R73, R75). -/
structure DrawKey where
  seed : Nat
  stepCount : Nat
  member : Nat
  stream : Nat
deriving DecidableEq, Repr

/-- The draw of element `e` for the rounding instruction in `slot` (R73). -/
def draw (d : DrawKey) (slot e : Nat) : Nat :=
  let g := e / 4
  let out := philox (g % 2 ^ 32) (bits g 32 16 + slot % 64 * 2 ^ 16) (bits d.stepCount 0 32)
    (bits d.stepCount 32 16 + d.member % 4096 * 2 ^ 16 + d.stream % 16 * 2 ^ 28) (bits d.seed 0 32) (bits d.seed 32 32)
  out.getD (e % 4) 0

/-! ### Packed elements (R63) -/

/-- Codes of `w` bits packed little-endian into a number. -/
def packNat (w : Nat) : List Nat → Nat
  | [] => 0
  | c :: cs => c % 2 ^ w + 2 ^ w * packNat w cs

/-- Element codes packed into bytes. -/
def packElems (w : Nat) (cs : List Nat) : List Byte := leBytes (ceilDiv (w * cs.length) 8) (packNat w cs)

/-- `n` codes of `w` bits of a number. -/
def unpackNat (w : Nat) : Nat → Nat → List Nat
  | 0, _ => []
  | n + 1, v => v % 2 ^ w :: unpackNat w n (v / 2 ^ w)

/-- `n` element codes of a byte string. -/
def unpackElems (w n : Nat) (bs : List Byte) : List Nat := unpackNat w n (leNat bs)

/-- A list cut into runs of `n` (n not zero); `fuel` bounds their number. -/
def chunksOf {α : Type} (fuel n : Nat) (xs : List α) : List (List α) :=
  match fuel with
  | 0 => []
  | k + 1 => match xs with
    | [] => []
    | _ => xs.take n :: chunksOf k n (xs.drop n)

/-- Decode `n` elements: element bytes and, for an MX format, block scale bytes (R64). -/
def decodeElems (f : Fmt) (n : Nat) (elems scales : List Byte) : List WV :=
  let cs := unpackElems f.bits n elems
  if f.isMx then
    (List.zip (List.range n) cs).map (fun p => f.decodeMx (scales.getD (p.1 / 32) 0xFF).toNat p.2)
  else cs.map f.decodeElem

end Sys2Proof.Machine
end

