-- ==== Sys2Proof/Machine/PanProg.lean ====
section
/-! DEFINITION. Pan programs: their encoding (R77, R78), the checks of a program at load (R80) and one beat of a run
(R79, R81). -/

namespace Sys2Proof.Machine

/-- A decoded instruction word (R78). -/
structure PInstr where
  opc : Nat
  fmt : Nat
  rnd : Nat
  sat : Bool
  cond : Nat
  dst : Nat
  sa : Nat
  sb : Nat
  sc : Nat
  acc : Nat
  imm : Nat
deriving DecidableEq, Repr

/-- A program block (R77). -/
structure Prog where
  id : Nat
  lanes : Nat
  inFmts : List Fmt
  outFmt : Option Fmt
  usesSr : Bool
  code : List PInstr
deriving DecidableEq, Repr

/-- The fields of an instruction word (R78). -/
def PInstr.decode (w : Nat) : PInstr :=
  { opc := bits w 58 6, fmt := bits w 54 4, rnd := bits w 52 2, sat := bit w 51, cond := bits w 49 2, dst := bits w 45 4,
    sa := bits w 41 4, sb := bits w 37 4, sc := bits w 33 4, acc := bits w 32 1, imm := bits w 0 32 }

/-- The opcodes of R79. -/
def opcDefined (o : Nat) : Bool :=
  o ≤ 0x04 || (0x08 ≤ o && o ≤ 0x16) || (0x18 ≤ o && o ≤ 0x1E)

/-- Whether an opcode takes a rounding format that must be FP32 or INT32 (R80). -/
def opcNoInt (o : Nat) : Bool :=
  o == 0x0B || o == 0x0C || o == 0x0D || o == 0x0E || o == 0x13 || o == 0x14 || o == 0x16

/-- The refusals of R80 that one instruction can meet. -/
def PInstr.bad (i : PInstr) (lanes inCount : Nat) (out sr : Bool) : Bool :=
  !opcDefined i.opc || i.rnd == 3 || i.cond == 3 ||
  (if i.opc == 0x15 then decide (13 < i.fmt) || (8 ≤ i.fmt && decide (lanes < 32)) else !(i.fmt == 0 || i.fmt == 7)) ||
  (opcNoInt i.opc && i.fmt == 7) ||
  (i.opc == 0x01 && (i.cond != 0 || decide (inCount ≤ i.sa) || i.fmt != 0)) ||
  (i.opc == 0x02 && (!out || i.fmt != 0)) ||
  (i.rnd == 2 && !sr)

/-- How many LDs read input stream `k`. -/
def ldCount (code : List PInstr) (k : Nat) : Nat := (code.filter (fun i => i.opc == 0x01 && i.sa == k)).length

/-- How many STs the code holds. -/
def stCount (code : List PInstr) : Nat := (code.filter (fun i => i.opc == 0x02)).length

/-- The slot of the first element of a list that satisfies `p`. -/
def firstIdx {α : Type} (p : α → Bool) (i : Nat) : List α → Option Nat
  | [] => none
  | x :: xs => if p x then some i else firstIdx p (i + 1) xs

/-- The outcome of reading one program block: the program, or the offset inside the block and the slot (0xFF for the
header) of the first offending field. -/
inductive ProgRead where
  | ok (p : Prog)
  | bad (off slot id : Nat)

/-- Read a program block of `16 + 8 LEN` bytes (R77, R80). -/
def Prog.read (bs : List Byte) : ProgRead :=
  let n8 (o : Nat) := (bs.getD o 0).toNat
  let id := leNat ((bs.drop 0).take 2)
  let len := n8 2
  let lanesF := n8 3
  let inCount := n8 4
  let outF := n8 5
  let fmt := leNat ((bs.drop 6).take 2)
  let flags := n8 8
  let lanes := 32 * 2 ^ (lanesF % 4)
  let out := outF == 1
  let fmts := (List.range 3).map (fun k => bits fmt (4 * k) 4)
  let of := bits fmt 12 4
  let bad (o : Nat) : ProgRead := .bad o 0xFF id
  if len = 0 ∨ 64 < len then bad 2
  else if 4 ≤ lanesF then bad 3
  else if 3 < inCount then bad 4
  else if 2 ≤ outF then bad 5
  else if ((List.range 3).any (fun k => if k < inCount then decide (13 < fmts.getD k 0) else fmts.getD k 0 != 0)) ||
      (if out then decide (13 < of) else of != 0) then bad 6
  else if 2 ≤ flags then bad 8
  else if ((bs.drop 9).take 7).any (fun b => b != 0) then bad 9
  else
    let sr := flags == 1
    let code := (List.range len).map (fun k => PInstr.decode (leNat ((bs.drop (16 + 8 * k)).take 8)))
    match firstIdx (fun i => i.bad lanes inCount out sr) 0 code with
    | some k => .bad (16 + 8 * k) k id
    | none =>
      if (List.range inCount).any (fun k => ldCount code k != 1) then bad 4
      else if (out && stCount code != 1) then bad 5
      else .ok { id := id, lanes := lanes, inFmts := (fmts.take inCount).filterMap Fmt.ofCode,
                 outFmt := if out then Fmt.ofCode of else none, usesSr := sr, code := code }

/-- The COND of the program's ST (0 when it has none). -/
def Prog.stCond (p : Prog) : Nat := ((p.code.find? (fun i => i.opc == 0x02)).map (fun i => i.cond)).getD 0

/-! ### The term bound (R118) -/

/-- Terms an instruction adds to accumulator `a` in one beat. -/
def PInstr.terms (i : PInstr) (lanes a : Nat) : Nat :=
  if i.acc != a then 0
  else if i.opc == 0x19 || i.opc == 0x1A || i.opc == 0x1B then 1
  else if i.opc == 0x1C then lanes
  else 0

/-- Whether an instruction empties accumulator `a`. -/
def PInstr.empties (i : PInstr) (a : Nat) : Bool := i.acc == a && (i.opc == 0x18 || i.opc == 0x1E)

/-- The bound of R118 for accumulator `a`, with period P and beats B. -/
def Prog.termBound (p : Prog) (a P B : Nat) : Nat :=
  let T := (p.code.map (fun i => i.terms p.lanes a)).sum
  let bound (k : Nat) (i : PInstr) : Nat :=
    if i.cond = 0 then T
    else if (i.cond = 1 && (p.code.take k).all (fun j => j.terms p.lanes a == 0)) ||
        (i.cond = 2 && (p.code.drop (k + 1)).all (fun j => j.terms p.lanes a == 0)) then P * T
    else (P + 1) * T
  (List.zip (List.range p.code.length) p.code).foldl
    (fun m e => if e.2.empties a then min m (bound e.1 e.2) else m) (B * T)

/-! ### One beat -/

/-- The registers of a run context (R58): 16 working registers and two accumulators, each of L lanes. -/
structure PanRegs where
  w : List (List WV)
  a : List (List Acc)
deriving DecidableEq, Repr

/-- The registers at the start of a run: every lane +0, every accumulator lane empty. -/
def PanRegs.start (lanes : Nat) : PanRegs :=
  { w := List.replicate 16 (List.replicate lanes (.fin false 0)), a := List.replicate 2 (List.replicate lanes Acc.empty) }

/-- Where a beat stands: the run parameters of R74 and the draw key of R73. -/
structure BeatAt where
  key : DrawKey
  base : Nat      -- effective base element index E
  pos : Nat       -- position x of the run's first element in the step
  beat : Nat
  period : Nat

/-- The result of a beat: registers, the elements the ST wrote (bytes and scale bytes) and the flags raised. -/
structure BeatOut where
  regs : PanRegs
  out : Option (List Byte × List Byte)
  flags : Flags

/-- The element index of a lane (R74); `condSt` for an ST with COND 1 or 2. -/
def BeatAt.elem (t : BeatAt) (lanes lane : Nat) (condSt : Bool) : Nat :=
  let p := t.pos + t.beat * lanes + lane
  if condSt then t.base + p / (t.period * lanes) * lanes + p % lanes else t.base + p

/-- Combine lane results with their flags. -/
def joinFlags {α : Type} (rs : List (α × Flags)) : List α × Flags :=
  (rs.map (fun r => r.1), rs.foldl (fun f r => flOr f r.2) 0)

/-- One lane of a three-operand floating-point operation before its rounding, with its own flags. -/
def laneExact (opc : Nat) (imm : Int) (a b c : WV) : Exact × Flags :=
  match opc with
  | 0x08 => exactAdd a b
  | 0x09 => exactAdd a b.neg
  | 0x0A => exactMul a b
  | 0x0B => exactFma a b c
  | 0x0C => exactDiv a b
  | 0x0D => exactSqrt a
  | 0x0E => exactRsqrt a
  | 0x16 => (exactScale a imm, 0)
  | _ => (a.exact, 0)

/-- One lane of an INT32 operation (R79). -/
def laneInt (opc : Nat) (sat : Bool) (a b : WV) : WV × Flags :=
  match a.toInt?, b.toInt? with
  | some x, some y =>
    match opc with
    | 0x08 => int32Result sat (x + y)
    | 0x09 => int32Result sat (x - y)
    | 0x0A => int32Result sat (x * y)
    | 0x0F => (WV.ofInt (min x y), 0)
    | _ => (WV.ofInt (max x y), 0)
  | _, _ => (.fin false 0, flInvalid)

/-- One lane of an operation that does not round. -/
def laneMove (opc : Nat) (a b c : WV) : WV :=
  match opc with
  | 0x0F => wvMin a b
  | 0x10 => wvMax a b
  | 0x11 => match a with | .fin _ m => .fin false m | .inf _ => .inf false | .nan => .nan
  | 0x12 => a.neg
  | 0x13 => match a with
    | .nan => .nan
    | .inf s => WV.ofInt (if s then -1 else 1)
    | .fin s m => if m = 0 then .fin false 0 else WV.ofInt (if s then -1 else 1)
  | 0x14 => if (WV.fin false 0).below a then b else c
  | _ => a

/-- Round every lane into an MX format, 32 lanes a block (R65): per block its scale byte and element codes. -/
def mxLanes (fmt : Fmt) (r : Rnd) (us : List Nat) (xs : List WV) : List (Nat × List Nat × Flags) :=
  List.zipWith (fun u x => mxBlock fmt r u x) (chunksOf us.length 32 us) (chunksOf xs.length 32 xs)

/-- Encode a beat's elements in the output format (ST): element bytes and scale bytes, with flags. -/
def encodeLanes (fmt : Fmt) (r : Rnd) (sat : Bool) (us : List Nat) (xs : List WV) : (List Byte × List Byte) × Flags :=
  if fmt.isMx then
    let bl := mxLanes fmt r us xs
    ((packElems fmt.bits (bl.flatMap (fun b => b.2.1)), bl.map (fun b => BitVec.ofNat 8 b.1)),
      bl.foldl (fun f b => flOr f b.2.2) 0)
  else
    let rs := joinFlags (List.zipWith (fun u x => roundTo fmt r sat u x.exact) us xs)
    ((packElems fmt.bits (rs.1.map fmt.encodeElem), []), rs.2)

/-- Round every lane into a format and hold the results as working values (CVT). -/
def convertLanes (fmt : Fmt) (r : Rnd) (sat : Bool) (us : List Nat) (xs : List WV) : List WV × Flags :=
  if fmt.isMx then
    let bl := mxLanes fmt r us xs
    (bl.flatMap (fun b => b.2.1.map (fmt.decodeMx b.1)), bl.foldl (fun f b => flOr f b.2.2) 0)
  else joinFlags (List.zipWith (fun u x => roundTo fmt r sat u x.exact) us xs)

/-- A signed 32-bit immediate. -/
def signed32 (n : Nat) : Int := if n < 2 ^ 31 then (n : Int) else (n : Int) - 2 ^ 32

/-- Whether an instruction acts in a beat (R78, R81). -/
def PInstr.active (i : PInstr) (t : BeatAt) : Bool :=
  i.cond == 0 || (i.cond == 1 && t.beat % t.period == 0) || (i.cond == 2 && t.beat % t.period + 1 == t.period)

/-- Add one term per lane to an accumulator. -/
def accLanes (acc : List Acc) (ts : List (Exact × Flags)) : List Acc × Flags :=
  (List.zipWith (fun a t => a.add t.1) acc ts, ts.foldl (fun f t => flOr f t.2) 0)

/-- One instruction of a beat (R79). `ins` holds the decoded operands of each input stream. FMT INT32 asks for integer operands;
the model tests them in ADD, SUB, MUL, MIN and MAX, which compute on integers, and lets MOV, ABS, NEG, ACC, MAC, MACN and
HMAC act as with FP32. DESIGN CHOICE, log 61. -/
def beatInstr (p : Prog) (t : BeatAt) (ins : List (List WV)) (o : BeatOut) (slot : Nat) (i : PInstr) : BeatOut :=
  if !i.active t then o
  else
    let L := p.lanes
    let reg (k : Nat) : List WV := o.regs.w.getD k []
    let setW (v : List WV) (f : Flags) : BeatOut :=
      { o with regs := { o.regs with w := o.regs.w.set i.dst v }, flags := flOr o.flags f }
    let setA (v : List Acc) (f : Flags) : BeatOut :=
      { o with regs := { o.regs with a := o.regs.a.set i.acc v }, flags := flOr o.flags f }
    let wa := reg i.sa
    let wb := reg i.sb
    let wc := reg i.sc
    let acc := o.regs.a.getD i.acc []
    let r := (Rnd.ofCode i.rnd).getD .rne
    let fmt := (Fmt.ofCode i.fmt).getD .fp32
    let us (condSt : Bool) : List Nat :=
      if i.rnd = 2 then (List.range L).map (fun n => draw t.key slot (t.elem L n condSt)) else List.replicate L 0
    let three (f : WV → WV → WV → WV × Flags) : BeatOut :=
      let rs := joinFlags (List.zipWith (fun a bc => f a bc.1 bc.2) wa (List.zip wb wc))
      setW rs.1 rs.2
    match i.opc with
    | 0x00 => o
    | 0x01 => setW (ins.getD i.sa []) 0
    | 0x02 =>
      match p.outFmt with
      | none => o
      | some f =>
        let e := encodeLanes f r i.sat (us (i.cond != 0)) wa
        { o with out := some e.1, flags := flOr o.flags e.2 }
    | 0x03 =>
      let v := if i.fmt = 7 then WV.ofInt (signed32 i.imm) else Fmt.fp32.decodeElem i.imm
      setW (List.replicate L v) 0
    | 0x15 =>
      let e := convertLanes fmt r i.sat (us false) wa
      setW e.1 e.2
    | 0x18 => setA (List.replicate L Acc.empty) 0
    | 0x19 => let e := accLanes acc (wa.map (fun v => (v.exact, 0))); setA e.1 e.2
    | 0x1A => let e := accLanes acc (List.zipWith exactMul wa wb); setA e.1 e.2
    | 0x1B =>
      let e := accLanes acc ((List.zipWith exactMul wa wb).map (fun x => (x.1.neg, x.2)))
      setA e.1 e.2
    | 0x1C =>
      let ts := List.zipWith exactMul wa wb
      match acc with
      | [] => o
      | a0 :: rest => setA (ts.foldl (fun a x => a.add x.1) a0 :: rest) (ts.foldl (fun f x => flOr f x.2) 0)
    | 0x1D | 0x1E =>
      let rs := joinFlags (List.zipWith (fun u a =>
        let v := a.value
        let q := roundTo fmt r i.sat u v.1
        (q.1, flOr v.2 q.2)) (us false) acc)
      let o1 := setW rs.1 rs.2
      if i.opc = 0x1E then { o1 with regs := { o1.regs with a := o1.regs.a.set i.acc (List.replicate L Acc.empty) } } else o1
    | opc =>
      if opc = 0x08 ∨ opc = 0x09 ∨ opc = 0x0A ∨ opc = 0x0B ∨ opc = 0x0C ∨ opc = 0x0D ∨ opc = 0x0E ∨ opc = 0x16 then
        if i.fmt = 7 then three (fun a b _ => laneInt opc i.sat a b)
        else
          let rs := joinFlags (List.zipWith (fun u abc =>
            let x := laneExact opc (signed32 i.imm) abc.1 abc.2.1 abc.2.2
            let q := roundTo .fp32 r i.sat u x.1
            (q.1, flOr x.2 q.2)) (us false) (List.zip wa (List.zip wb wc)))
          setW rs.1 rs.2
      else if i.fmt = 7 ∧ (opc = 0x0F ∨ opc = 0x10) then three (fun a b _ => laneInt opc i.sat a b)
      else three (fun a b c => (laneMove opc a b c, 0))

/-- One beat: the instructions in order, each seeing the results of those before it (R81). -/
def beatRun (p : Prog) (t : BeatAt) (ins : List (List WV)) (regs : PanRegs) : BeatOut :=
  (List.zip (List.range p.code.length) p.code).foldl (fun o e => beatInstr p t ins o e.1 e.2)
    { regs := regs, out := none, flags := 0 }

end Sys2Proof.Machine
end

