-- ==== Sys2Proof/Machine/Regs.lean ====
section
/-! DEFINITION. The register maps of BAR0 (R55, R56, R87, R126, R163, R245, R289, R320, R323, R324, R353, R355, R386,
R389, R409, R440, R444, R470 to R472, R493, R495): every register and named field as a place in the register file,
and the table of widths, writable fields, ranges and enumerations. A key below 2^28 is an offset in the physical
function's BAR0; key 2^28 × (y + 1) + offset is an offset in the BAR0 of the function of yard y. -/

namespace Sys2Proof.Machine

/-- A place in the register file: the key of the register, the lsb and the width of the field. -/
structure Fld where
  key : Nat
  lsb : Nat
  w : Nat
deriving DecidableEq, Repr

/-- Part of a register: [lsb + w − 1 : lsb]. -/
def Fld.sub (f : Fld) (lsb w : Nat) : Fld := { f with lsb := lsb, w := w }

/-- The key base of the function of yard `y`. -/
def yb (y : Nat) : Nat := 2 ^ 28 * (y + 1)

namespace R

def LAY_ID : Fld := ⟨0x10000, 0, 32⟩
def LAY_STAGE_ADDR : Fld := ⟨0x10008, 0, 64⟩
def LAY_STAGE_LEN : Fld := ⟨0x10010, 0, 32⟩
def LAY_CMD : Fld := ⟨0x10014, 0, 32⟩
def LAY_COMMIT : Fld := ⟨0x10018, 0, 32⟩
def LAY_STATUS : Fld := ⟨0x1001c, 0, 32⟩
def LAY_STATUS_STAGE : Fld := ⟨0x1001c, 0, 3⟩
def LAY_STATUS_CMD_ERR : Fld := ⟨0x1001c, 4, 1⟩
def LAY_STATUS_COMMITTED : Fld := ⟨0x1001c, 5, 1⟩
def LAY_REPORT_CODE : Fld := ⟨0x10020, 0, 32⟩
def LAY_REPORT_OFFSET : Fld := ⟨0x10024, 0, 32⟩
def LAY_REPORT_DETAIL : Fld := ⟨0x10028, 0, 32⟩
def LAY_SEQ : Fld := ⟨0x10030, 0, 64⟩
def LAY_CURRENT : Fld := ⟨0x10038, 0, 32⟩
def LAY_COMMIT_COUNT : Fld := ⟨0x1003c, 0, 32⟩
def LAY_MEASURE (i : Nat) : Fld := ⟨0x10040 + 4 * i, 0, 32⟩
def LAY_STAGED_MEASURE (i : Nat) : Fld := ⟨0x10070 + 4 * i, 0, 32⟩
def LAY_BAY_STATE : Fld := ⟨0x10100, 0, 32⟩
def LAY_SET_ADDR : Fld := ⟨0x10200, 0, 64⟩
def LAY_SET_COUNT : Fld := ⟨0x10208, 0, 32⟩
def LAY_SET_CMD : Fld := ⟨0x1020c, 0, 32⟩
def LAY_SET_STATUS : Fld := ⟨0x10210, 0, 32⟩
def LAY_SET_STATUS_RESULT : Fld := ⟨0x10210, 0, 3⟩
def LAY_SET_STATUS_CMD_ERR : Fld := ⟨0x10210, 3, 1⟩
def LAY_SET_STATUS_CODE : Fld := ⟨0x10210, 8, 8⟩
def LAY_SET_REPORT_ADDR : Fld := ⟨0x10218, 0, 64⟩
def LAY_SET_CLAMPS : Fld := ⟨0x10220, 0, 32⟩
def LAY_SET_RULE : Fld := ⟨0x10224, 0, 32⟩
def LAY_SET_CONFLICT : Fld := ⟨0x10228, 0, 64⟩
def PAN_ID (y : Nat) : Fld := ⟨yb y + 0x20000, 0, 32⟩
def PAN_FORMATS (y : Nat) : Fld := ⟨yb y + 0x20004, 0, 32⟩
def PAN_COUNT (y : Nat) : Fld := ⟨yb y + 0x20008, 0, 32⟩
def PAN_FLAGS (y : Nat) : Fld := ⟨yb y + 0x20010, 0, 32⟩
def PAN_FLAGS_INVALID (y : Nat) : Fld := ⟨yb y + 0x20010, 0, 1⟩
def PAN_FLAGS_DIVZERO (y : Nat) : Fld := ⟨yb y + 0x20010, 1, 1⟩
def PAN_FLAGS_OVERFLOW (y : Nat) : Fld := ⟨yb y + 0x20010, 2, 1⟩
def PAN_FLAGS_UNDERFLOW (y : Nat) : Fld := ⟨yb y + 0x20010, 3, 1⟩
def PAN_FLAG_IRQ (y : Nat) : Fld := ⟨yb y + 0x20014, 0, 32⟩
def PAN_RUNS (y : Nat) : Fld := ⟨yb y + 0x20018, 0, 64⟩
def PAN_BEATS (y : Nat) : Fld := ⟨yb y + 0x20020, 0, 64⟩
def PAN_LP_STATE (y i : Nat) : Fld := ⟨yb y + 0x20100 + 16 * i, 0, 32⟩
def PAN_LP_STATE_PHYS (y i : Nat) : Fld := ⟨yb y + 0x20100 + 16 * i, 0, 6⟩
def PAN_LP_STATE_ON_SPARE (y i : Nat) : Fld := ⟨yb y + 0x20100 + 16 * i, 6, 1⟩
def PAN_LP_STATE_BUSY (y i : Nat) : Fld := ⟨yb y + 0x20100 + 16 * i, 8, 8⟩
def PAN_LP_STATE_READY (y i : Nat) : Fld := ⟨yb y + 0x20100 + 16 * i, 16, 8⟩
def PAN_LP_STATE_RUNCTX (y i : Nat) : Fld := ⟨yb y + 0x20100 + 16 * i, 24, 3⟩
def PAN_LP_BEATS (y i : Nat) : Fld := ⟨yb y + 0x20108 + 16 * i, 0, 64⟩
def PAN_KAT_KEY (y : Nat) : Fld := ⟨yb y + 0x20800, 0, 64⟩
def PAN_KAT_CTR_LO (y : Nat) : Fld := ⟨yb y + 0x20808, 0, 64⟩
def PAN_KAT_CTR_HI (y : Nat) : Fld := ⟨yb y + 0x20810, 0, 64⟩
def PAN_KAT_CMD (y : Nat) : Fld := ⟨yb y + 0x20818, 0, 32⟩
def PAN_KAT_STATUS (y : Nat) : Fld := ⟨yb y + 0x2081c, 0, 32⟩
def PAN_KAT_OUT_LO (y : Nat) : Fld := ⟨yb y + 0x20820, 0, 64⟩
def PAN_KAT_OUT_HI (y : Nat) : Fld := ⟨yb y + 0x20828, 0, 64⟩
def PAN_CVT_IN (y : Nat) : Fld := ⟨yb y + 0x20840, 0, 32⟩
def PAN_CVT_CTRL (y : Nat) : Fld := ⟨yb y + 0x20844, 0, 32⟩
def PAN_CVT_CTRL_FMT (y : Nat) : Fld := ⟨yb y + 0x20844, 0, 4⟩
def PAN_CVT_CTRL_RND (y : Nat) : Fld := ⟨yb y + 0x20844, 4, 2⟩
def PAN_CVT_CTRL_SAT (y : Nat) : Fld := ⟨yb y + 0x20844, 6, 1⟩
def PAN_CVT_U (y : Nat) : Fld := ⟨yb y + 0x20848, 0, 32⟩
def PAN_CVT_CMD (y : Nat) : Fld := ⟨yb y + 0x2084c, 0, 32⟩
def PAN_CVT_OUT (y : Nat) : Fld := ⟨yb y + 0x20850, 0, 32⟩
def PAN_CVT_STATUS (y : Nat) : Fld := ⟨yb y + 0x20854, 0, 32⟩
def PAN_CVT_STATUS_DONE (y : Nat) : Fld := ⟨yb y + 0x20854, 0, 1⟩
def PAN_CVT_STATUS_BAD_FMT (y : Nat) : Fld := ⟨yb y + 0x20854, 1, 1⟩
def PAN_CVT_STATUS_FLAGS (y : Nat) : Fld := ⟨yb y + 0x20854, 4, 4⟩
def PLN_ID (y : Nat) : Fld := ⟨yb y + 0x10000, 0, 32⟩
def PLN_IMAGE_ADDR (y : Nat) : Fld := ⟨yb y + 0x10008, 0, 64⟩
def PLN_IMAGE_LEN (y : Nat) : Fld := ⟨yb y + 0x10010, 0, 32⟩
def PLN_CMD (y : Nat) : Fld := ⟨yb y + 0x10014, 0, 32⟩
def PLN_STATUS (y : Nat) : Fld := ⟨yb y + 0x10018, 0, 32⟩
def PLN_STATUS_STATE (y : Nat) : Fld := ⟨yb y + 0x10018, 0, 3⟩
def PLN_STATUS_CMD_ERR (y : Nat) : Fld := ⟨yb y + 0x10018, 4, 1⟩
def PLN_STATUS_ITER_END (y : Nat) : Fld := ⟨yb y + 0x10018, 5, 1⟩
def PLN_STATUS_STEP_ERR (y : Nat) : Fld := ⟨yb y + 0x10018, 6, 1⟩
def PLN_STATUS_LOAD_END (y : Nat) : Fld := ⟨yb y + 0x10018, 7, 1⟩
def PLN_STATUS_REFUSED (y : Nat) : Fld := ⟨yb y + 0x10018, 8, 1⟩
def PLN_ITER_COUNT (y : Nat) : Fld := ⟨yb y + 0x1001c, 0, 32⟩
def PLN_REPORT_CODE (y : Nat) : Fld := ⟨yb y + 0x10020, 0, 32⟩
def PLN_REPORT_OFFSET (y : Nat) : Fld := ⟨yb y + 0x10024, 0, 32⟩
def PLN_REPORT_DETAIL (y : Nat) : Fld := ⟨yb y + 0x10028, 0, 32⟩
def PLN_STEP_COUNT (y : Nat) : Fld := ⟨yb y + 0x10030, 0, 64⟩
def PLN_ITER_DONE (y : Nat) : Fld := ⟨yb y + 0x10038, 0, 64⟩
def PLN_ERR (y : Nat) : Fld := ⟨yb y + 0x10040, 0, 32⟩
def PLN_ERR_ORIGIN (y : Nat) : Fld := ⟨yb y + 0x10044, 0, 32⟩
def PLN_IRQ (y : Nat) : Fld := ⟨yb y + 0x10048, 0, 32⟩
def PLN_SEED (y i : Nat) : Fld := ⟨yb y + 0x10080 + 8 * i, 0, 64⟩
def PLN_MEASURE (y i : Nat) : Fld := ⟨yb y + 0x100c0 + 4 * i, 0, 32⟩
def PLN_THREAD (y i : Nat) : Fld := ⟨yb y + 0x10100 + 8 * i, 0, 32⟩
def PLN_EVENT (y i : Nat) : Fld := ⟨yb y + 0x10200 + 8 * i, 0, 64⟩
def PLN_EVENT_ADD (y : Nat) : Fld := ⟨yb y + 0x10400, 0, 32⟩
def TRN_COMM_STATE (y i : Nat) : Fld := ⟨yb y + 0x48000 + 32 * i, 0, 32⟩
def TRN_COMM_LAST (y i : Nat) : Fld := ⟨yb y + 0x48008 + 32 * i, 0, 64⟩
def TRN_COMM_LAST_CODE (y i : Nat) : Fld := ⟨yb y + 0x48008 + 32 * i, 0, 8⟩
def TRN_COMM_LAST_CAUSE (y i : Nat) : Fld := ⟨yb y + 0x48008 + 32 * i, 8, 8⟩
def TRN_COMM_LAST_ORIGIN (y i : Nat) : Fld := ⟨yb y + 0x48008 + 32 * i, 16, 12⟩
def TRN_COMM_LAST_ORIGIN_VALID (y i : Nat) : Fld := ⟨yb y + 0x48008 + 32 * i, 28, 1⟩
def TRN_COMM_LAST_VERDICT (y i : Nat) : Fld := ⟨yb y + 0x48008 + 32 * i, 29, 2⟩
def TRN_COMM_LAST_RESOLVED (y i : Nat) : Fld := ⟨yb y + 0x48008 + 32 * i, 31, 1⟩
def TRN_COMM_LAST_OPSEQ (y i : Nat) : Fld := ⟨yb y + 0x48008 + 32 * i, 32, 16⟩
def TRN_COMM_LAST_STEP (y i : Nat) : Fld := ⟨yb y + 0x48008 + 32 * i, 48, 16⟩
def TRN_COMM_OPS (y i : Nat) : Fld := ⟨yb y + 0x48010 + 32 * i, 0, 64⟩
def TRN_COMM_RESOLVE (y : Nat) : Fld := ⟨yb y + 0x4f000, 0, 32⟩
def TRN_COMM_IRQ (y : Nat) : Fld := ⟨yb y + 0x4f004, 0, 32⟩
def TRN_COMM_IRQ_DOUBT_EN (y : Nat) : Fld := ⟨yb y + 0x4f004, 0, 1⟩
def TRN_COMM_IRQ_VECTOR (y : Nat) : Fld := ⟨yb y + 0x4f004, 16, 11⟩
def TRN_COMM_DOUBT (y : Nat) : Fld := ⟨yb y + 0x4f008, 0, 32⟩
def TRN_COMM_DOUBT_COUNT (y : Nat) : Fld := ⟨yb y + 0x4f008, 0, 10⟩
def TRN_COMM_DOUBT_FIRST (y : Nat) : Fld := ⟨yb y + 0x4f008, 16, 10⟩
def TRN_COMM_DOUBT_RESOLVE_ERR (y : Nat) : Fld := ⟨yb y + 0x4f008, 31, 1⟩
def TRN_COMM_DISCARDS (y : Nat) : Fld := ⟨yb y + 0x4f010, 0, 64⟩
def DRV_ID (y : Nat) : Fld := ⟨yb y + 0x30000, 0, 32⟩
def DRV_COUNT (y : Nat) : Fld := ⟨yb y + 0x30004, 0, 32⟩
def DRV_CTRL (y : Nat) : Fld := ⟨yb y + 0x30008, 0, 32⟩
def DRV_CTRL_READAHEAD (y : Nat) : Fld := ⟨yb y + 0x30008, 0, 4⟩
def DRV_CTRL_REREAD (y : Nat) : Fld := ⟨yb y + 0x30008, 4, 1⟩
def DRV_DELIVERIES (y : Nat) : Fld := ⟨yb y + 0x30010, 0, 64⟩
def DRV_BYTES_READ (y : Nat) : Fld := ⟨yb y + 0x30018, 0, 64⟩
def DRV_SHED_HITS (y : Nat) : Fld := ⟨yb y + 0x30020, 0, 64⟩
def DRV_SHED_FILLS (y : Nat) : Fld := ⟨yb y + 0x30028, 0, 64⟩
def DRV_SHED_FALLBACKS (y : Nat) : Fld := ⟨yb y + 0x30030, 0, 64⟩
def DRV_GRANT_WAITS (y : Nat) : Fld := ⟨yb y + 0x30038, 0, 64⟩
def DRV_REREADS (y : Nat) : Fld := ⟨yb y + 0x30040, 0, 64⟩
def DRV_REFUSALS (y : Nat) : Fld := ⟨yb y + 0x30048, 0, 64⟩
def DRV_DEMAND_INVALID (y : Nat) : Fld := ⟨yb y + 0x30050, 0, 64⟩
def DRV_LAND_OPEN (y : Nat) : Fld := ⟨yb y + 0x30058, 0, 32⟩
def DRV_EPOCH (y : Nat) : Fld := ⟨yb y + 0x3005c, 0, 32⟩
def DRV_SHED_FLUSH (y : Nat) : Fld := ⟨yb y + 0x30060, 0, 32⟩
def DRV_STATE (y i : Nat) : Fld := ⟨yb y + 0x30100 + 32 * i, 0, 32⟩
def DRV_STATE_MODE (y i : Nat) : Fld := ⟨yb y + 0x30100 + 32 * i, 0, 2⟩
def DRV_STATE_ENTRIES (y i : Nat) : Fld := ⟨yb y + 0x30100 + 32 * i, 2, 3⟩
def DRV_STATE_ENTRY (y i : Nat) : Fld := ⟨yb y + 0x30100 + 32 * i, 16, 16⟩
def DRV_EGRESS (y i : Nat) : Fld := ⟨yb y + 0x30108 + 32 * i, 0, 64⟩
def DRV_READ (y i : Nat) : Fld := ⟨yb y + 0x30110 + 32 * i, 0, 64⟩
def TRN_ID (y : Nat) : Fld := ⟨yb y + 0x40000, 0, 32⟩
def TRN_CONN_COUNT (y : Nat) : Fld := ⟨yb y + 0x40004, 0, 32⟩
def TRN_CMD_ADDR (y : Nat) : Fld := ⟨yb y + 0x40008, 0, 64⟩
def TRN_CMD (y : Nat) : Fld := ⟨yb y + 0x40010, 0, 32⟩
def TRN_CMD_OP (y : Nat) : Fld := ⟨yb y + 0x40010, 0, 4⟩
def TRN_CMD_TARGET (y : Nat) : Fld := ⟨yb y + 0x40010, 8, 17⟩
def TRN_CMD_STATUS (y : Nat) : Fld := ⟨yb y + 0x40014, 0, 32⟩
def TRN_CMD_STATUS_BUSY (y : Nat) : Fld := ⟨yb y + 0x40014, 0, 1⟩
def TRN_CMD_STATUS_DONE (y : Nat) : Fld := ⟨yb y + 0x40014, 1, 1⟩
def TRN_CMD_STATUS_CMD_ERR (y : Nat) : Fld := ⟨yb y + 0x40014, 2, 1⟩
def TRN_CMD_STATUS_RESULT (y : Nat) : Fld := ⟨yb y + 0x40014, 8, 8⟩
def TRN_PLAN_CONN_BASE (y : Nat) : Fld := ⟨yb y + 0x40018, 0, 32⟩
def TRN_UDP_PORT (y : Nat) : Fld := ⟨yb y + 0x4001c, 0, 32⟩
def TRN_RTO_MIN (y : Nat) : Fld := ⟨yb y + 0x40020, 0, 32⟩
def TRN_RTO_MAX (y : Nat) : Fld := ⟨yb y + 0x40024, 0, 32⟩
def TRN_ACK_CTRL (y : Nat) : Fld := ⟨yb y + 0x40028, 0, 32⟩
def TRN_ACK_CTRL_COUNT (y : Nat) : Fld := ⟨yb y + 0x40028, 0, 7⟩
def TRN_ACK_CTRL_TIME (y : Nat) : Fld := ⟨yb y + 0x40028, 8, 12⟩
def TRN_RNR_CTRL (y : Nat) : Fld := ⟨yb y + 0x4002c, 0, 32⟩
def TRN_QUARANTINE (y : Nat) : Fld := ⟨yb y + 0x40030, 0, 32⟩
def TRN_IRQ (y : Nat) : Fld := ⟨yb y + 0x40034, 0, 32⟩
def TRN_IRQ_ERR_EN (y : Nat) : Fld := ⟨yb y + 0x40034, 0, 1⟩
def TRN_IRQ_ERR (y : Nat) : Fld := ⟨yb y + 0x40034, 1, 1⟩
def TRN_IRQ_VECTOR (y : Nat) : Fld := ⟨yb y + 0x40034, 16, 11⟩
def TRN_ERR (y : Nat) : Fld := ⟨yb y + 0x40038, 0, 32⟩
def TRN_MATCH_FREE (y : Nat) : Fld := ⟨yb y + 0x4003c, 0, 32⟩
def TRN_TX_PKTS (y : Nat) : Fld := ⟨yb y + 0x40040, 0, 64⟩
def TRN_RX_PKTS (y : Nat) : Fld := ⟨yb y + 0x40048, 0, 64⟩
def TRN_RETX (y : Nat) : Fld := ⟨yb y + 0x40050, 0, 64⟩
def TRN_DUP_DISCARD (y : Nat) : Fld := ⟨yb y + 0x40058, 0, 64⟩
def TRN_STALE_DISCARD (y : Nat) : Fld := ⟨yb y + 0x40060, 0, 64⟩
def TRN_OOW_DISCARD (y : Nat) : Fld := ⟨yb y + 0x40068, 0, 64⟩
def TRN_AUTH_FAIL (y : Nat) : Fld := ⟨yb y + 0x40070, 0, 64⟩
def TRN_RNR_SENT (y : Nat) : Fld := ⟨yb y + 0x40078, 0, 64⟩
def TRN_RNR_RCVD (y : Nat) : Fld := ⟨yb y + 0x40080, 0, 64⟩
def TRN_ECN_MARKS (y : Nat) : Fld := ⟨yb y + 0x40088, 0, 64⟩
def TRN_SRC_DISCARD (y : Nat) : Fld := ⟨yb y + 0x40090, 0, 64⟩
def TRN_CC_RATE_MIN (y i : Nat) : Fld := ⟨yb y + 0x40100 + 32 * i, 0, 32⟩
def TRN_CC_AI (y i : Nat) : Fld := ⟨yb y + 0x40104 + 32 * i, 0, 32⟩
def TRN_CC_PERIOD (y i : Nat) : Fld := ⟨yb y + 0x40108 + 32 * i, 0, 32⟩
def TRN_CC_MD (y i : Nat) : Fld := ⟨yb y + 0x4010c + 32 * i, 0, 32⟩
def TRN_CC_TARGET (y i : Nat) : Fld := ⟨yb y + 0x40110 + 32 * i, 0, 32⟩
def LGQ_AQ_SQ_ADDR (y : Nat) : Fld := ⟨yb y + 0x60000, 0, 64⟩
def LGQ_AQ_CQ_ADDR (y : Nat) : Fld := ⟨yb y + 0x60008, 0, 64⟩
def LGQ_AQ_SIZE (y : Nat) : Fld := ⟨yb y + 0x60010, 0, 32⟩
def LGQ_AQ_SQ_TAIL (y : Nat) : Fld := ⟨yb y + 0x60014, 0, 32⟩
def LGQ_AQ_CQ_HEAD (y : Nat) : Fld := ⟨yb y + 0x60018, 0, 32⟩
def LGQ_CQ_HEAD (y i : Nat) : Fld := ⟨yb y + 0x61000 + 8 * i, 0, 32⟩
def YRD_ID (y : Nat) : Fld := ⟨yb y + 0x0, 0, 32⟩
def YRD_STATE (y : Nat) : Fld := ⟨yb y + 0x4, 0, 32⟩
def YRD_STATE_HOST_LOST (y : Nat) : Fld := ⟨yb y + 0x4, 0, 1⟩
def YRD_STATE_FROZEN (y : Nat) : Fld := ⟨yb y + 0x4, 1, 1⟩
def YRD_STATE_LEGACY (y : Nat) : Fld := ⟨yb y + 0x4, 2, 1⟩
def YRD_STATE_CONF (y : Nat) : Fld := ⟨yb y + 0x4, 3, 1⟩
def YRD_STATE_BAYS (y : Nat) : Fld := ⟨yb y + 0x4, 4, 4⟩
def YRD_STATE_LOWEST (y : Nat) : Fld := ⟨yb y + 0x4, 8, 4⟩
def YRD_MODE (y : Nat) : Fld := ⟨yb y + 0x8, 0, 32⟩
def YRD_HOST_CTRL (y : Nat) : Fld := ⟨yb y + 0xc, 0, 32⟩
def YRD_HOST_RESUME (y : Nat) : Fld := ⟨yb y + 0x10, 0, 32⟩
def YRD_RELEASE (y : Nat) : Fld := ⟨yb y + 0x14, 0, 32⟩
def YRD_RING_ADDR (y : Nat) : Fld := ⟨yb y + 0x20, 0, 64⟩
def YRD_RING_CMD (y : Nat) : Fld := ⟨yb y + 0x28, 0, 32⟩
def YRD_RING_STATUS (y : Nat) : Fld := ⟨yb y + 0x2c, 0, 32⟩
def YRD_RING_STATUS_BUSY (y : Nat) : Fld := ⟨yb y + 0x2c, 0, 1⟩
def YRD_RING_STATUS_DONE (y : Nat) : Fld := ⟨yb y + 0x2c, 1, 1⟩
def YRD_RING_STATUS_CMD_ERR (y : Nat) : Fld := ⟨yb y + 0x2c, 2, 1⟩
def YRD_RING_STATUS_RESULT (y : Nat) : Fld := ⟨yb y + 0x2c, 8, 8⟩
def YRD_DB_DROPPED (y : Nat) : Fld := ⟨yb y + 0x30, 0, 64⟩
def YRD_PUSH_ACCEPTED (y : Nat) : Fld := ⟨yb y + 0x38, 0, 64⟩
def YRD_PUSH_AS_DOORBELL (y : Nat) : Fld := ⟨yb y + 0x40, 0, 64⟩
def YRD_ACCESS_ERR (y : Nat) : Fld := ⟨yb y + 0x48, 0, 32⟩
def YRD_SET_ADDR (y : Nat) : Fld := ⟨yb y + 0x200, 0, 64⟩
def YRD_SET_COUNT (y : Nat) : Fld := ⟨yb y + 0x208, 0, 32⟩
def YRD_SET_CMD (y : Nat) : Fld := ⟨yb y + 0x20c, 0, 32⟩
def YRD_SET_STATUS (y : Nat) : Fld := ⟨yb y + 0x210, 0, 32⟩
def YRD_SET_STATUS_RESULT (y : Nat) : Fld := ⟨yb y + 0x210, 0, 3⟩
def YRD_SET_STATUS_CMD_ERR (y : Nat) : Fld := ⟨yb y + 0x210, 3, 1⟩
def YRD_SET_STATUS_CODE (y : Nat) : Fld := ⟨yb y + 0x210, 8, 8⟩
def YRD_SET_REPORT_ADDR (y : Nat) : Fld := ⟨yb y + 0x218, 0, 64⟩
def YRD_SET_CLAMPS (y : Nat) : Fld := ⟨yb y + 0x220, 0, 32⟩
def YRD_SET_RULE (y : Nat) : Fld := ⟨yb y + 0x224, 0, 32⟩
def YRD_SET_CONFLICT (y : Nat) : Fld := ⟨yb y + 0x228, 0, 64⟩
def BAY_FN_CTRL (b : Nat) : Fld := ⟨0x1000000 + 0x400000 * b, 0, 32⟩
def BAY_FN_STATE (b : Nat) : Fld := ⟨0x1000004 + 0x400000 * b, 0, 32⟩
def BAY_FN_STATE_STATE (b : Nat) : Fld := ⟨0x1000004 + 0x400000 * b, 0, 3⟩
def BAY_FN_STATE_HOST_LOST (b : Nat) : Fld := ⟨0x1000004 + 0x400000 * b, 3, 1⟩
def BAY_FN_STATE_CMD_ERR (b : Nat) : Fld := ⟨0x1000004 + 0x400000 * b, 4, 1⟩
def XLT_ID (y : Nat) : Fld := ⟨yb y + 0x50000, 0, 32⟩
def XLT_CTX_COUNT (y : Nat) : Fld := ⟨yb y + 0x50004, 0, 32⟩
def XLT_CMD_ADDR (y : Nat) : Fld := ⟨yb y + 0x50008, 0, 64⟩
def XLT_CMD (y : Nat) : Fld := ⟨yb y + 0x50010, 0, 32⟩
def XLT_CMD_STATUS (y : Nat) : Fld := ⟨yb y + 0x50014, 0, 32⟩
def XLT_CMD_STATUS_BUSY (y : Nat) : Fld := ⟨yb y + 0x50014, 0, 1⟩
def XLT_CMD_STATUS_DONE (y : Nat) : Fld := ⟨yb y + 0x50014, 1, 1⟩
def XLT_CMD_STATUS_CMD_ERR (y : Nat) : Fld := ⟨yb y + 0x50014, 2, 1⟩
def XLT_CMD_STATUS_RESULT (y : Nat) : Fld := ⟨yb y + 0x50014, 8, 8⟩
def XLT_CMD_KEY (y : Nat) : Fld := ⟨yb y + 0x50018, 0, 32⟩
def XLT_FAULT_MODE (y : Nat) : Fld := ⟨yb y + 0x5001c, 0, 32⟩
def XLT_FAULT_CTRL (y : Nat) : Fld := ⟨yb y + 0x50020, 0, 32⟩
def XLT_FAULT_CTRL_BATCH_TIME (y : Nat) : Fld := ⟨yb y + 0x50020, 0, 8⟩
def XLT_FAULT_CTRL_TIMEOUT (y : Nat) : Fld := ⟨yb y + 0x50020, 8, 16⟩
def XLT_FAULT_CTRL_REPLAY_LIMIT (y : Nat) : Fld := ⟨yb y + 0x50020, 24, 4⟩
def XLT_STATUS (y : Nat) : Fld := ⟨yb y + 0x50024, 0, 32⟩
def XLT_STATUS_PRI_FAILED (y : Nat) : Fld := ⟨yb y + 0x50024, 0, 1⟩
def XLT_STATUS_OVF (y : Nat) : Fld := ⟨yb y + 0x50024, 1, 1⟩
def XLT_STATUS_ATS_EN (y : Nat) : Fld := ⟨yb y + 0x50024, 2, 1⟩
def XLT_STATUS_PRI_EN (y : Nat) : Fld := ⟨yb y + 0x50024, 3, 1⟩
def XLT_FAULTS (y : Nat) : Fld := ⟨yb y + 0x50028, 0, 64⟩
def XLT_FAULT_COALESCED (y : Nat) : Fld := ⟨yb y + 0x50030, 0, 64⟩
def XLT_FAULT_OVF_COUNT (y : Nat) : Fld := ⟨yb y + 0x50038, 0, 64⟩
def XLT_FAULT_UNRESOLVED (y : Nat) : Fld := ⟨yb y + 0x50040, 0, 64⟩
def XLT_FAULT_LAST_ADDR (y : Nat) : Fld := ⟨yb y + 0x50048, 0, 64⟩
def XLT_FAULT_LAST_INFO (y : Nat) : Fld := ⟨yb y + 0x50050, 0, 32⟩
def XLT_FAULT_PENDING (y : Nat) : Fld := ⟨yb y + 0x50054, 0, 32⟩
def XLT_WIN_OPEN (y : Nat) : Fld := ⟨yb y + 0x50058, 0, 32⟩
def XLT_WIN_CLOSING (y : Nat) : Fld := ⟨yb y + 0x5005c, 0, 32⟩
def XLT_IRQ (y : Nat) : Fld := ⟨yb y + 0x50060, 0, 32⟩
def XLT_ERR_ADDR (y : Nat) : Fld := ⟨yb y + 0x50068, 0, 64⟩
def XLT_ERR_INFO (y : Nat) : Fld := ⟨yb y + 0x50070, 0, 32⟩
def XLT_ERR_INFO_TIER (y : Nat) : Fld := ⟨yb y + 0x50070, 0, 2⟩
def XLT_ERR_INFO_UC (y : Nat) : Fld := ⟨yb y + 0x50070, 2, 1⟩
def XLT_UC_COUNT (y : Nat) : Fld := ⟨yb y + 0x50078, 0, 64⟩
def XLT_POOL_LOFT (y : Nat) : Fld := ⟨yb y + 0x50080, 0, 64⟩
def XLT_POOL_NEAR (y : Nat) : Fld := ⟨yb y + 0x50088, 0, 64⟩
def XLT_POOL_FAR (y : Nat) : Fld := ⟨yb y + 0x50090, 0, 64⟩
def XLT_LOFT_CONFLICT (y i j : Nat) : Fld := ⟨yb y + 0x50800 + 128 * i + 8 * j, 0, 64⟩
def XLT_LOFT_CLEAR (y : Nat) : Fld := ⟨yb y + 0x50e00, 0, 32⟩
def MEM_ID : Fld := ⟨0x300000, 0, 32⟩
def MEM_FAR_CFG : Fld := ⟨0x300004, 0, 32⟩
def MEM_FAR_BAY_SHARE : Fld := ⟨0x300008, 0, 32⟩
def MEM_SCRUB_CTRL : Fld := ⟨0x30000c, 0, 32⟩
def MEM_CE_COUNT : Fld := ⟨0x300010, 0, 64⟩
def MEM_UC_COUNT : Fld := ⟨0x300018, 0, 64⟩
def MEM_UC_LOG : Fld := ⟨0x300020, 0, 32⟩
def MEM_UC_LOG_TIER : Fld := ⟨0x300020, 0, 2⟩
def MEM_UC_LOG_UNIT : Fld := ⟨0x300020, 2, 5⟩
def MEM_UC_LOG_SCRUB : Fld := ⟨0x300020, 7, 1⟩
def MEM_UC_LOG_BAY : Fld := ⟨0x300020, 8, 4⟩
def MEM_UC_OFFSET : Fld := ⟨0x300028, 0, 64⟩
def MEM_IRQ : Fld := ⟨0x300030, 0, 32⟩
def MEM_STATUS : Fld := ⟨0x300034, 0, 32⟩
def MEM_STATUS_UC : Fld := ⟨0x300034, 0, 1⟩
def MEM_STATUS_PORT_DOWN : Fld := ⟨0x300034, 1, 1⟩
def MEM_NEAR_DEV (i : Nat) : Fld := ⟨0x300100 + 8 * i, 0, 32⟩
def MEM_NEAR_DEV_UP (i : Nat) : Fld := ⟨0x300100 + 8 * i, 0, 1⟩
def MEM_NEAR_DEV_FAILED (i : Nat) : Fld := ⟨0x300100 + 8 * i, 1, 1⟩
def MEM_NEAR_DEV_CE (i : Nat) : Fld := ⟨0x300100 + 8 * i, 16, 16⟩
def MEM_FAR_PORT (i : Nat) : Fld := ⟨0x300200 + 8 * i, 0, 32⟩
def MEM_FAR_PORT_LINK_UP (i : Nat) : Fld := ⟨0x300200 + 8 * i, 0, 1⟩
def MEM_FAR_PORT_ENABLED (i : Nat) : Fld := ⟨0x300200 + 8 * i, 1, 1⟩
def MEM_FAR_PORT_CAP_MATCH (i : Nat) : Fld := ⟨0x300200 + 8 * i, 2, 1⟩
def MEM_FAR_PORT_IDE (i : Nat) : Fld := ⟨0x300200 + 8 * i, 3, 1⟩
def MEM_FAR_PORT_FAILED (i : Nat) : Fld := ⟨0x300200 + 8 * i, 4, 1⟩
def MEM_FAR_PORT_CAP (i : Nat) : Fld := ⟨0x300200 + 8 * i, 16, 16⟩
def FAB_ID : Fld := ⟨0x100000, 0, 32⟩
def FAB_TRANSIT : Fld := ⟨0x100004, 0, 32⟩
def FAB_DATELINE : Fld := ⟨0x100008, 0, 64⟩
def FAB_ECN_THRESH : Fld := ⟨0x100010, 0, 32⟩
def FAB_SLUICE_CTRL : Fld := ⟨0x100014, 0, 32⟩
def FAB_SLUICE_CTRL_HI : Fld := ⟨0x100014, 0, 8⟩
def FAB_SLUICE_CTRL_LO : Fld := ⟨0x100014, 8, 8⟩
def FAB_SLUICE_CTRL_PERIOD : Fld := ⟨0x100014, 16, 8⟩
def FAB_SLUICE_CTRL_MIN : Fld := ⟨0x100014, 24, 5⟩
def FAB_TBL_ADDR : Fld := ⟨0x100018, 0, 64⟩
def FAB_TBL_CMD : Fld := ⟨0x100020, 0, 32⟩
def FAB_RT_STATUS : Fld := ⟨0x100024, 0, 32⟩
def FAB_RT_STATUS_STATE : Fld := ⟨0x100024, 0, 3⟩
def FAB_RT_STATUS_CMD_ERR : Fld := ⟨0x100024, 4, 1⟩
def FAB_RT_STATUS_GRP_ERR : Fld := ⟨0x100024, 5, 1⟩
def FAB_RT_DETAIL : Fld := ⟨0x100028, 0, 32⟩
def FAB_DRAIN_COUNT : Fld := ⟨0x100030, 0, 64⟩
def FAB_NOROUTE : Fld := ⟨0x100038, 0, 64⟩
def FAB_RANK_ERR : Fld := ⟨0x100040, 0, 64⟩
def FAB_DEAD_DISCARD : Fld := ⟨0x100048, 0, 64⟩
def FAB_IDLE_DISCARD : Fld := ⟨0x100050, 0, 64⟩
def FAB_GROUP_DISCARD : Fld := ⟨0x100058, 0, 64⟩
def FAB_IRQ : Fld := ⟨0x100060, 0, 32⟩
def FAB_EVENTS : Fld := ⟨0x100064, 0, 32⟩
def FAB_BAY_ADDR (i : Nat) : Fld := ⟨0x100100 + 4 * i, 0, 32⟩
def FAB_SLUICE_LEVEL (i : Nat) : Fld := ⟨0x100140 + 4 * i, 0, 32⟩
def FAB_PORT_STATE (i : Nat) : Fld := ⟨0x100400 + 16 * i, 0, 32⟩
def FAB_PORT_STATE_STATE (i : Nat) : Fld := ⟨0x100400 + 16 * i, 0, 3⟩
def FAB_PORT_STATE_TRAINED (i : Nat) : Fld := ⟨0x100400 + 16 * i, 3, 1⟩
def FAB_PORT_STATE_REVERSED (i : Nat) : Fld := ⟨0x100400 + 16 * i, 4, 1⟩
def FAB_PORT_STATE_RANK0 (i : Nat) : Fld := ⟨0x100400 + 16 * i, 8, 8⟩
def FAB_PORT_STATE_RANK1 (i : Nat) : Fld := ⟨0x100400 + 16 * i, 16, 8⟩
def FAB_PORT_PEER (i : Nat) : Fld := ⟨0x100404 + 16 * i, 0, 32⟩
def FAB_PORT_CTRL (i : Nat) : Fld := ⟨0x100408 + 16 * i, 0, 32⟩
def TEL_ID : Fld := ⟨0x400000, 0, 32⟩
def TEL_CTRL : Fld := ⟨0x400004, 0, 32⟩
def TEL_CTRL_EN : Fld := ⟨0x400004, 0, 1⟩
def TEL_CTRL_LOC : Fld := ⟨0x400004, 1, 1⟩
def TEL_CTRL_K : Fld := ⟨0x400004, 4, 5⟩
def TEL_CTRL_RING_BAY : Fld := ⟨0x400004, 12, 4⟩
def TEL_RING_ADDR : Fld := ⟨0x400008, 0, 64⟩
def TEL_RING_LOG : Fld := ⟨0x400010, 0, 32⟩
def TEL_RING_HEAD : Fld := ⟨0x400014, 0, 32⟩
def TEL_RING_TAIL : Fld := ⟨0x400018, 0, 32⟩
def TEL_STATUS : Fld := ⟨0x40001c, 0, 32⟩
def TEL_STATUS_NO_RING : Fld := ⟨0x40001c, 0, 1⟩
def TEL_STATUS_DROPPED : Fld := ⟨0x40001c, 1, 1⟩
def TEL_DROPS : Fld := ⟨0x400020, 0, 64⟩
def TEL_SAMPLES : Fld := ⟨0x400028, 0, 64⟩
def TEL_PORT_MASK : Fld := ⟨0x400030, 0, 64⟩
def TEL_TX_FLITS (i : Nat) : Fld := ⟨0x400100 + 64 * i, 0, 64⟩
def TEL_RX_FLITS (i : Nat) : Fld := ⟨0x400108 + 64 * i, 0, 64⟩
def TEL_TX_PKTS (i : Nat) : Fld := ⟨0x400110 + 64 * i, 0, 64⟩
def TEL_RX_PKTS (i : Nat) : Fld := ⟨0x400118 + 64 * i, 0, 64⟩
def TEL_CRC_ERR (i : Nat) : Fld := ⟨0x400120 + 64 * i, 0, 64⟩
def TEL_REPLAYS (i : Nat) : Fld := ⟨0x400128 + 64 * i, 0, 64⟩
def TEL_CREDIT_STALL (i : Nat) : Fld := ⟨0x400130 + 64 * i, 0, 64⟩
def TEL_CE_MARK (i : Nat) : Fld := ⟨0x400138 + 64 * i, 0, 64⟩
def ETH_ID : Fld := ⟨0x200000, 0, 32⟩
def ETH_PORT_MODE : Fld := ⟨0x200004, 0, 32⟩
def ETH_MAX_FRAME : Fld := ⟨0x200008, 0, 32⟩
def ETH_OVERHEAD : Fld := ⟨0x20000c, 0, 32⟩
def ETH_RX_CTRL : Fld := ⟨0x200010, 0, 32⟩
def ETH_REFILL : Fld := ⟨0x200014, 0, 32⟩
def ETH_TIME : Fld := ⟨0x200018, 0, 64⟩
def ETH_TIME_ADJ : Fld := ⟨0x200020, 0, 32⟩
def ETH_CLASS_KIND : Fld := ⟨0x200024, 0, 32⟩
def ETH_IRQ : Fld := ⟨0x200028, 0, 32⟩
def ETH_EVENTS : Fld := ⟨0x20002c, 0, 32⟩
def ETH_MGMT_IP : Fld := ⟨0x200030, 0, 32⟩
def ETH_MGMT_RATE : Fld := ⟨0x200034, 0, 32⟩
def ETH_MGMT_RX_ADDR : Fld := ⟨0x200040, 0, 64⟩
def ETH_MGMT_RING_CFG : Fld := ⟨0x200048, 0, 32⟩
def ETH_MGMT_RX_HEAD : Fld := ⟨0x20004c, 0, 32⟩
def ETH_MGMT_RX_TAIL : Fld := ⟨0x200050, 0, 32⟩
def ETH_MGMT_TX_ADDR : Fld := ⟨0x200058, 0, 64⟩
def ETH_MGMT_TX_TAIL : Fld := ⟨0x200060, 0, 32⟩
def ETH_MGMT_TX_HEAD : Fld := ⟨0x200064, 0, 32⟩
def ETH_DSCP_MAP (i : Nat) : Fld := ⟨0x200080 + 4 * i, 0, 32⟩
def ETH_SUB_STATE (i : Nat) : Fld := ⟨0x201000 + 256 * i, 0, 32⟩
def ETH_SUB_STATE_LINK (i : Nat) : Fld := ⟨0x201000 + 256 * i, 0, 2⟩
def ETH_SUB_STATE_LPI_TX (i : Nat) : Fld := ⟨0x201000 + 256 * i, 2, 1⟩
def ETH_SUB_STATE_LPI_RX (i : Nat) : Fld := ⟨0x201000 + 256 * i, 3, 1⟩
def ETH_SUB_STATE_EEE_PEER (i : Nat) : Fld := ⟨0x201000 + 256 * i, 4, 1⟩
def ETH_SUB_STATE_RATE (i : Nat) : Fld := ⟨0x201000 + 256 * i, 5, 2⟩
def ETH_SUB_MAC (i : Nat) : Fld := ⟨0x201008 + 256 * i, 0, 64⟩
def ETH_LPI_CTRL (i : Nat) : Fld := ⟨0x201010 + 256 * i, 0, 32⟩
def ETH_LPI_TW_OWN (i : Nat) : Fld := ⟨0x201014 + 256 * i, 0, 32⟩
def ETH_LPI_TW (i : Nat) : Fld := ⟨0x201018 + 256 * i, 0, 32⟩
def ETH_GCL_CTRL (i : Nat) : Fld := ⟨0x201020 + 256 * i, 0, 32⟩
def ETH_GCL_CMD (i : Nat) : Fld := ⟨0x201024 + 256 * i, 0, 32⟩
def ETH_GCL_CYCLE (i : Nat) : Fld := ⟨0x201028 + 256 * i, 0, 32⟩
def ETH_GCL_BASE (i : Nat) : Fld := ⟨0x201030 + 256 * i, 0, 64⟩
def ETH_GCL_STATUS (i : Nat) : Fld := ⟨0x201038 + 256 * i, 0, 32⟩
def ETH_RX_FRAMES (i : Nat) : Fld := ⟨0x201040 + 256 * i, 0, 64⟩
def ETH_TX_FRAMES (i : Nat) : Fld := ⟨0x201048 + 256 * i, 0, 64⟩
def ETH_RX_BAD (i : Nat) : Fld := ⟨0x201050 + 256 * i, 0, 64⟩
def ETH_RX_TRUNC (i : Nat) : Fld := ⟨0x201058 + 256 * i, 0, 64⟩
def ETH_TX_DISCARD (i : Nat) : Fld := ⟨0x201060 + 256 * i, 0, 64⟩
def ETH_RX_PAUSE (i : Nat) : Fld := ⟨0x201068 + 256 * i, 0, 64⟩
def ETH_RX_NOMATCH (i : Nat) : Fld := ⟨0x201070 + 256 * i, 0, 64⟩
def ETH_GCL (i j : Nat) : Fld := ⟨0x208000 + 512 * i + 8 * j, 0, 64⟩
def ETH_CLS_WEIGHT (i j : Nat) : Fld := ⟨0x210000 + 256 * i + 16 * j, 0, 32⟩
def ETH_CLS_RATE (i j : Nat) : Fld := ⟨0x210004 + 256 * i + 16 * j, 0, 32⟩
def ETH_CLS_BURST (i j : Nat) : Fld := ⟨0x210008 + 256 * i + 16 * j, 0, 32⟩
def ETH_CLS_RXLIM (i j : Nat) : Fld := ⟨0x21000c + 256 * i + 16 * j, 0, 32⟩
def ETH_CLS_DROPS (i j : Nat) : Fld := ⟨0x210080 + 256 * i + 8 * j, 0, 64⟩
def ETH_LADDR (i j : Nat) : Fld := ⟨0x220000 + 1024 * i + 64 * j, 0, 128⟩
def ETH_LADDR_CTRL (i j : Nat) : Fld := ⟨0x220010 + 1024 * i + 64 * j, 0, 32⟩
def YRD_SEAL_SRC (y : Nat) : Fld := ⟨yb y + 0x100, 0, 64⟩
def YRD_SEAL_DST (y : Nat) : Fld := ⟨yb y + 0x108, 0, 64⟩
def YRD_SEAL_LEN (y : Nat) : Fld := ⟨yb y + 0x110, 0, 64⟩
def YRD_SEAL_CTX (y : Nat) : Fld := ⟨yb y + 0x118, 0, 32⟩
def YRD_SEAL_CMD (y : Nat) : Fld := ⟨yb y + 0x11c, 0, 32⟩
def YRD_SEAL_STATUS (y : Nat) : Fld := ⟨yb y + 0x120, 0, 32⟩
def YRD_SEAL_OUT_LEN (y : Nat) : Fld := ⟨yb y + 0x128, 0, 64⟩
def YRD_REPLAY_DISCARD (y : Nat) : Fld := ⟨yb y + 0x140, 0, 64⟩
def YRD_REPLAY_FULL (y : Nat) : Fld := ⟨yb y + 0x148, 0, 64⟩
def YRD_KEY_STATE (y : Nat) : Fld := ⟨yb y + 0x150, 0, 32⟩
def SEC_ID : Fld := ⟨0x50000, 0, 32⟩
def SEC_STATUS : Fld := ⟨0x50004, 0, 32⟩
def SEC_STATUS_LIFECYCLE : Fld := ⟨0x50004, 0, 3⟩
def SEC_STATUS_TAMPER : Fld := ⟨0x50004, 3, 1⟩
def SEC_STATUS_TAMPER_NOW : Fld := ⟨0x50004, 4, 1⟩
def SEC_STATUS_SP_READY : Fld := ⟨0x50004, 5, 1⟩
def SEC_STATUS_FW_PENDING : Fld := ⟨0x50004, 6, 1⟩
def SEC_TAMPER_COUNT : Fld := ⟨0x50008, 0, 32⟩
def SEC_OPKEY_SLOTS : Fld := ⟨0x5000c, 0, 32⟩
def SEC_FW_ADDR : Fld := ⟨0x50010, 0, 64⟩
def SEC_FW_LEN : Fld := ⟨0x50018, 0, 32⟩
def SEC_FW_CMD : Fld := ⟨0x5001c, 0, 32⟩
def SEC_FW_STATUS : Fld := ⟨0x50020, 0, 32⟩
def SEC_FW_STATUS_STATE : Fld := ⟨0x50020, 0, 3⟩
def SEC_FW_STATUS_CMD_ERR : Fld := ⟨0x50020, 3, 1⟩
def SEC_FW_STATUS_REASON : Fld := ⟨0x50020, 8, 8⟩
def SEC_RAKE_FAR : Fld := ⟨0x50040, 0, 32⟩
def SEC_RAKE_STATUS : Fld := ⟨0x50044, 0, 32⟩
def SEC_RAKE_STATUS_FAR_PARTIAL : Fld := ⟨0x50044, 0, 12⟩
def SEC_RAKE_DRAIN_LIMIT : Fld := ⟨0x50048, 0, 32⟩
def SEC_RAKE_GEN (i : Nat) : Fld := ⟨0x50050 + 4 * i, 0, 32⟩
def SEC_DEBUG_REQ : Fld := ⟨0x50080, 0, 32⟩
def SEC_DEBUG_STATUS : Fld := ⟨0x50084, 0, 32⟩
def SEC_DEBUG_END : Fld := ⟨0x50088, 0, 32⟩
def SEC_IRQ : Fld := ⟨0x50090, 0, 32⟩
def SEC_EVENTS : Fld := ⟨0x50094, 0, 32⟩
def DEV_ID : Fld := ⟨0x0, 0, 32⟩
def DEV_SERIAL : Fld := ⟨0x8, 0, 64⟩
def DEV_STATUS : Fld := ⟨0x10, 0, 32⟩
def DEV_ACCESS_ERR : Fld := ⟨0x14, 0, 32⟩
def DEV_ACCESS_ERR_OFFSET : Fld := ⟨0x14, 0, 26⟩
def DEV_ACCESS_ERR_WIDTH : Fld := ⟨0x14, 26, 3⟩
def DEV_ACCESS_ERR_READ : Fld := ⟨0x14, 29, 1⟩
def DEV_ACCESS_ERR_VALID : Fld := ⟨0x14, 31, 1⟩
def DEV_IRQ : Fld := ⟨0x18, 0, 32⟩
def DEV_EVENTS : Fld := ⟨0x1c, 0, 32⟩
def DEV_TIMESTAMP : Fld := ⟨0x20, 0, 64⟩
def DEV_SPARE_MAP (i : Nat) : Fld := ⟨0x40 + 4 * i, 0, 32⟩
def DEV_PAN_MAP (i : Nat) : Fld := ⟨0x80 + 4 * i, 0, 32⟩
def DEV_PAN_FAILED : Fld := ⟨0xc0, 0, 64⟩
def DEV_SPARE_USE : Fld := ⟨0xc8, 0, 32⟩
def DEV_PAN_SUBS : Fld := ⟨0xd0, 0, 64⟩
def DEV_CORE_STATE (i : Nat) : Fld := ⟨0x100 + 8 * i, 0, 32⟩
def DEV_ERRLOG_HEAD : Fld := ⟨0x200, 0, 32⟩
def DEV_ERRLOG (i : Nat) : Fld := ⟨0x400 + 16 * i, 0, 128⟩
def DEV_TRACE_CTRL : Fld := ⟨0x800, 0, 32⟩
def DEV_TRACE_ADDR : Fld := ⟨0x808, 0, 64⟩
def DEV_TRACE_LEN : Fld := ⟨0x810, 0, 32⟩
def DEV_PANDBG_SEL : Fld := ⟨0x820, 0, 32⟩
def DEV_PANDBG_DATA : Fld := ⟨0x828, 0, 64⟩
def MBX_BIND (i : Nat) : Fld := ⟨0x31000 + 4 * i, 0, 32⟩
def REC_STATUS : Fld := ⟨0x4ff00, 0, 32⟩
def REC_ID : Fld := ⟨0x4ff04, 0, 32⟩
def REC_IRQ : Fld := ⟨0x4ff08, 0, 32⟩
def CRP_ID : Fld := ⟨0x20000, 0, 32⟩
def CRP_STATUS : Fld := ⟨0x20004, 0, 32⟩
def CRP_RESET_CMD : Fld := ⟨0x20008, 0, 32⟩
def CRP_RESET_CAUSE : Fld := ⟨0x2000c, 0, 32⟩
def CRP_WARM_COUNT : Fld := ⟨0x20010, 0, 32⟩
def CRP_BAY_RESET : Fld := ⟨0x20014, 0, 32⟩
def CRP_PSTATE_REQ : Fld := ⟨0x20018, 0, 32⟩
def CRP_PSTATE_STATUS : Fld := ⟨0x2001c, 0, 32⟩
def CRP_PSTATE_STATUS_STATE : Fld := ⟨0x2001c, 0, 2⟩
def CRP_PSTATE_STATUS_BUSY : Fld := ⟨0x2001c, 2, 1⟩
def CRP_PSTATE_STATUS_REFUSED : Fld := ⟨0x2001c, 3, 1⟩
def CRP_PSTATE_STATUS_PARKED : Fld := ⟨0x2001c, 16, 12⟩
def CRP_PARK : Fld := ⟨0x20020, 0, 32⟩
def CRP_P1_IDLE : Fld := ⟨0x20024, 0, 32⟩
def CRP_FREEZE_REQ : Fld := ⟨0x20028, 0, 32⟩
def CRP_CLK_STATUS : Fld := ⟨0x2002c, 0, 32⟩
def CRP_THERM : Fld := ⟨0x20030, 0, 32⟩
def CRP_THERM_LIMIT : Fld := ⟨0x20034, 0, 32⟩
def CRP_IRQ : Fld := ⟨0x20038, 0, 32⟩
def CRP_EVENTS : Fld := ⟨0x2003c, 0, 32⟩
def YRD_FRZ_CMD (y : Nat) : Fld := ⟨yb y + 0x300, 0, 32⟩
def YRD_FRZ_STATUS (y : Nat) : Fld := ⟨yb y + 0x304, 0, 32⟩
def YRD_FRZ_STATUS_STATE (y : Nat) : Fld := ⟨yb y + 0x304, 0, 3⟩
def YRD_FRZ_STATUS_CMD_ERR (y : Nat) : Fld := ⟨yb y + 0x304, 3, 1⟩
def YRD_FRZ_STATUS_DONE (y : Nat) : Fld := ⟨yb y + 0x304, 4, 1⟩
def YRD_FRZ_STATUS_SAVED (y : Nat) : Fld := ⟨yb y + 0x304, 5, 1⟩
def YRD_FRZ_STATUS_RESULT (y : Nat) : Fld := ⟨yb y + 0x304, 8, 8⟩
def YRD_FRZ_BUF (y : Nat) : Fld := ⟨yb y + 0x308, 0, 64⟩
def YRD_FRZ_CTX (y : Nat) : Fld := ⟨yb y + 0x310, 0, 32⟩
def YRD_FRZ_PART_LOG (y : Nat) : Fld := ⟨yb y + 0x314, 0, 32⟩
def YRD_FRZ_PARTS (y : Nat) : Fld := ⟨yb y + 0x318, 0, 32⟩
def YRD_FRZ_DONE (y : Nat) : Fld := ⟨yb y + 0x31c, 0, 32⟩
def YRD_FRZ_ACK (y : Nat) : Fld := ⟨yb y + 0x320, 0, 32⟩
def YRD_FRZ_IRQ (y : Nat) : Fld := ⟨yb y + 0x324, 0, 32⟩
def YRD_FRZ_BLOB_ID (y : Nat) : Fld := ⟨yb y + 0x328, 0, 64⟩

end R

/-- Access of a writable field (R7); read-only fields are not listed. -/
inductive Acc7 where
  | rw | rw1c | rws | rwl | wo
deriving DecidableEq, Repr

/-- A writable field: lsb, width, access, permitted range (R51) and whether it is an enumeration. -/
structure FRow where
  lsb : Nat
  w : Nat
  acc : Acc7
  lo : Nat
  hi : Nat
  enum : Bool
deriving DecidableEq, Repr

/-- A register of a function: offset, array strides and counts, width in bits, writable fields, and its reserved bits (R8). -/
structure RRow where
  off : Nat
  dims : List (Nat × Nat)
  w : Nat
  fields : List FRow
  res : Nat
deriving DecidableEq, Repr

/-- The registers of the physical function, part 0. -/
def pfTable0 : List RRow := [
  ⟨0x10000, [], 32, [], 0⟩,
  ⟨0x10008, [], 64, [⟨0, 64, .rw, 0, 18446744073709551615, false⟩], 0⟩,
  ⟨0x10010, [], 32, [⟨0, 32, .rw, 0, 4294967295, false⟩], 0⟩,
  ⟨0x10014, [], 32, [⟨0, 32, .wo, 0, 4294967295, false⟩], 0⟩,
  ⟨0x10018, [], 32, [⟨0, 32, .wo, 0, 4294967295, false⟩], 0⟩,
  ⟨0x1001c, [], 32, [⟨4, 1, .rw1c, 0, 1, false⟩, ⟨5, 1, .rw1c, 0, 1, false⟩], 0xffffffc8⟩,
  ⟨0x10020, [], 32, [], 0xff00⟩,
  ⟨0x10024, [], 32, [], 0⟩,
  ⟨0x10028, [], 32, [], 0⟩,
  ⟨0x10030, [], 64, [], 0⟩,
  ⟨0x10038, [], 32, [], 0xe0000000⟩,
  ⟨0x1003c, [], 32, [], 0⟩,
  ⟨0x10040, [(4, 12)], 32, [], 0⟩,
  ⟨0x10070, [(4, 12)], 32, [], 0⟩,
  ⟨0x10100, [], 32, [], 0xff000000⟩,
  ⟨0x10200, [], 64, [⟨0, 64, .rw, 0, 18446744073709551615, false⟩], 0⟩,
  ⟨0x10208, [], 32, [⟨0, 10, .rw, 0, 1023, false⟩], 0xfffffc00⟩,
  ⟨0x1020c, [], 32, [⟨0, 32, .wo, 0, 4294967295, false⟩], 0⟩,
  ⟨0x10210, [], 32, [⟨3, 1, .rw1c, 0, 1, false⟩], 0xffff00f0⟩,
  ⟨0x10218, [], 64, [⟨0, 64, .rw, 0, 18446744073709551615, false⟩], 0⟩,
  ⟨0x10220, [], 32, [], 0xfffffc00⟩,
  ⟨0x10224, [], 32, [], 0⟩,
  ⟨0x10228, [], 64, [], 0⟩,
  ⟨0x1000000, [(0x400000, 12)], 32, [⟨0, 32, .wo, 0, 4294967295, false⟩], 0⟩,
  ⟨0x1000004, [(0x400000, 12)], 32, [⟨4, 1, .rw1c, 0, 1, false⟩], 0xffffffe0⟩,
  ⟨0x300000, [], 32, [], 0xff000000⟩,
  ⟨0x300004, [], 32, [], 0xfffc0000⟩,
  ⟨0x300008, [], 32, [], 0xfffffc00⟩,
  ⟨0x30000c, [], 32, [⟨0, 1, .rw, 0, 1, false⟩, ⟨8, 8, .rw, 1, 168, false⟩], 0xffff00fe⟩,
  ⟨0x300010, [], 64, [], 0⟩]

/-- The registers of the physical function, part 1. -/
def pfTable1 : List RRow := [
  ⟨0x300018, [], 64, [], 0⟩,
  ⟨0x300020, [], 32, [], 0xfffff000⟩,
  ⟨0x300028, [], 64, [], 0xffff000000000000⟩,
  ⟨0x300030, [], 32, [⟨0, 1, .rw, 0, 1, false⟩, ⟨1, 1, .rw, 0, 1, false⟩, ⟨16, 6, .rw, 0, 63, false⟩], 0xffc0fffc⟩,
  ⟨0x300034, [], 32, [⟨0, 1, .rw1c, 0, 1, false⟩, ⟨1, 1, .rw1c, 0, 1, false⟩], 0xfffffffc⟩,
  ⟨0x300100, [(8, 24)], 32, [], 0xfffc⟩,
  ⟨0x300200, [(8, 16)], 32, [], 0xffe0⟩,
  ⟨0x100000, [], 32, [], 0xff00⟩,
  ⟨0x100004, [], 32, [⟨0, 4, .rwl, 0, 15, false⟩], 0xfffffff0⟩,
  ⟨0x100008, [], 64, [], 0xffff000000000000⟩,
  ⟨0x100010, [], 32, [⟨0, 16, .rw, 16, 4096, false⟩], 0xffff0000⟩,
  ⟨0x100014, [], 32, [⟨0, 8, .rw, 1, 255, false⟩, ⟨8, 8, .rw, 0, 254, false⟩, ⟨16, 8, .rw, 1, 255, false⟩, ⟨24, 5, .rw, 1, 16, false⟩], 0xe0000000⟩,
  ⟨0x100018, [], 64, [⟨0, 64, .rw, 0, 18446744073709551615, false⟩], 0⟩,
  ⟨0x100020, [], 32, [⟨0, 32, .wo, 0, 4294967295, false⟩], 0⟩,
  ⟨0x100024, [], 32, [⟨4, 1, .rw1c, 0, 1, false⟩, ⟨5, 1, .rw1c, 0, 1, false⟩], 0xffffffc8⟩,
  ⟨0x100028, [], 32, [], 0⟩,
  ⟨0x100030, [], 64, [], 0⟩,
  ⟨0x100038, [], 64, [], 0⟩,
  ⟨0x100040, [], 64, [], 0⟩,
  ⟨0x100048, [], 64, [], 0⟩,
  ⟨0x100050, [], 64, [], 0⟩,
  ⟨0x100058, [], 64, [], 0⟩,
  ⟨0x100060, [], 32, [⟨0, 1, .rw, 0, 1, false⟩, ⟨1, 1, .rw, 0, 1, false⟩, ⟨2, 1, .rw, 0, 1, false⟩, ⟨3, 1, .rw, 0, 1, false⟩, ⟨16, 6, .rw, 0, 63, false⟩], 0xffc0fff0⟩,
  ⟨0x100064, [], 32, [⟨0, 1, .rw1c, 0, 1, false⟩, ⟨1, 1, .rw1c, 0, 1, false⟩, ⟨2, 1, .rw1c, 0, 1, false⟩, ⟨3, 1, .rw1c, 0, 1, false⟩], 0xfffffff0⟩,
  ⟨0x100100, [(4, 12)], 32, [], 0xffff0000⟩,
  ⟨0x100140, [(4, 12)], 32, [], 0xffffffe0⟩,
  ⟨0x100400, [(16, 48)], 32, [], 0xff0000e0⟩,
  ⟨0x100404, [(16, 48)], 32, [], 0xfffc0000⟩,
  ⟨0x100408, [(16, 48)], 32, [⟨0, 32, .wo, 0, 4294967295, false⟩], 0⟩,
  ⟨0x400000, [], 32, [], 0xffff0000⟩]

/-- The registers of the physical function, part 2. -/
def pfTable2 : List RRow := [
  ⟨0x400004, [], 32, [⟨0, 1, .rw, 0, 1, false⟩, ⟨1, 1, .rw, 0, 1, false⟩, ⟨4, 5, .rw, 0, 20, false⟩, ⟨12, 4, .rw, 0, 11, false⟩], 0xffff0e0c⟩,
  ⟨0x400008, [], 64, [⟨0, 64, .rw, 0, 18446744073709551615, false⟩], 0⟩,
  ⟨0x400010, [], 32, [⟨0, 5, .rw, 6, 24, false⟩], 0xffffffe0⟩,
  ⟨0x400014, [], 32, [], 0⟩,
  ⟨0x400018, [], 32, [⟨0, 32, .rw, 0, 4294967295, false⟩], 0⟩,
  ⟨0x40001c, [], 32, [⟨1, 1, .rw1c, 0, 1, false⟩], 0xfffffffc⟩,
  ⟨0x400020, [], 64, [], 0⟩,
  ⟨0x400028, [], 64, [], 0⟩,
  ⟨0x400030, [], 64, [⟨0, 48, .rw, 0, 281474976710655, false⟩], 0xffff000000000000⟩,
  ⟨0x400100, [(64, 48)], 64, [], 0⟩,
  ⟨0x400108, [(64, 48)], 64, [], 0⟩,
  ⟨0x400110, [(64, 48)], 64, [], 0⟩,
  ⟨0x400118, [(64, 48)], 64, [], 0⟩,
  ⟨0x400120, [(64, 48)], 64, [], 0⟩,
  ⟨0x400128, [(64, 48)], 64, [], 0⟩,
  ⟨0x400130, [(64, 48)], 64, [], 0⟩,
  ⟨0x400138, [(64, 48)], 64, [], 0⟩,
  ⟨0x200000, [], 32, [], 0⟩,
  ⟨0x200004, [], 32, [⟨0, 8, .rwl, 0, 255, false⟩], 0xffffff00⟩,
  ⟨0x200008, [], 32, [⟨0, 14, .rw, 1518, 9216, false⟩], 0xffffc000⟩,
  ⟨0x20000c, [], 32, [⟨0, 7, .rw, 0, 64, false⟩], 0xffffff80⟩,
  ⟨0x200010, [], 32, [⟨0, 1, .rw, 0, 1, false⟩, ⟨1, 1, .rw, 0, 1, false⟩], 0xfffffffc⟩,
  ⟨0x200014, [], 32, [⟨0, 7, .rw, 1, 100, false⟩], 0xffffff80⟩,
  ⟨0x200018, [], 64, [⟨0, 64, .rw, 0, 18446744073709551615, false⟩], 0⟩,
  ⟨0x200020, [], 32, [⟨0, 32, .wo, 0, 4294967295, false⟩], 0⟩,
  ⟨0x200024, [], 32, [⟨0, 1, .rw, 0, 1, false⟩, ⟨1, 1, .rw, 0, 1, false⟩, ⟨2, 1, .rw, 0, 1, false⟩, ⟨3, 1, .rw, 0, 1, false⟩, ⟨4, 1, .rw, 0, 1, false⟩, ⟨5, 1, .rw, 0, 1, false⟩, ⟨6, 1, .rw, 0, 1, false⟩], 0xffffff80⟩,
  ⟨0x200028, [], 32, [⟨0, 1, .rw, 0, 1, false⟩, ⟨1, 1, .rw, 0, 1, false⟩, ⟨2, 1, .rw, 0, 1, false⟩, ⟨16, 6, .rw, 0, 63, false⟩], 0xffc0fff8⟩,
  ⟨0x20002c, [], 32, [⟨0, 1, .rw1c, 0, 1, false⟩, ⟨1, 1, .rw1c, 0, 1, false⟩, ⟨2, 1, .rw1c, 0, 1, false⟩], 0xfffffff8⟩,
  ⟨0x200030, [], 32, [⟨0, 32, .rw, 0, 4294967295, false⟩], 0⟩,
  ⟨0x200034, [], 32, [⟨0, 24, .rw, 100, 100000, false⟩], 0xff000000⟩]

/-- The registers of the physical function, part 3. -/
def pfTable3 : List RRow := [
  ⟨0x200040, [], 64, [⟨0, 64, .rw, 0, 18446744073709551615, false⟩], 0⟩,
  ⟨0x200048, [], 32, [⟨0, 5, .rw, 4, 16, false⟩, ⟨8, 4, .rw, 11, 14, false⟩], 0xfffff0e0⟩,
  ⟨0x20004c, [], 32, [], 0⟩,
  ⟨0x200050, [], 32, [⟨0, 32, .rw, 0, 4294967295, false⟩], 0⟩,
  ⟨0x200058, [], 64, [⟨0, 64, .rw, 0, 18446744073709551615, false⟩], 0⟩,
  ⟨0x200060, [], 32, [⟨0, 32, .rw, 0, 4294967295, false⟩], 0⟩,
  ⟨0x200064, [], 32, [], 0⟩,
  ⟨0x200080, [(4, 8)], 32, [⟨0, 3, .rw, 0, 7, false⟩, ⟨4, 3, .rw, 0, 7, false⟩, ⟨8, 3, .rw, 0, 7, false⟩, ⟨12, 3, .rw, 0, 7, false⟩, ⟨16, 3, .rw, 0, 7, false⟩, ⟨20, 3, .rw, 0, 7, false⟩, ⟨24, 3, .rw, 0, 7, false⟩, ⟨28, 3, .rw, 0, 7, false⟩], 0x88888888⟩,
  ⟨0x201000, [(256, 16)], 32, [], 0xffffff80⟩,
  ⟨0x201008, [(256, 16)], 64, [⟨0, 48, .rw, 0, 281474976710655, false⟩], 0xffff000000000000⟩,
  ⟨0x201010, [(256, 16)], 32, [⟨0, 1, .rw, 0, 1, false⟩, ⟨8, 8, .rw, 1, 255, false⟩], 0xffff00fe⟩,
  ⟨0x201014, [(256, 16)], 32, [⟨0, 16, .rw, 1000, 65535, false⟩], 0xffff0000⟩,
  ⟨0x201018, [(256, 16)], 32, [], 0xffff0000⟩,
  ⟨0x201020, [(256, 16)], 32, [⟨0, 1, .rw, 0, 1, false⟩, ⟨1, 7, .rw, 1, 64, false⟩], 0xffffff00⟩,
  ⟨0x201024, [(256, 16)], 32, [⟨0, 32, .wo, 0, 4294967295, false⟩], 0⟩,
  ⟨0x201028, [(256, 16)], 32, [⟨0, 32, .rw, 1000, 1000000000, false⟩], 0⟩,
  ⟨0x201030, [(256, 16)], 64, [⟨0, 64, .rw, 0, 18446744073709551615, false⟩], 0⟩,
  ⟨0x201038, [(256, 16)], 32, [], 0xffffff00⟩,
  ⟨0x201040, [(256, 16)], 64, [], 0⟩,
  ⟨0x201048, [(256, 16)], 64, [], 0⟩,
  ⟨0x201050, [(256, 16)], 64, [], 0⟩,
  ⟨0x201058, [(256, 16)], 64, [], 0⟩,
  ⟨0x201060, [(256, 16)], 64, [], 0⟩,
  ⟨0x201068, [(256, 16)], 64, [], 0⟩,
  ⟨0x201070, [(256, 16)], 64, [], 0⟩,
  ⟨0x208000, [(512, 16), (8, 64)], 64, [⟨0, 8, .rw, 0, 255, false⟩, ⟨8, 32, .rw, 1, 4294967295, false⟩], 0xffffff0000000000⟩,
  ⟨0x210000, [(256, 12), (16, 8)], 32, [⟨0, 8, .rw, 1, 255, false⟩], 0xffffff00⟩,
  ⟨0x210004, [(256, 12), (16, 8)], 32, [⟨0, 24, .rw, 0, 1600000, false⟩], 0xff000000⟩,
  ⟨0x210008, [(256, 12), (16, 8)], 32, [⟨0, 24, .rw, 9216, 16777215, false⟩], 0xff000000⟩,
  ⟨0x21000c, [(256, 12), (16, 8)], 32, [⟨0, 12, .rw, 16, 2048, false⟩], 0xfffff000⟩]

/-- The registers of the physical function, part 4. -/
def pfTable4 : List RRow := [
  ⟨0x210080, [(256, 12), (8, 8)], 64, [], 0⟩,
  ⟨0x220000, [(1024, 12), (64, 16)], 128, [⟨0, 128, .rw, 0, 340282366920938463463374607431768211455, false⟩], 0⟩,
  ⟨0x220010, [(1024, 12), (64, 16)], 32, [⟨0, 1, .rw, 0, 1, false⟩, ⟨1, 1, .rw, 0, 1, false⟩], 0xfffffffc⟩,
  ⟨0x50000, [], 32, [], 0xff000000⟩,
  ⟨0x50004, [], 32, [], 0xffffff80⟩,
  ⟨0x50008, [], 32, [], 0⟩,
  ⟨0x5000c, [], 32, [], 0xfffffff0⟩,
  ⟨0x50010, [], 64, [⟨0, 64, .rw, 0, 18446744073709551615, false⟩], 0⟩,
  ⟨0x50018, [], 32, [⟨0, 32, .rw, 0, 4294967295, false⟩], 0⟩,
  ⟨0x5001c, [], 32, [⟨0, 32, .wo, 0, 4294967295, false⟩], 0⟩,
  ⟨0x50020, [], 32, [⟨3, 1, .rw1c, 0, 1, false⟩], 0xffff00f0⟩,
  ⟨0x50040, [], 32, [⟨0, 12, .rws, 0, 4095, false⟩], 0xfffff000⟩,
  ⟨0x50044, [], 32, [⟨0, 12, .rw1c, 0, 4095, false⟩], 0xfffff000⟩,
  ⟨0x50048, [], 32, [⟨0, 10, .rws, 10, 1000, false⟩], 0xfffffc00⟩,
  ⟨0x50050, [(4, 12)], 32, [], 0⟩,
  ⟨0x50080, [], 32, [⟨0, 32, .wo, 0, 4294967295, false⟩], 0⟩,
  ⟨0x50084, [], 32, [], 0xe000fffc⟩,
  ⟨0x50088, [], 32, [⟨0, 32, .wo, 0, 4294967295, false⟩], 0⟩,
  ⟨0x50090, [], 32, [⟨0, 1, .rw, 0, 1, false⟩, ⟨1, 1, .rw, 0, 1, false⟩, ⟨2, 1, .rw, 0, 1, false⟩, ⟨3, 1, .rw, 0, 1, false⟩, ⟨16, 6, .rw, 0, 63, false⟩], 0xffc0fff0⟩,
  ⟨0x50094, [], 32, [⟨0, 1, .rw1c, 0, 1, false⟩, ⟨1, 1, .rw1c, 0, 1, false⟩, ⟨2, 1, .rw1c, 0, 1, false⟩, ⟨3, 1, .rw1c, 0, 1, false⟩], 0xfffffff0⟩,
  ⟨0x0, [], 32, [], 0⟩,
  ⟨0x8, [], 64, [], 0⟩,
  ⟨0x10, [], 32, [], 0xffff0000⟩,
  ⟨0x14, [], 32, [⟨31, 1, .rw1c, 0, 1, false⟩], 0x40000000⟩,
  ⟨0x18, [], 32, [⟨0, 1, .rw, 0, 1, false⟩, ⟨1, 1, .rw, 0, 1, false⟩, ⟨2, 1, .rw, 0, 1, false⟩, ⟨16, 6, .rw, 0, 63, false⟩], 0xffc0fff8⟩,
  ⟨0x1c, [], 32, [⟨0, 1, .rw1c, 0, 1, false⟩, ⟨1, 1, .rw1c, 0, 1, false⟩, ⟨2, 1, .rw1c, 0, 1, false⟩, ⟨3, 1, .rw1c, 0, 1, false⟩, ⟨4, 1, .rw1c, 0, 1, false⟩], 0xffffffe0⟩,
  ⟨0x20, [], 64, [], 0⟩,
  ⟨0x40, [(4, 12)], 32, [⟨0, 32, .rwl, 0, 4294967295, false⟩], 0⟩,
  ⟨0x80, [(4, 12)], 32, [], 0⟩,
  ⟨0xc0, [], 64, [], 0xfff0000000000000⟩]

/-- The registers of the physical function, part 5. -/
def pfTable5 : List RRow := [
  ⟨0xc8, [], 32, [], 0x40404040⟩,
  ⟨0xd0, [], 64, [], 0⟩,
  ⟨0x100, [(8, 15)], 32, [], 0xfffc⟩,
  ⟨0x200, [], 32, [], 0⟩,
  ⟨0x400, [(16, 64)], 128, [], 0⟩,
  ⟨0x800, [], 32, [⟨0, 1, .rw, 0, 1, false⟩, ⟨8, 4, .rw, 0, 15, false⟩], 0xfffff0fe⟩,
  ⟨0x808, [], 64, [⟨0, 64, .rw, 0, 18446744073709551615, false⟩], 0⟩,
  ⟨0x810, [], 32, [⟨0, 28, .rw, 0, 268435455, false⟩], 0xf0000000⟩,
  ⟨0x820, [], 32, [⟨0, 6, .rw, 0, 63, false⟩, ⟨6, 3, .rw, 0, 7, false⟩, ⟨9, 4, .rw, 0, 15, false⟩, ⟨13, 1, .rw, 0, 1, false⟩, ⟨16, 16, .rw, 0, 65535, false⟩], 0xc000⟩,
  ⟨0x828, [], 64, [], 0⟩,
  ⟨0x30000, [(256, 16), (4, 16)], 32, [⟨0, 32, .rw, 0, 4294967295, false⟩], 0⟩,
  ⟨0x30040, [(256, 16)], 32, [⟨0, 5, .rw, 0, 31, false⟩, ⟨8, 1, .rw, 0, 1, false⟩, ⟨9, 1, .rw1c, 0, 1, false⟩], 0xfffffce0⟩,
  ⟨0x30080, [(256, 16), (4, 16)], 32, [], 0⟩,
  ⟨0x300c0, [(256, 16)], 32, [⟨9, 1, .wo, 0, 1, false⟩], 0xfffffce0⟩,
  ⟨0x31000, [(4, 16)], 32, [⟨0, 8, .rwl, 0, 255, false⟩, ⟨8, 8, .rwl, 0, 255, false⟩, ⟨16, 5, .rwl, 0, 31, false⟩, ⟨24, 5, .rwl, 0, 31, false⟩], 0xe0e00000⟩,
  ⟨0x31100, [], 32, [⟨0, 32, .rw1c, 0, 4294967295, false⟩], 0⟩,
  ⟨0x31104, [], 32, [⟨0, 32, .rw, 0, 4294967295, false⟩], 0⟩,
  ⟨0x31108, [], 32, [⟨0, 6, .rw, 0, 63, false⟩], 0xffffffc0⟩,
  ⟨0x4ff00, [], 32, [⟨0, 1, .rw1c, 0, 1, false⟩, ⟨1, 1, .rw1c, 0, 1, false⟩], 0xfffffffc⟩,
  ⟨0x4ff04, [], 32, [], 0xff00ff00⟩,
  ⟨0x4ff08, [], 32, [⟨0, 1, .rw, 0, 1, false⟩, ⟨16, 6, .rw, 0, 63, false⟩], 0xffc0fffe⟩,
  ⟨0x20000, [], 32, [], 0xff00ff00⟩,
  ⟨0x20004, [], 32, [], 0xfffffff8⟩,
  ⟨0x20008, [], 32, [⟨0, 32, .wo, 0, 4294967295, false⟩], 0⟩,
  ⟨0x2000c, [], 32, [⟨0, 1, .rws, 0, 1, false⟩, ⟨1, 1, .rws, 0, 1, false⟩, ⟨2, 1, .rws, 0, 1, false⟩, ⟨3, 1, .rws, 0, 1, false⟩], 0xfffffff0⟩,
  ⟨0x20010, [], 32, [⟨0, 32, .rws, 0, 4294967295, false⟩], 0⟩,
  ⟨0x20014, [], 32, [⟨0, 32, .wo, 0, 4294967295, false⟩], 0⟩,
  ⟨0x20018, [], 32, [⟨0, 2, .rw, 0, 3, false⟩], 0xfffffffc⟩,
  ⟨0x2001c, [], 32, [⟨3, 1, .rw1c, 0, 1, false⟩], 0xf000fff0⟩,
  ⟨0x20020, [], 32, [⟨0, 12, .rw, 0, 4095, false⟩], 0xfffff000⟩]

/-- The registers of the physical function, part 6. -/
def pfTable6 : List RRow := [
  ⟨0x20024, [], 32, [⟨0, 8, .rw, 1, 255, false⟩], 0xffffff00⟩,
  ⟨0x20028, [], 32, [⟨0, 32, .wo, 0, 4294967295, false⟩], 0⟩,
  ⟨0x2002c, [], 32, [], 0xff80⟩,
  ⟨0x20030, [], 32, [], 0xffffff00⟩,
  ⟨0x20034, [], 32, [⟨0, 8, .rw, 70, 105, false⟩], 0xffffff00⟩,
  ⟨0x20038, [], 32, [⟨0, 1, .rw, 0, 1, false⟩, ⟨1, 1, .rw, 0, 1, false⟩, ⟨2, 1, .rw, 0, 1, false⟩, ⟨16, 6, .rw, 0, 63, false⟩], 0xffc0fff8⟩,
  ⟨0x2003c, [], 32, [⟨0, 1, .rw1c, 0, 1, false⟩, ⟨1, 1, .rw1c, 0, 1, false⟩, ⟨2, 1, .rw1c, 0, 1, false⟩], 0xfffffff8⟩]

/-- The registers of the physical function. -/
def pfTable : List RRow := pfTable0 ++ pfTable1 ++ pfTable2 ++ pfTable3 ++ pfTable4 ++ pfTable5 ++ pfTable6

/-- The registers of a yard function, part 0. -/
def yfTable0 : List RRow := [
  ⟨0x20000, [], 32, [], 0xff000000⟩,
  ⟨0x20004, [], 32, [], 0⟩,
  ⟨0x20008, [], 32, [], 0xffffffc0⟩,
  ⟨0x20010, [], 32, [⟨0, 1, .rw1c, 0, 1, false⟩, ⟨1, 1, .rw1c, 0, 1, false⟩, ⟨2, 1, .rw1c, 0, 1, false⟩, ⟨3, 1, .rw1c, 0, 1, false⟩], 0xfffffff0⟩,
  ⟨0x20014, [], 32, [⟨0, 4, .rw, 0, 15, false⟩, ⟨16, 11, .rw, 0, 2047, false⟩], 0xf800fff0⟩,
  ⟨0x20018, [], 64, [], 0⟩,
  ⟨0x20020, [], 64, [], 0⟩,
  ⟨0x20100, [(16, 48)], 32, [], 0xf8000080⟩,
  ⟨0x20108, [(16, 48)], 64, [], 0⟩,
  ⟨0x20800, [], 64, [⟨0, 32, .rw, 0, 4294967295, false⟩, ⟨32, 32, .rw, 0, 4294967295, false⟩], 0⟩,
  ⟨0x20808, [], 64, [⟨0, 32, .rw, 0, 4294967295, false⟩, ⟨32, 32, .rw, 0, 4294967295, false⟩], 0⟩,
  ⟨0x20810, [], 64, [⟨0, 32, .rw, 0, 4294967295, false⟩, ⟨32, 32, .rw, 0, 4294967295, false⟩], 0⟩,
  ⟨0x20818, [], 32, [⟨0, 32, .wo, 0, 4294967295, false⟩], 0⟩,
  ⟨0x2081c, [], 32, [], 0xfffffffe⟩,
  ⟨0x20820, [], 64, [], 0⟩,
  ⟨0x20828, [], 64, [], 0⟩,
  ⟨0x20840, [], 32, [⟨0, 32, .rw, 0, 4294967295, false⟩], 0⟩,
  ⟨0x20844, [], 32, [⟨0, 4, .rw, 0, 13, true⟩, ⟨4, 2, .rw, 0, 2, true⟩, ⟨6, 1, .rw, 0, 1, false⟩], 0xffffff80⟩,
  ⟨0x20848, [], 32, [⟨0, 32, .rw, 0, 4294967295, false⟩], 0⟩,
  ⟨0x2084c, [], 32, [⟨0, 32, .wo, 0, 4294967295, false⟩], 0⟩,
  ⟨0x20850, [], 32, [], 0⟩,
  ⟨0x20854, [], 32, [], 0xffffff0c⟩,
  ⟨0x10000, [], 32, [], 0⟩,
  ⟨0x10008, [], 64, [⟨0, 64, .rw, 0, 18446744073709551615, false⟩], 0⟩,
  ⟨0x10010, [], 32, [⟨0, 25, .rw, 128, 16777216, false⟩], 0xfe000000⟩,
  ⟨0x10014, [], 32, [⟨0, 32, .wo, 0, 4294967295, false⟩], 0⟩,
  ⟨0x10018, [], 32, [⟨4, 1, .rw1c, 0, 1, false⟩, ⟨5, 1, .rw1c, 0, 1, false⟩, ⟨6, 1, .rw1c, 0, 1, false⟩, ⟨7, 1, .rw1c, 0, 1, false⟩], 0xfffffe08⟩,
  ⟨0x1001c, [], 32, [⟨0, 32, .rw, 0, 4294967295, false⟩], 0⟩,
  ⟨0x10020, [], 32, [], 0⟩,
  ⟨0x10024, [], 32, [], 0⟩]

/-- The registers of a yard function, part 1. -/
def yfTable1 : List RRow := [
  ⟨0x10028, [], 32, [], 0⟩,
  ⟨0x10030, [], 64, [⟨0, 64, .rw, 0, 18446744073709551615, false⟩], 0⟩,
  ⟨0x10038, [], 64, [], 0⟩,
  ⟨0x10040, [], 32, [], 0xf000⟩,
  ⟨0x10044, [], 32, [], 0x7ffff000⟩,
  ⟨0x10048, [], 32, [⟨0, 1, .rw, 0, 1, false⟩, ⟨1, 1, .rw, 0, 1, false⟩, ⟨2, 1, .rw, 0, 1, false⟩, ⟨16, 11, .rw, 0, 2047, false⟩], 0xf800fff8⟩,
  ⟨0x10080, [(8, 8)], 64, [⟨0, 64, .rw, 0, 18446744073709551615, false⟩], 0⟩,
  ⟨0x100c0, [(4, 12)], 32, [], 0⟩,
  ⟨0x10100, [(8, 12)], 32, [], 0xfffc0000⟩,
  ⟨0x10200, [(8, 64)], 64, [], 0⟩,
  ⟨0x10400, [], 32, [⟨0, 32, .wo, 0, 4294967295, false⟩], 0⟩,
  ⟨0x48000, [(32, 768)], 32, [], 0xff000000⟩,
  ⟨0x48008, [(32, 768)], 64, [], 0⟩,
  ⟨0x48010, [(32, 768)], 64, [], 0⟩,
  ⟨0x4f000, [], 32, [⟨0, 32, .wo, 0, 4294967295, false⟩], 0⟩,
  ⟨0x4f004, [], 32, [⟨0, 1, .rw, 0, 1, false⟩, ⟨16, 11, .rw, 0, 2047, false⟩], 0xf800fffe⟩,
  ⟨0x4f008, [], 32, [⟨31, 1, .rw1c, 0, 1, false⟩], 0x7c00fc00⟩,
  ⟨0x4f010, [], 64, [], 0⟩,
  ⟨0x30000, [], 32, [], 0xff00ff00⟩,
  ⟨0x30004, [], 32, [], 0xfffffff0⟩,
  ⟨0x30008, [], 32, [⟨0, 4, .rw, 1, 15, false⟩, ⟨4, 1, .rw, 0, 1, false⟩], 0xffffffe0⟩,
  ⟨0x30010, [], 64, [], 0⟩,
  ⟨0x30018, [], 64, [], 0⟩,
  ⟨0x30020, [], 64, [], 0⟩,
  ⟨0x30028, [], 64, [], 0⟩,
  ⟨0x30030, [], 64, [], 0⟩,
  ⟨0x30038, [], 64, [], 0⟩,
  ⟨0x30040, [], 64, [], 0⟩,
  ⟨0x30048, [], 64, [], 0⟩,
  ⟨0x30050, [], 64, [], 0⟩]

/-- The registers of a yard function, part 2. -/
def yfTable2 : List RRow := [
  ⟨0x30058, [], 32, [], 0xffffc000⟩,
  ⟨0x3005c, [], 32, [], 0xffffff00⟩,
  ⟨0x30060, [], 32, [⟨0, 32, .wo, 0, 4294967295, false⟩], 0⟩,
  ⟨0x30100, [(32, 12)], 32, [], 0xffe0⟩,
  ⟨0x30108, [(32, 12)], 64, [], 0⟩,
  ⟨0x30110, [(32, 12)], 64, [], 0⟩,
  ⟨0x40000, [], 32, [], 0xff00⟩,
  ⟨0x40004, [], 32, [], 0xfffc0000⟩,
  ⟨0x40008, [], 64, [⟨0, 64, .rw, 0, 18446744073709551615, false⟩], 0⟩,
  ⟨0x40010, [], 32, [⟨0, 4, .wo, 0, 15, false⟩, ⟨8, 17, .wo, 0, 131071, false⟩], 0xfe0000f0⟩,
  ⟨0x40014, [], 32, [⟨1, 1, .rw1c, 0, 1, false⟩, ⟨2, 1, .rw1c, 0, 1, false⟩], 0xffff00f8⟩,
  ⟨0x40018, [], 32, [], 0xfffc0000⟩,
  ⟨0x4001c, [], 32, [⟨0, 16, .rw, 1024, 65535, false⟩], 0xffff0000⟩,
  ⟨0x40020, [], 32, [⟨0, 10, .rw, 8, 1000, false⟩], 0xfffffc00⟩,
  ⟨0x40024, [], 32, [⟨0, 20, .rw, 64, 1000000, false⟩], 0xfff00000⟩,
  ⟨0x40028, [], 32, [⟨0, 7, .rw, 1, 64, false⟩, ⟨8, 12, .rw, 1, 4095, false⟩], 0xfff00080⟩,
  ⟨0x4002c, [], 32, [⟨0, 4, .rw, 0, 15, false⟩], 0xfffffff0⟩,
  ⟨0x40030, [], 32, [⟨0, 16, .rw, 100, 65535, false⟩], 0xffff0000⟩,
  ⟨0x40034, [], 32, [⟨0, 1, .rw, 0, 1, false⟩, ⟨1, 1, .rw1c, 0, 1, false⟩, ⟨16, 11, .rw, 0, 2047, false⟩], 0xf800fffc⟩,
  ⟨0x40038, [], 32, [], 0xfe0000⟩,
  ⟨0x4003c, [], 32, [], 0xfff80000⟩,
  ⟨0x40040, [], 64, [], 0⟩,
  ⟨0x40048, [], 64, [], 0⟩,
  ⟨0x40050, [], 64, [], 0⟩,
  ⟨0x40058, [], 64, [], 0⟩,
  ⟨0x40060, [], 64, [], 0⟩,
  ⟨0x40068, [], 64, [], 0⟩,
  ⟨0x40070, [], 64, [], 0⟩,
  ⟨0x40078, [], 64, [], 0⟩,
  ⟨0x40080, [], 64, [], 0⟩]

/-- The registers of a yard function, part 3. -/
def yfTable3 : List RRow := [
  ⟨0x40088, [], 64, [], 0⟩,
  ⟨0x40090, [], 64, [], 0⟩,
  ⟨0x40100, [(32, 4)], 32, [⟨0, 24, .rw, 100, 1600000, false⟩], 0xff000000⟩,
  ⟨0x40104, [(32, 4)], 32, [⟨0, 24, .rw, 1, 100000, false⟩], 0xff000000⟩,
  ⟨0x40108, [(32, 4)], 32, [⟨0, 16, .rw, 1, 65535, false⟩], 0xffff0000⟩,
  ⟨0x4010c, [(32, 4)], 32, [⟨0, 8, .rw, 1, 128, false⟩], 0xffffff00⟩,
  ⟨0x40110, [(32, 4)], 32, [⟨0, 20, .rw, 1000, 1000000, false⟩], 0xfff00000⟩,
  ⟨0x60000, [], 64, [⟨0, 64, .rw, 0, 18446744073709551615, false⟩], 0⟩,
  ⟨0x60008, [], 64, [⟨0, 64, .rw, 0, 18446744073709551615, false⟩], 0⟩,
  ⟨0x60010, [], 32, [⟨0, 12, .rw, 0, 4095, false⟩, ⟨16, 12, .rw, 0, 4095, false⟩], 0xf000f000⟩,
  ⟨0x60014, [], 32, [⟨0, 32, .wo, 0, 4294967295, false⟩], 0⟩,
  ⟨0x60018, [], 32, [⟨0, 32, .wo, 0, 4294967295, false⟩], 0⟩,
  ⟨0x61000, [(8, 2048)], 32, [⟨0, 32, .wo, 0, 4294967295, false⟩], 0⟩,
  ⟨0x0, [], 32, [], 0xff00ff00⟩,
  ⟨0x4, [], 32, [], 0xfffff000⟩,
  ⟨0x8, [], 32, [⟨0, 1, .rw, 0, 1, false⟩], 0xfffffffe⟩,
  ⟨0xc, [], 32, [⟨0, 1, .rw, 0, 1, false⟩], 0xfffffffe⟩,
  ⟨0x10, [], 32, [⟨0, 32, .wo, 0, 4294967295, false⟩], 0⟩,
  ⟨0x14, [], 32, [⟨0, 32, .wo, 0, 4294967295, false⟩], 0⟩,
  ⟨0x20, [], 64, [⟨0, 64, .rw, 0, 18446744073709551615, false⟩], 0⟩,
  ⟨0x28, [], 32, [⟨0, 32, .wo, 0, 4294967295, false⟩], 0⟩,
  ⟨0x2c, [], 32, [⟨1, 1, .rw1c, 0, 1, false⟩, ⟨2, 1, .rw1c, 0, 1, false⟩], 0xffff00f8⟩,
  ⟨0x30, [], 64, [], 0⟩,
  ⟨0x38, [], 64, [], 0⟩,
  ⟨0x40, [], 64, [], 0⟩,
  ⟨0x48, [], 32, [⟨31, 1, .rw1c, 0, 1, false⟩], 0x40000000⟩,
  ⟨0x200, [], 64, [⟨0, 64, .rw, 0, 18446744073709551615, false⟩], 0⟩,
  ⟨0x208, [], 32, [⟨0, 10, .rw, 0, 1023, false⟩], 0xfffffc00⟩,
  ⟨0x20c, [], 32, [⟨0, 32, .wo, 0, 4294967295, false⟩], 0⟩,
  ⟨0x210, [], 32, [⟨3, 1, .rw1c, 0, 1, false⟩], 0xffff00f0⟩]

/-- The registers of a yard function, part 4. -/
def yfTable4 : List RRow := [
  ⟨0x218, [], 64, [⟨0, 64, .rw, 0, 18446744073709551615, false⟩], 0⟩,
  ⟨0x220, [], 32, [], 0xfffffc00⟩,
  ⟨0x224, [], 32, [], 0⟩,
  ⟨0x228, [], 64, [], 0⟩,
  ⟨0x50000, [], 32, [], 0xff00ff00⟩,
  ⟨0x50004, [], 32, [], 0xffff0000⟩,
  ⟨0x50008, [], 64, [⟨0, 64, .rw, 0, 18446744073709551615, false⟩], 0⟩,
  ⟨0x50010, [], 32, [⟨0, 32, .wo, 0, 4294967295, false⟩], 0⟩,
  ⟨0x50014, [], 32, [⟨1, 1, .rw1c, 0, 1, false⟩, ⟨2, 1, .rw1c, 0, 1, false⟩], 0xffff00f8⟩,
  ⟨0x50018, [], 32, [], 0⟩,
  ⟨0x5001c, [], 32, [⟨0, 1, .rw, 0, 1, false⟩], 0xfffffffe⟩,
  ⟨0x50020, [], 32, [⟨0, 8, .rw, 1, 255, false⟩, ⟨8, 16, .rw, 1, 65535, false⟩, ⟨24, 4, .rw, 1, 15, false⟩], 0xf0000000⟩,
  ⟨0x50024, [], 32, [⟨1, 1, .rw1c, 0, 1, false⟩], 0xfffffff0⟩,
  ⟨0x50028, [], 64, [], 0⟩,
  ⟨0x50030, [], 64, [], 0⟩,
  ⟨0x50038, [], 64, [], 0⟩,
  ⟨0x50040, [], 64, [], 0⟩,
  ⟨0x50048, [], 64, [], 0⟩,
  ⟨0x50050, [], 32, [], 0xff800000⟩,
  ⟨0x50054, [], 32, [], 0xfffe0000⟩,
  ⟨0x50058, [], 32, [], 0xffe00000⟩,
  ⟨0x5005c, [], 32, [], 0xffe00000⟩,
  ⟨0x50060, [], 32, [⟨0, 1, .rw, 0, 1, false⟩, ⟨1, 1, .rw, 0, 1, false⟩, ⟨2, 1, .rw, 0, 1, false⟩, ⟨16, 11, .rw, 0, 2047, false⟩], 0xf800fff8⟩,
  ⟨0x50068, [], 64, [], 0⟩,
  ⟨0x50070, [], 32, [⟨2, 1, .rw1c, 0, 1, false⟩], 0xfffffff8⟩,
  ⟨0x50078, [], 64, [], 0⟩,
  ⟨0x50080, [], 64, [], 0⟩,
  ⟨0x50088, [], 64, [], 0⟩,
  ⟨0x50090, [], 64, [], 0⟩,
  ⟨0x50800, [(128, 12), (8, 10)], 64, [], 0⟩]

/-- The registers of a yard function, part 5. -/
def yfTable5 : List RRow := [
  ⟨0x50e00, [], 32, [⟨0, 32, .wo, 0, 4294967295, false⟩], 0⟩,
  ⟨0x100, [], 64, [⟨0, 64, .rw, 0, 18446744073709551615, false⟩], 0⟩,
  ⟨0x108, [], 64, [⟨0, 64, .rw, 0, 18446744073709551615, false⟩], 0⟩,
  ⟨0x110, [], 64, [⟨0, 36, .rw, 0, 68719476735, false⟩], 0xfffffff000000000⟩,
  ⟨0x118, [], 32, [⟨0, 20, .rw, 0, 1048575, false⟩, ⟨20, 3, .rw, 0, 7, false⟩, ⟨23, 1, .rw, 0, 1, false⟩, ⟨24, 3, .rw, 0, 7, false⟩, ⟨27, 1, .rw, 0, 1, false⟩], 0xf0000000⟩,
  ⟨0x11c, [], 32, [⟨0, 32, .wo, 0, 4294967295, false⟩], 0⟩,
  ⟨0x120, [], 32, [⟨1, 1, .rw1c, 0, 1, false⟩, ⟨2, 1, .rw1c, 0, 1, false⟩], 0xffff00f8⟩,
  ⟨0x128, [], 64, [], 0⟩,
  ⟨0x140, [], 64, [], 0⟩,
  ⟨0x148, [], 64, [], 0⟩,
  ⟨0x150, [], 32, [], 0xfffffffc⟩,
  ⟨0x300, [], 32, [⟨0, 32, .wo, 0, 4294967295, false⟩], 0⟩,
  ⟨0x304, [], 32, [⟨3, 1, .rw1c, 0, 1, false⟩, ⟨4, 1, .rw1c, 0, 1, false⟩], 0xffff00c0⟩,
  ⟨0x308, [], 64, [⟨0, 64, .rw, 0, 18446744073709551615, false⟩], 0⟩,
  ⟨0x310, [], 32, [⟨0, 20, .rw, 0, 1048575, false⟩], 0xfff00000⟩,
  ⟨0x314, [], 32, [⟨0, 5, .rw, 20, 30, false⟩], 0xffffffe0⟩,
  ⟨0x318, [], 32, [], 0⟩,
  ⟨0x31c, [], 32, [], 0⟩,
  ⟨0x320, [], 32, [⟨0, 32, .rw, 0, 4294967295, false⟩], 0⟩,
  ⟨0x324, [], 32, [⟨0, 1, .rw, 0, 1, false⟩, ⟨1, 1, .rw, 0, 1, false⟩, ⟨16, 11, .rw, 0, 2047, false⟩], 0xf800fffc⟩,
  ⟨0x328, [], 64, [], 0⟩]

/-- The registers of a yard function. -/
def yfTable : List RRow := yfTable0 ++ yfTable1 ++ yfTable2 ++ yfTable3 ++ yfTable4 ++ yfTable5

end Sys2Proof.Machine
end

