-- ==== Sys2Proof/Machine/Types1.lean ====
section
/-! DEFINITION. The records of State for layout, plans, collectives, pans, translation and the fabric (02 to 08, 11, 12). -/

namespace Sys2Proof.Machine

/-! ### Layout (02) -/

/-- A link as the committed layout gives it (R35). -/
structure LinkCfg where
  role : Nat
  reversal : Bool
  peer : Nat
deriving DecidableEq, Repr

/-- The committed layout (R34, R35). `n` is 0 before the first commit. -/
structure Layout where
  n : Nat
  enable : Nat
  conf : Nat
  strict : Bool
  addr : List Nat
  links : List LinkCfg
  eth : List Nat
  portMask : Nat
  granule : Nat
  portCap : Nat
  share : Nat
  spare : List Nat
  mbx : List Byte
  routes : List Byte
deriving DecidableEq, Repr

/-- No layout: every link powered down, every port down, the far tier not mapped (R33). -/
def Layout.none : Layout :=
  { n := 0, enable := 0, conf := 0, strict := false, addr := List.replicate 12 0xFFFF,
    links := List.replicate 48 { role := 0, reversal := false, peer := 0xFFFF }, eth := [0, 0, 0, 0], portMask := 0,
    granule := 0, portCap := 0, share := 0, spare := List.range 48, mbx := List.replicate 64 0, routes := [] }

/-- The staging store and the tables that commits and swaps exchange (R42, R371, R375, R387). -/
structure Lay where
  asked : Nat                 -- LAY_STAGE_LEN as FETCH found it (R42)
  staged : List Byte          -- the staged image
  fetchErr : Bool             -- the fetch of the staged image ended in a host error (R42)
  commitAfter : Bool          -- the check in progress is followed by a commit (R41, STAGED under LAY_COMMIT)
  discarding : Bool           -- DISCARD arrived while FETCHING (R41)
  cur : Layout
  active : List Byte          -- active route table image
  shadow : List Byte          -- shadow route table image
  groups : List Byte          -- group table image
  setSnap : Option (Nat × Nat × Nat) -- device-scope set in progress: address, count, report address
deriving DecidableEq, Repr

/-! ### Plans (04) -/

/-- A buffer of a plan (R99). `addr` is the pool address of a POOLED buffer. -/
structure Buf where
  kind : Nat
  tier : Nat
  seg : Nat
  pasid : Nat
  off : Nat
  len : Nat
  addr : Nat
deriving DecidableEq, Repr

/-- A communicator declaration (R129). -/
structure CommDecl where
  ringId : Nat
  n : Nat
  pos : Nat
  predHop : Nat
  succHop : Nat
  predAddr : Nat
  succAddr : Nat
  predConn : Nat
  succConn : Nat
  slots : Nat
  landGroup : Nat
  landBuf : Nat
  weight : Nat
deriving DecidableEq, Repr

/-- An operand reference (R102). -/
structure OpRef where
  buf : Nat
  level : Nat
  src : Nat
  stride : Nat
  off : Nat
deriving DecidableEq, Repr

/-- A step record (R101); `spec` holds the type-specific bytes 0x68 to 0x7F (R104). -/
structure Step where
  type : Nat
  flags : Nat
  wd : Nat
  prog : Nat
  comm : Nat
  seed : Nat
  stream : Nat
  baseLevel : Nat
  period : Nat
  count : Nat
  base : Nat
  in0 : OpRef
  in1 : OpRef
  in2 : OpRef
  out : OpRef
  pans : Nat
  spec : List Byte
deriving DecidableEq, Repr

/-- A resident plan (R96 to R101, R120). -/
structure Plan where
  image : List Byte
  member : Nat
  watchdog : Nat
  threads : List (Nat × Nat)
  panMask : Nat
  contexts : Nat
  seedMask : Nat
  conns : Nat
  loft : Nat
  near : Nat
  far : Nat
  slots : Nat
  eventMask : Nat
  bufs : List Buf
  comms : List CommDecl
  progs : List Prog
  steps : List Step
  tables : List Byte
deriving DecidableEq, Repr

/-- A loop in progress (R105). -/
structure Frame where
  level : Nat
  descending : Bool
  count : Nat
  i : Nat
  start : Nat      -- first step of the body
  stop : Nat       -- step after the body
deriving DecidableEq, Repr

/-- Where bytes of the yard lie: in a tier, by yard address, or in host virtual memory. -/
inductive Place where
  | mem (tier a : Nat)
  | host (pasid va : Nat)
deriving DecidableEq, Repr

/-- Where a run reads an input stream (R82, R102): the place of its first element and of its first scale byte; a factor
stream gives one beat per period (R173); `given` holds bytes at hand: an incoming chunk; `picked` reads a selected set's
FP32 values for the listed blocks it holds, and +0 for the others (R200). -/
inductive Src where
  | at (elems scales : Place) (factor : Bool)
  | picked (elems : Place) (held : List Bool)
  | given (elems scales : List Byte)
deriving DecidableEq, Repr

/-- Where a run's output goes. -/
inductive Dst where
  | none
  | at (elems scales : Place)
  | chunk                                       -- collected, for a lap
deriving DecidableEq, Repr

/-- A chunk of a lap: run index r (R137: segment (k − r − 1) mod N of a REDUCE, (k − r) mod N of a GATHER) and chunk
index c of that segment. -/
structure ChunkId where
  r : Nat
  c : Nat
deriving DecidableEq, Repr

/-- A run of a step: its program, its parameters and its streams. `elems`, when not empty, lists the positions of the
elements the run processes (the blocks or units of a WIRE 1 or 2 chunk, R200, R207); otherwise they follow `pos`. -/
structure RunSpec where
  prog : Prog
  beats : Nat
  period : Nat
  base : Nat
  pos : Nat
  elems : List Nat
  key : DrawKey
  weight : Nat
  scalars : List WV      -- W12 to W15 at beat 0 (R178), or empty
  ins : List Src
  dst : Dst
  chunk : Option ChunkId
deriving DecidableEq, Repr

/-- A ring packet held in a landing slot or waiting for credit (R132, R133): the payload as it travels, and whether it
still holds a landing slot. -/
structure LapPkt where
  h : LapHdr
  data : List Byte
  inSlot : Bool
deriving DecidableEq, Repr

/-- What has been received of one sub-step: the next chunk and packet index, whether the chunk is whole and waits for its
run, and the bytes of the chunk so far. -/
structure RxPos where
  c : Nat
  p : Nat
  whole : Bool
  map : List Byte
  elems : List Byte
  scales : List Byte
deriving DecidableEq, Repr

/-- The lap work of an active REDUCE_LAP or GATHER_LAP step. -/
structure LapSt where
  gather : Bool
  own : Nat                  -- next own chunk (run index 0) to start, or to emit
  ownDone : Bool             -- GATHER: the owner's segment has been converted
  ownElems : List Byte
  ownScales : List Byte
  rx : List RxPos            -- per sub-step
  left : Nat                 -- chunks not yet finished
  sel : List Byte            -- WIRE 1: block map of the member's selected set
  skip : List (Nat × Nat)    -- WIRE 2: first unit and units of each range this member leaves out (R206, R208)
  mark : List Bool           -- of the chunk whose run is under way: the blocks its run computes,
  baseE : List Byte          -- and the element and scale bytes of the others
  baseS : List Byte
  stall : Option (Nat × Nat) := none  -- the page of a HOST OUT that its lap-2 writes wait for (R343): PASID, page
  pages : List (Nat × Nat) := []      -- the pages of a HOST OUT whose translations its writes hold: PASID, page
  edge : List (Nat × Nat × Bool) := [] -- bytes of the landing buffer known in part: byte, the known bits, whether they are its high ones (R233)
deriving DecidableEq, Repr

/-- One destination of a stream entry (R228): accelerator index, its delivery number, packets emitted, answers due. -/
structure DestSt where
  accel : Nat
  seq : Nat
  sent : Nat
  answered : Nat
  waited : Bool
deriving DecidableEq, Repr

/-- An entry of a STREAM that is not yet fully delivered (R227, R228, R240). -/
structure EntrySt where
  i : Nat
  drover : Nat
  tile : Place               -- the tile in the source
  slot : Option Nat          -- shed slot it is read from
  fill : Option Nat          -- shed slot it fills
  score : Nat                -- F, the SCORE of a filled slot
  data : Option (List Byte)  -- delivered bytes, once read and decoded
  begun : Bool               -- a packet of it has been emitted (R229)
  dests : List DestSt
deriving DecidableEq, Repr

/-- An active STREAM step. -/
structure StreamSt where
  entries : List EntrySt
  table : Nat                -- offset of its table in TABLES
  shed : Option Nat          -- near address of its shed
  hot : Bool
  age : Nat
  fills : List (Nat × Nat × Nat)  -- slots written whole and not yet VALID: slot, TAG, SCORE
deriving DecidableEq, Repr

/-- The active step of a thread. -/
structure Active where
  step : Nat
  env : List Nat             -- index of loop levels 0 to 3
  code : Option Nat          -- the code it will complete with, once its work is over
  runs : List RunSpec        -- runs not yet in a context
  live : Bool                -- a run of the step is in a context
  lap : Option LapSt
  stream : Option StreamSt
  origin : Option Nat        -- abort origin to report in PLN_ERR_ORIGIN (R153)
deriving DecidableEq, Repr

/-- A thread of the plan (R91). `pc` is the index of the next step. -/
structure Thr where
  pc : Nat
  stop : Nat
  loops : List Frame
  active : Option Active
  waiting : Bool
deriving DecidableEq, Repr

/-- A landing write that waits (R140, R366): its target, offset and bytes, and the received packet it belongs to, by run index,
chunk and packet. -/
structure LandWait where
  target : Nat
  off : Nat
  bytes : List Byte
  key : Option (Nat × Nat × Nat)
deriving DecidableEq, Repr

/-- A communicator at run time (R132, R133, R146, R151, R161). State, ATTEMPT, POS and the last outcome are in
TRN_COMM_STATE and TRN_COMM_LAST. -/
structure Comm where
  opseq : Nat                        -- OPSEQ of the current op
  check : Bool
  code : Nat
  held : Option CtlHdr               -- a SEAL held until the SEAL step starts (R147)
  abortCode : Nat                    -- code, origin and cause of the abort that stopped the member
  abortOrigin : Nat
  abortCause : Nat
  fwdAbort : Bool                    -- an abort of this op has gone forward
  bwdAbort : Bool
  verdict : Option (Nat × Nat × Nat × Bool)   -- an ABORT applied between steps: code, cause, origin, VALID (R153)
  slots : List LapPkt                -- landing slots in use
  credits : Nat
  txq : List LapPkt                  -- packets waiting for credit
  kept : Option CtlHdr               -- a verdict or resolve kept while the yard is frozen (R187, R485)
  begun : List Nat                   -- ring steps of the current op that have started here (R132)
  landOut : Nat                      -- landing writes not yet answered
  landq : List LandWait              -- landing writes that wait for the limit of R366
  notes : List (List Byte)           -- notices that wait for landing writes (R157)
  keptByHost : Bool                  -- the kept outcome came from TRN_COMM_RESOLVE
  early : Bool                       -- the op's GATHER_LAP carries EARLY
  refused : Bool := false            -- a lap-2 write of the op has been refused (R146)
  landKeys : List (Nat × Nat × Nat) := [] -- the received packets of the landing writes not yet answered (R140)
deriving DecidableEq, Repr

/-- A landing buffer of the directory (R232, R234). -/
structure LandBuf where
  src : Nat
  buf : Nat
  kind : Nat
  length : Nat
  slots : Nat
  slotBytes : Nat
  scaleOff : Nat
  closing : Bool
  out : Nat          -- outstanding deliveries and lap-2 writes
  seq : Nat          -- next delivery number
  limit : Nat
  ready : Nat        -- next delivery to be given a READY
  landed : List (Nat × Nat) -- deliveries landed and waiting for their READY: delivery number, entry
deriving DecidableEq, Repr

/-- What an unanswered LAND packet belongs to: a communicator's lap-2 write, or a delivery (R218, R366). -/
inductive LandOwner where
  | lap (comm : Nat) (key : Option (Nat × Nat × Nat))
  | delivery (thread entry accel : Nat)
  | gone                     -- a delivery of an earlier iteration
deriving DecidableEq, Repr

structure LandReq where
  owner : LandOwner
  dst : Nat
  buf : Nat
deriving DecidableEq, Repr

/-! ### Run contexts (03) -/

/-- A context's state (R86). -/
inductive CtxSt where
  | free | wait | ready | run | done
deriving DecidableEq, Repr

/-- One run context of a logical pan (R58, R159). -/
structure Ctx where
  st : CtxSt
  yard : Nat
  thread : Nat
  spec : Option RunSpec
  beat : Nat
  regs : PanRegs
  ops : List (List Byte × List Byte)    -- operands of the next beat, fetched (R83, R466)
  ahead : Option (List (List Byte × List Byte))  -- operands of the beat after it, fetched ahead (R83)
  elems : List Byte                     -- collected output (Dst.chunk)
  scales : List Byte
  err : Nat                             -- completion code of a run that ended in error
  f : Nat                               -- finish tag F
deriving DecidableEq, Repr

/-- An empty context. -/
def Ctx.empty : Ctx :=
  { st := .free, yard := 0, thread := 0, spec := none, beat := 0, regs := { w := [], a := [] }, ops := [], ahead := none, elems := [],
    scales := [], err := 0, f := 0 }

/-- A logical pan: its contexts, the tag V of R159 and the rotating order of R59. PHYS and RUNCTX are in registers. -/
structure Pan where
  ctxs : List Ctx
  v : Nat
  order : List Nat
deriving DecidableEq, Repr

/-- A pan after reset. DESIGN CHOICE, log 5. -/
def Pan.reset : Pan := { ctxs := List.replicate 8 Ctx.empty, v := 0, order := List.range 8 }

/-! ### Translation (11) -/

/-- A segment (R336). -/
structure Seg where
  tier : Nat
  yaddr : Nat
  len : Nat
deriving DecidableEq, Repr

/-- An address context (R335). -/
structure AddrCtx where
  host : Bool
  segs : Tab Seg
deriving DecidableEq, Repr

/-- A window (R347). `state`: 0 FREE, 1 OPEN, 2 CLOSING. -/
structure Win where
  pasid : Nat
  kind : Nat
  seg : Nat
  rights : Nat
  base : Nat
  len : Nat
  conn : Nat
  gen : Nat
  state : Nat
  inflight : Nat
  accepted : Nat
  aborted : Bool         -- accesses were aborted by host-lost during the drain (R350)
  desc : Nat             -- address of the WIN_REVOKE descriptor
  raw : List Byte        -- bytes 0x00 to 0x1B of the create descriptor (R351)
deriving DecidableEq, Repr

/-- Who waits on a fault entry (R342, R343). -/
inductive Waiter where
  | ctx (pan x : Nat)
  | ring (r : Nat)
  | conn (c : Nat)
  | seal
  | inbound
deriving DecidableEq, Repr

/-- An entry of a fault queue (R342). -/
structure FaultEnt where
  bay : Nat
  pasid : Nat
  page : Nat
  write : Bool
  grp : Nat              -- page request group it was sent in, 0 while not sent
  waiters : List Waiter
  replays : Nat
  limit : Nat            -- REPLAY_LIMIT when it was allocated
  late : Bool := false   -- a write permission needed since it was sent (R342)
deriving DecidableEq, Repr

/-- A page that ended unresolved: what a network access that refaults meets (R344). -/
structure BadPage where
  pasid : Nat
  page : Nat
deriving DecidableEq, Repr


/-! ### Fabric (12) -/

/-- A fabric packet (R364). `bay` is the bay that injected it, or the bay owning the ACCEL link it came in on; `transit`
says it was forwarded from a FABRIC link. -/
structure Pkt where
  typ : Nat
  ce : Bool
  tag : Bool
  vc : Nat
  flits : Nat
  pad : Nat
  dst : Nat
  src : Nat
  rank : Nat
  hops : Nat
  nonce : Nat
  body : List Byte
  payload : List Byte
  bay : Nat
  transit : Bool
  inl : Nat                -- link it came in on, 48 for none
  inVc : Nat               -- virtual channel whose input buffer it holds
  mac : List Byte := []    -- TAG, where this W48 has made it
deriving DecidableEq, Repr

/-- A transmitted frame kept until it is acknowledged (R359): its sequence number and the packets it carries. -/
structure TxFrame where
  fseq : Nat
  pkts : List Pkt          -- the packet that ends in it
  flits : List Byte := []  -- its flits; what they leave of 1,024 bytes is IDLE flits
deriving DecidableEq, Repr

/-- One end of a W-link (R358 to R363). The state of R362 is in FAB_PORT_STATE. -/
structure Link where
  txSeq : Nat              -- FSEQ of the next new frame
  acked : Nat              -- last FSEQ the far end acknowledged
  unacked : List TxFrame   -- oldest first, at most 256
  replays : Nat            -- replays in a row without progress
  rxNext : Nat             -- FSEQ expected next
  nakSent : Bool           -- NAK already set for the present gap
  nakDue : Bool := false   -- the next trailer carries NAK
  credit : List Nat        -- per VC, flits the far end has freed since INIT
  used : List Nat          -- per VC, flits sent since INIT
  peerBuf : List Nat       -- per VC, the far end's advertised buffer
  freed : List Nat         -- per VC, flits freed here since INIT
  queue : List Pkt         -- output queue, oldest first
  hello : Option Hello     -- the far end's latest HELLO
  trained : Bool
  deficitT : Int           -- deficit counters of R380: transit and local
  deficitL : Int
  groupOrder : List Nat    -- rotating order of the transit group (0) and the local group (1) for exact ties (R380)
  bayOrder : List Nat      -- rotating order of bays, the one in service first (R380)
  bayLeft : List Nat := 67 :: List.replicate 11 0   -- per bay, the flits its turn still gives it
  vcNext : List Nat        -- per bay, the VC whose turn is next
  sample : Nat × Nat       -- eligible packets counted for R385, received and sent
  quiet : Bool             -- the transmitter is quiet (R481)
  slot : Nat := 0          -- in the first link of a bay: the bay's injection slot, 0 to 15 (R381)
  hold : List Pkt := []    -- in the first link of a bay: its packets that wait for an injection slot
deriving DecidableEq, Repr

/-- A link with nothing in flight. DESIGN CHOICE, log 5. -/
def Link.reset : Link :=
  { txSeq := 0, acked := 4095, unacked := [], replays := 0, rxNext := 0, nakSent := false, credit := List.replicate 8 0,
    used := List.replicate 8 0, peerBuf := List.replicate 8 0, freed := List.replicate 8 0, queue := [],
    hello := none, trained := false, deficitT := 0, deficitL := 0, groupOrder := [0, 1], bayOrder := List.range 12,
    vcNext := List.replicate 12 2, sample := (0, 0), quiet := false }

/-- The fabric beside its registers: links, packets held at ingress (R374, R376), and whether a drain holds. -/
structure Fab where
  links : List Link
  held : List Pkt
  draining : Bool
  sampleSeq : Nat
deriving DecidableEq, Repr

end Sys2Proof.Machine
end

