-- ==== Sys2Proof/Machine/Types2.lean ====
section
/-! DEFINITION. The records of State for the transport, the host rings, Ethernet, security, control and power (09, 10,
13 to 17), and what the W48 sends out. -/

namespace Sys2Proof.Machine

/-! ### Transport (09) -/

/-- Where the local bytes of an entry, a buffer or a read lie (R300, R301, R284). -/
inductive Loc where
  | inline (bytes : List Byte)              -- the payload of an INLINE entry
  | body (cap : Nat)                        -- the body of a receive entry (INLINE)
  | seg (pasid sg off : Nat)
  | host (pasid va : Nat)
deriving DecidableEq, Repr

/-- The receive that a rendezvous read serves (R284): ring and entry, MSG_LEN, tag, the RTS's MSN and SOLICIT flag, and
whether the receive still waits in MSN order (the RTS matched at arrival). -/
structure Rndv where
  ring : Nat
  n : Nat
  msgLen : Nat
  tag : Nat
  msn : Nat
  ordered : Bool
  solicit : Bool := false
deriving DecidableEq, Repr

/-- An operation of a connection's requester side, from its first packet to its completion (R263, R279). `code` is set
when its outcome is known; it completes in MSN order. `part` numbers the response packets received. -/
structure SendOp where
  opc : Nat
  msn : Nat
  psn : Nat
  npsn : Nat
  len : Nat
  loc : Loc
  remote : Nat
  wkey : Nat
  imm : Nat
  operand : Nat
  compare : Nat
  handle : Nat
  entry : Option Nat        -- n of the ring entry it belongs to
  rndv : Option Rndv        -- the rendezvous it reads for (R284)
  solicit : Bool
  got : List Nat            -- response packets placed
  started : Bool            -- its first packet has been sent; MSN and PSN are given then
  done : Bool               -- its completion has been posted
  code : Option Nat
  tail : Bool := false      -- it ends an entry whose earlier operations report their failure through it (`compare`)
deriving DecidableEq, Repr

/-- A request packet sent or to be sent and not yet acknowledged (R273, R275). -/
structure TxPkt where
  psn : Nat
  span : Nat                -- PSNs it occupies
  msn : Nat
  off : Nat
  len : Nat
  first : Bool
  last : Bool
  ackreq : Bool
  solicit : Bool
  sent : Bool               -- transmitted at least once
  due : Bool                -- waits to be transmitted or retransmitted
  marked : Bool             -- delivered (SACK)
  lastTx : Nat              -- time of its last transmission
  retx : Bool               -- it has been retransmitted
  body : List Byte          -- extension header of a packet of a plan connection, else empty
  payload : List Byte       -- payload of a packet of a plan connection, else empty
deriving DecidableEq, Repr

/-- Where the payload of a response comes from when it is sent: bytes at hand, a yard address, host virtual memory. -/
inductive RspSrc where
  | bytes (bs : List Byte)
  | mem (tier a : Nat)
  | host (pasid va : Nat)
deriving DecidableEq, Repr

/-- A response waiting to be sent (READ_RSP and ATOMIC_RSP). Its `len` bytes are read when it leaves. -/
structure RspPkt where
  opc : Nat
  psn : Nat
  msn : Nat
  a : Nat                   -- READ_LEN or ORIGINAL
  off : Nat
  src : RspSrc
  len : Nat
  win : Option Nat          -- the window whose in-flight count falls once it has been read (R348)
  flush : Bool              -- the answer to a FLUSH_READ: waits for every lower PSN (R265)
  ts : Nat := 0             -- TS and arrival of the request, which a NAK in its place echoes (R262)
  rxAt : Nat := 0
deriving DecidableEq, Repr

/-- Where the receive side of a message goes (R264, R283, R284). -/
inductive Sink where
  | none                              -- WRITE, ADDW: placed through a window
  | entry (ring n : Nat)              -- a RECV entry or a matched TRECV
  | slot (list k : Nat)               -- unexpected, in slot k
  | dropped
deriving DecidableEq, Repr

/-- A message being received (R264). `got` lists the offsets of the packets placed; `last` is known with LAST. -/
structure RxMsg where
  msn : Nat
  opc : Nat
  len : Nat
  tag : Nat
  imm : Nat
  solicit : Bool
  sink : Sink
  got : List Nat
  total : Nat               -- packets of the message; 0 while not known
  code : Nat
  ready : Bool              -- a rendezvous waits for its data
  ended : Bool := false     -- a NAK has ended it: the sender sends no more of it (R280)
  back : Option Place := none -- where its last bytes went (R312)
deriving DecidableEq, Repr

/-- A connection (R251 to R257, R270 to R281, R286, R287, R290). Absent from the table: FREE with LAST_INC 0. -/
structure Conn where
  st : Nat
  inc : Nat
  lastInc : Nat
  path : Nat
  window : Nat
  mtu : Nat
  tagged : Bool
  ccOn : Bool
  matchList : Nat
  retry : Nat
  profile : Nat
  rateMax : Nat
  peerAddr : Nat
  peerConn : Nat
  peerIp : Nat
  nextHop : Nat
  vlan : Nat
  ethPort : Nat
  dscp : Nat
  sport : Nat
  srcIp : Nat
  nextPsn : Nat
  una : Nat
  epsn : Nat
  txMsn : Nat
  rxMsn : Nat               -- MSN of the next message to complete
  ops : List SendOp
  pkts : List TxPkt
  rsps : List RspPkt
  marks : List Nat          -- PSNs received beyond EPSN
  msgs : List RxMsg         -- messages not yet complete, in MSN order
  doneMsns : List Nat       -- messages placed whole that wait for an earlier one
  atomics : List (Nat × Nat)  -- PSN and original value of the last 64 atomics
  rnrs : List (Nat × Nat)   -- MSN and PSN of the packets answered RNR and not yet accepted (R281)
  early : List (Nat × Nat × Instr) -- packets whose message's place is not known yet: PSN, MSN, packet (R264, R283)
  back : List Place         -- where the writes since the last FLUSH_READ went (R312)
  ackDue : Nat              -- packets accepted since the last ACK
  ackCount : Nat            -- TRN_ACK_CTRL.COUNT when the coalescing time last started (R291)
  ecn : Nat                 -- marked packets since the last ACK
  tsEcho : Nat
  rxAt : Nat                -- when the packet of `tsEcho` arrived (R262)
  sentTs : List Nat         -- TS of the requests sent, newest first (R276)
  timerOn : Bool            -- an ACK coalescing time runs
  rnrWait : Bool
  retries : Nat
  rnrPsn : Nat
  rnrRetries : Nat
  rto : Nat
  srtt : Nat
  rttvar : Nat
  baseRtt : Nat
  baseSet : Bool            -- a sample has been taken since BASE_RTT was last reset (R276)
  sampled : Bool
  rate : Nat
  lastDec : Nat
  lastIncr : Nat
  errCode : Nat
  gen : Nat                 -- NONCE of R432
  ctr : Nat
  retx : Nat
  dups : Nat
deriving DecidableEq, Repr

/-- A FREE connection that was never connected. DESIGN CHOICE, log 5. -/
def Conn.free : Conn :=
  { st := 0, inc := 0, lastInc := 0, path := 0, window := 16, mtu := 1024, tagged := false, ccOn := false, matchList := 0,
    retry := 0, profile := 0, rateMax := 0, peerAddr := 0, peerConn := 0, peerIp := 0, nextHop := 0, vlan := 0, ethPort := 0,
    dscp := 0, sport := 0, srcIp := 0, nextPsn := 0, una := 0, epsn := 0, txMsn := 0, rxMsn := 0, ops := [], pkts := [],
    rsps := [], marks := [], msgs := [], doneMsns := [], atomics := [], rnrs := [], early := [], back := [], ackDue := 0, ackCount := 8,
    ecn := 0, tsEcho := 0, rxAt := 0, sentTs := [],
    timerOn := false, rnrWait := false, retries := 0, rnrPsn := 0, rnrRetries := 0, rto := 0, srtt := 0, rttvar := 0,
    baseRtt := 0, baseSet := false, sampled := false, rate := 0, lastDec := 0, lastIncr := 0, errCode := 0, gen := 0, ctr := 0, retx := 0,
    dups := 0 }

/-- A posted-receive entry (R283). -/
structure Posted where
  tag : Nat
  mask : Nat
  src : Nat
  ring : Nat
  n : Nat
  loc : Loc
  len : Nat
deriving DecidableEq, Repr

/-- An unexpected message (R283, R284): eager in slot `slot`, or an RTS. -/
structure Unexp where
  conn : Nat
  msn : Nat
  tag : Nat
  len : Nat
  slot : Nat
  rts : Option Nat
  whole : Bool
  solicit : Bool := false
  order : Nat := 0          -- its place in the list's match order
deriving DecidableEq, Repr

/-- A match list (R282). -/
structure MatchList where
  maxPosted : Nat
  pasid : Nat
  sg : Nat
  off : Nat
  len : Nat
  posted : List Posted
  unexp : List Unexp
  next : Nat := 0           -- the next message's place in match order (R283)
deriving DecidableEq, Repr

/-! ### Host rings (10) -/

/-- An entry fetched and not yet completed (R299, R304). -/
structure REntry where
  n : Nat
  bytes : List Byte
  started : Bool
  out : Option (Nat × Nat × Nat × Nat × Nat)   -- CODE, CFLAGS, IMM, BYTES, tag: complete, waiting for its order (R306)
  order : Option Nat := none  -- of a matched TRECV: its message's place in match order
  back : Option Place := none -- of one completed by a WRITE_IMM: where its last bytes went (R312)
deriving DecidableEq, Repr

/-- A send or receive ring of a connection (R298, R299), or a legacy queue (`cq` is its completion queue, R321). -/
structure Half where
  bound : Bool
  addr : Nat
  log : Nat
  big : Bool
  inSeg : Bool
  sg : Nat
  pasid : Nat
  cq : Option Nat
  n : Nat
  written : Nat
  tail : Nat                  -- legacy tail
  live : List REntry
  ahead : List (List Byte)    -- entries of the ring's memory from entry n on, as the last scan found them
  byFetch : Bool              -- the last scan stopped at FETCH (R304)
  pendScan : Bool             -- a doorbell recorded while frozen (R485), or a scan that waits for a page (R343)
  parts : List (List Byte)    -- parts of a 256-byte push received (R307)
  held : Option Nat := none   -- the page of host memory whose translation its fetches hold (R302, R340)
deriving DecidableEq, Repr

/-- An unbound ring. -/
def Half.unbound : Half :=
  { bound := false, addr := 0, log := 4, big := false, inSeg := false, sg := 0, pasid := 0, cq := none, n := 0,
    written := 0, tail := 0, live := [], ahead := [], byFetch := false, pendScan := false, parts := [] }

/-- The pair of rings of a connection. `raw` is the binding (R323, QUERY). -/
structure Ring where
  sq : Half
  rq : Half
  fetch : Nat
  vector : Nat
  irqMode : Nat
  push : Bool
  raw : List Byte
deriving DecidableEq, Repr

/-- A legacy completion queue (R320 to R322). `count` entries have been written since it was created. -/
structure LCq where
  base : Nat
  log : Nat
  vector : Nat
  head : Nat
  count : Nat
deriving DecidableEq, Repr

/-- The administrative queue of a legacy yard (R320). -/
structure LAdm where
  waiting : List (List Byte)   -- entries passed by the tail and not yet taken
  sqTail : Nat := 0
  sqHead : Nat
  cqHead : Nat
  cqCount : Nat
deriving DecidableEq, Repr

/-! ### Ethernet (13) -/

/-- A frame queued at a subport. `bay` 12 is the management flow; `slot` is its transmit slot. -/
structure EthTx where
  bay : Nat
  cls : Nat
  len : Nat
  bytes : List Byte
  weight : Nat               -- ETH_CLS_WEIGHT when it was queued (R410)
  slot : Option Nat
  stamp : Bool
deriving DecidableEq, Repr

/-- A received frame whose bytes still count against a buffer (R397). `yard` is none for the management ring. -/
structure EthRx where
  port : Nat
  bay : Nat
  cls : Nat
  len : Nat
  yard : Option Nat
  conn : Nat                   -- the connection its transport header names
deriving DecidableEq, Repr

/-- A gate control list in force or pending (R404, R405): entries (gate states, interval), cycle, base. -/
structure GateList where
  entries : List (Nat × Nat)
  cycle : Nat
  base : Nat
deriving DecidableEq, Repr

/-- A subport (R391 to R407). Its state bits are in ETH_SUB_STATE. -/
structure SubPort where
  queue : List EthTx
  urgent : List Nat            -- rotating order of level 1
  bayF : List Nat
  bayV : Nat
  bayBase : List (Option Nat)  -- max(V, F) when the bay's head frame became eligible (R399)
  bayOrder : List Nat
  bayNext : List Nat           -- DEV_TIMESTAMP from which each bay may start its next frame under SHARE_STRICT (R401)
  clsF : List (List Nat)
  clsV : List Nat
  clsBase : List (List (Option Nat))  -- the same of a class's head frame
  clsOrder : List (List Nat)
  gates : GateList
  gix : Nat                    -- current entry of the operating list
  gend : Nat                   -- ETH_TIME at which the current entry ends
  pend : Option (GateList × Nat)  -- pending list and the time T at which it takes effect
  peerTw : Nat                 -- the partner's requested receive Tw, 0 before a TLV
deriving DecidableEq, Repr

/-- A subport after reset. DESIGN CHOICE, log 5. -/
def SubPort.reset : SubPort :=
  { queue := [], urgent := 12 :: List.range 12, bayF := List.replicate 12 0, bayV := 0,
    bayBase := List.replicate 12 none, bayOrder := List.range 12, bayNext := List.replicate 12 0, clsBase := List.replicate 12 (List.replicate 7 none),
    clsF := List.replicate 12 (List.replicate 7 0), clsV := List.replicate 12 0,
    clsOrder := List.replicate 12 (List.range 7), gates := { entries := [], cycle := 1000000, base := 0 }, gix := 0,
    gend := 0, pend := none, peerTw := 0 }

/-- Ethernet beside its registers: subports, the shaper tokens (R402) of bay b class c and of the management flow,
and the received frames held. -/
structure Eth where
  subs : List SubPort
  tokens : List (List Int)
  rates : List (List Nat)      -- RATE in force since the last refill (R403)
  mgmtTok : Int
  rx : List EthRx
  rxOn : Bool                  -- the management rings run (R408)
  txOn : Bool
deriving DecidableEq, Repr

/-! ### Security (14) -/

/-- A yard key set (R412, R429). -/
structure KeySet where
  id : List Byte
  jms : List Byte
  mig : List Byte
deriving DecidableEq, Repr

/-- A source entry of a replay table (R433). -/
structure ReplayEnt where
  src : Nat
  high : Nat
  seen : List Nat             -- distances 0 to 64 below `high` that have been accepted
deriving DecidableEq, Repr

/-- An SPDM session (R422). -/
structure Session where
  id : Nat
  tr : Transport
  finished : Bool
deriving DecidableEq, Repr

/-- What one SPDM transport holds: how far version and algorithms are negotiated, the last value an RSA signature
signed (R426), a request that RESPOND_IF_READY may ask for again, and chunks in progress. -/
structure SpdmSt where
  tr : Transport
  stage : Nat                 -- 0 nothing, 1 version, 2 capabilities, 3 algorithms
  lastSig : Option (List Byte)
  ready : Option (Nat × Instr)                   -- token and request
  chunksIn : Option (Nat × Nat × List Byte)     -- handle, next sequence number, bytes so far
  chunksOut : Option (Nat × Nat × List Byte)
deriving DecidableEq, Repr

/-- The security processor and the tack room beside its registers (R411 to R445). -/
structure Sec where
  idKeys : Bool               -- the identity keys are unwrapped
  idMade : Bool               -- the identity key pairs exist (R415)
  idWrap : Bool               -- their wrapping key exists (R418)
  opKeys : List (Option (List Byte × List Byte))
  keyCount : Nat              -- slot-change count
  transCount : Nat            -- transition count
  dbgEntries : Nat            -- FIELD-DEBUG entries
  grants : Nat                -- debug grants since cold reset
  traceOn : Nat               -- targets with a TRACE grant: bit b bay b, bit 12 the device cores (R420)
  haltOn : Nat                -- targets with a HALT grant
  scanOn : Bool               -- a SCAN has been granted: no yard traffic until a cold reset
  sessions : List Session
  nextSession : Nat
  spdm : List SpdmSt
  token : Nat
  spVersion : Nat             -- running firmware security version
  minVersion : Nat
  stagedVersion : Nat         -- security version of the staged image
  spFw : List Byte            -- SHA-384 of the running security-processor firmware
  ccFw : List Byte
  spStaged : Option (List Byte)
  ccStaged : Option (List Byte)
  ideKeys : List (Nat × List Byte)
  cxlKeys : List (Nat × Nat) := []     -- CXL ports and the draws of their IDE keys (R412, R437)
  overKeys : List (Nat × Nat) := []    -- yards in a far overwrite and the draws of their throwaway keys (R412, R441)
  drbgIx : Nat
  busy : Bool                 -- a firmware activation or life-cycle restart is in progress
  wiping : Bool
deriving DecidableEq, Repr

/-! ### Control (15) -/

/-- One direction of a mailbox channel (R452). -/
structure MsgBlk where
  data : List Nat
  len : Nat
  go : Bool
  err : Bool
deriving DecidableEq, Repr

/-- An empty message block. -/
def MsgBlk.reset : MsgBlk := { data := List.replicate 16 0, len := 0, go := false, err := false }

/-- A channel: A to B and B to A. Its binding is in MBX_BIND. -/
structure Chan where
  ab : MsgBlk
  ba : MsgBlk
deriving DecidableEq, Repr

/-- Mailboxes, record RAM, I3C, JTAG and the throttle (R446 to R473, R483, R501, R503). -/
structure Ctl where
  chans : List Chan
  bell : Tab Nat              -- doorbell bits by identity code
  unmask : Tab Nat            -- complement of the mask bits
  vec : Tab Nat               -- interrupt vectors
  msixOpen : Tab Nat          -- MSI-X vectors whose table entry is unmasked, by `mk fn v` (R318)
  msixPend : Tab Nat          -- their pending bits
  msixEnt : Tab Nat           -- address and data words of the MSI-X table entries, by `mk fn v` (R297)
  ram : Tab Nat               -- record RAM, one 32-bit word at each byte offset
  recBusy : List (Nat × Bool) -- words written since the last tick, and whether by port B
  recB : Nat                  -- REC_B_STATUS
  i3cDyn : Tab Nat            -- dynamic addresses by static address
  straps : Nat
  jtagRefused : Bool
  rate16 : Nat                -- issue rate of pans and drovers, in sixteenths
  pend : Option Nat           -- power state being entered
  warm : Bool                 -- a warm reset is in progress
  hostUp : Bool               -- the PCIe link is up
  tripped : Bool              -- THERMTRIP_N is asserted
  txNext : Nat := 0           -- transmit slots of the management ring taken so far, mod 2^32 (R408)
  perst : Bool                -- PERST_N is low
  ucOnce : List Nat           -- units that have been uncorrectable (R332)
  scrub : Nat := 0x1801       -- MEM_SCRUB_CTRL as the current scrub pass took it (R356)
  ethWas : Nat                -- subports that were up when a warm reset took them down (R479)
  i3cOff : Nat := 0           -- offset from which a private read of the register target goes on (R461)
  replies : List (Nat × Nat × List Nat) := []  -- replies that wait for the previous one to be taken: identity, channel, words (R455)
  aerUie : Bool := false      -- Uncorrectable Internal Error in the physical function's AER status (R464)
deriving DecidableEq, Repr

/-! ### The seal service, freeze and save (14, 16) -/

/-- A seal command in progress (R439). -/
structure SealJob where
  result : Nat
  outLen : Nat
  bytes : List Byte           -- what is written at its end
deriving DecidableEq, Repr

/-- A freeze, save or restore (R484 to R490). -/
structure Frz where
  prior : Nat                 -- sequencer state before the freeze
  mode : Nat
  byOp : Bool                 -- the operator requested it (R494)
  stream : List Byte          -- the blob stream: of a save whole, of a restore what its parts have brought so far
deriving DecidableEq, Repr

/-! ### A yard -/

/-- What a yard holds beside its registers and the tables keyed by yard. -/
structure Yard where
  plan : Option Plan
  thrs : List Thr
  running : Bool                      -- an iteration is in progress
  failed : Bool                       -- a step of the iteration has failed (R123)
  batch : Bool := false               -- the command under way makes the first steps of the iteration fail (R123)
  iters : Nat                         -- iterations still to run since START; 0 with `endless` (R122)
  endless : Bool
  wrote : List (Nat × Nat × Nat × Nat)  -- what the laps of undecided ops have written: tier, address, length, communicator (R16)
  recHit : List Nat                   -- bank buffers whose scalar record of this iteration another agent has written (R179)
  lands : List LandBuf
  landReqs : Tab LandReq              -- unanswered LAND packets by ANS_ID
  ansNext : Nat
  setSnap : Option (Nat × Nat × Nat)  -- set in progress: address, count, report address
  loadSnap : Option (Nat × Nat)       -- plan fetch in progress
  winFresh : Nat                      -- window indices never created yet start here
  winFree : List Nat                  -- freed indices, first freed first
  faults : List FaultEnt
  badPages : List BadPage
  inval : List (Nat × Nat × Nat)      -- ATS invalidations being honoured: PASID, page, tag
  ideStream : Option Nat := none      -- the IDE stream of the TDI (R436, R441)
  alloc : Nat := 512                  -- the host's Outstanding Page Request Allocation (R341)
  keys : Option KeySet
  xts : Option Nat                    -- number of the XTS key pair
  replay : List (List ReplayEnt)      -- one table per bay of the yard
  fabGen : List Nat                   -- NONCE of R432 for fabric packets, per bay
  fabCtr : List Nat
  genAdd : Nat                        -- restores have raised the GEN of every connection by this (R434)
  sealGen : List Nat                  -- per KEY
  sealCtr : List Nat
  tdi : Nat                           -- 0 CONFIG_UNLOCKED, 1 CONFIG_LOCKED, 2 RUN, 3 ERROR
  sealJob : Option SealJob
  frz : Option Frz
  rakeFar : Option Bool               -- the choice of a rake's first step 1 (R441)
  drained : Bool                      -- the rake has ended its drain
  resetting : Bool                    -- a yard reset is in progress
  fatal : Bool                        -- R463
  touchSeq : Nat                      -- LAY_SEQ at the last commit that touched the yard
  adm : LAdm
  store : List (Nat × Instr)          -- translation store: bay and waiting packet, oldest first (R346)
  drvOrder : List (List Nat)          -- per drover: the threads whose entries are in service (R217)
  drvSent : List (List Nat) := List.replicate 12 []  -- those of them that have emitted, the one that waits longest first
  drvTie : List (List Nat) := List.replicate 12 (List.range 12)  -- the order that settles ties at each drover (R19, R217)
  kat : Option (List Nat)             -- a draw test in progress, with its result (R89)
  cvt : Option (Nat × Nat)            -- a conversion test in progress: its result and status
  queue : List Instr := []            -- commands that wait for the bay core while it carries out a set (R116, R258)
  sealWait : Option (Bool × Nat × HostSide) := none -- a seal command whose source page is still to come: UNSEAL, KEY
deriving DecidableEq, Repr

/-- A yard that holds nothing. DESIGN CHOICE, log 5. -/
def Yard.empty : Yard :=
  { plan := none, thrs := [], running := false, failed := false, iters := 0, endless := false, wrote := [], recHit := [], lands := [], landReqs := [], ansNext := 0, setSnap := none,
    loadSnap := none, winFresh := 0, winFree := [], faults := [], badPages := [], inval := [], keys := none, xts := none,
    replay := List.replicate 12 [], fabGen := List.replicate 12 0, fabCtr := List.replicate 12 0, genAdd := 0, sealGen := [0, 0],
    sealCtr := [0, 0], tdi := 0, sealJob := none, frz := none, rakeFar := none, drained := false, resetting := false,
    fatal := false, touchSeq := 0, adm := { waiting := [], sqHead := 0, cqHead := 0, cqCount := 0 }, store := [],
    drvOrder := List.replicate 12 [], kat := none, cvt := none }

/-! ### What leaves the W48 -/

/-- A WRT packet as sent (R248, R259, R260, R262): the fields the wire carries, before encryption.
DESIGN CHOICE, log 59. -/
structure WPkt where
  opc : Nat
  flags : Nat
  inc : Nat
  dstConn : Nat
  psn : Nat
  src : Nat
  dst : Nat
  len : Nat
  ts : Nat
  nonce : Nat
  ext : List Byte
  payload : List Byte
deriving DecidableEq, Repr

/-- What the W48 sends out, in the order sent. Function 0 is the physical function, b + 1 the virtual function of bay b.
DESIGN CHOICE, log 60. -/
inductive Out where
  /-- a bus-master read of host memory by host bus address -/
  | hostRead (fn addr len : Nat)
  /-- a bus-master read of host virtual memory under a PASID -/
  | hostVRead (fn pasid addr len : Nat)
  /-- a bus-master write by host bus address; `relaxed` its Relaxed Ordering attribute (R310) -/
  | hostWrite (fn addr : Nat) (bytes : List Byte) (relaxed : Bool := false)
  /-- a write to host virtual memory under a PASID -/
  | hostVWrite (fn pasid addr : Nat) (bytes : List Byte) (relaxed : Bool := false)
  /-- an interrupt message: the address and data words of its table entry -/
  | msix (fn vector entry : Nat)
  /-- completions the host sees on PCIe -/
  | unsupportedRequest (fn : Nat)
  | requestRetry (fn : Nat)
  | configDone (fn : Nat)
  | errFatal
  /-- ATS and page requests: translation request, page request group, invalidate completion -/
  | atsRequest (fn pasid page : Nat)
  | pageRequest (fn : Nat) (group : List (Nat × Nat × Bool))
  | invalidateDone (fn tag : Nat)
  /-- a WRT packet of a connection, handed to its path -/
  | wrt (y conn : Nat) (p : WPkt)
  /-- landing-slot credits returned to a communicator's predecessor (R133) -/
  | lapCredit (y comm n : Nat)
  /-- a packet put on a W-link -/
  | link (l : Nat) (p : Pkt)
  /-- a packet handed to a bay of this W48 -/
  | toBay (b : Nat) (p : Pkt)
  /-- a management packet (kind of R368), and a frame: 1,024 flit bytes and the trailer (R358) -/
  | linkMgmt (l kind : Nat) (bytes : List Byte)
  | frame (l : Nat) (bytes : List Byte)
  | linkTrain (l : Nat)
  /-- an Ethernet frame -/
  | eth (u : Nat) (f : EthTx)
  | ethIdle (u : Nat) (on : Bool)
  | ethUp (u : Nat) (on : Bool)
  /-- the LLDP agent sends its EEE TLV: transmit Tw (R407) -/
  | lldp (u tw : Nat)
  /-- an SPDM response, and a TDISP response -/
  | spdm (tr : Transport) (bytes : List Byte)
  | tdisp (y code : Nat) (bytes : List Byte)
  /-- a mailbox interrupt to an identity that is no PCIe function -/
  | bell (id : Nat)
  /-- an I3C in-band interrupt, a dynamic address accepted -/
  | ibi (bit : Nat)
  | i3cAck (static dynamic : Nat)
  /-- a pin driven: its name and level -/
  | pin (name : String) (high : Bool)
  /-- JTAG: the register connected to TDO, or a refusal in the status register -/
  | tdo (reg : String) (value : Nat)
  /-- a write to SPI flash: the bank or record and the bytes -/
  | flash (what : String) (bytes : List Byte)
  /-- CXL: link keys programmed on port q -/
  | cxlKeys (q : Nat)
deriving DecidableEq, Repr

end Sys2Proof.Machine
end

