-- ==== Sys2Proof/Machine/State.lean ====
section
/-! DEFINITION. The state of the W48: the device (the register file, the storage, the typed state of each unit, what has
been sent out) and the queue of waiting commands; the state after a cold reset; the reasons a step can stop. -/

namespace Sys2Proof.Machine

/-- The device. `regs` is the one home of every register (a place of Regs.lean that is not listed holds 0). The tables
below it are keyed by `yk y i`: yard y (its lowest bay), number i. DESIGN CHOICE, log 2. -/
structure Dev where
  regs : Tab Nat
  latch : Tab Nat            -- parts of split register writes waiting for their commit (R10), by BAR key
  mem : Memory               -- loft, near and far storage, by device address (see tierBase)
  out : List Out             -- what has been sent out, oldest first
  freeIx : Nat               -- the model's own: the next free value to be taken (Config.freeNat)
  lay : Lay
  yards : Tab Yard           -- by lowest bay
  pans : List Pan            -- by logical pan
  comms : Tab Comm
  conns : Tab Conn
  rings : Tab Ring
  lists : Tab MatchList
  ctxs : Tab AddrCtx
  wins : Tab Win
  lcqs : Tab LCq
  fab : Fab
  eth : Eth
  sec : Sec
  ctl : Ctl
deriving DecidableEq, Repr

/-- The state: the device and the commands waiting, first in first out. -/
structure State where
  dev : Dev
  pending : List Instr
deriving DecidableEq, Repr

/-- Reasons for the machine to stop with a fault. There is none: every command of the table has an effect, or finds the
unit in a state in which it has none, and the block goes on. -/
inductive Fault where
deriving DecidableEq, Repr

/-- Reasons for a command to be refused. -/
inductive Refusal where
  /-- raised by Dispatch.lean for a command whose meaning is not written yet; safe: no next state is claimed -/
  | notModelled (mnemonic : String)
deriving DecidableEq, Repr

/-- The key of item `i` of yard `y` in a table of Dev. DESIGN CHOICE, log 2. -/
def yk (y i : Nat) : Nat := y * 2 ^ 32 + i

/-- Registers that are not zero after a cold reset, part 0: key and value, in key order. -/
def resetRegs0 : List (Nat × Nat) :=
  [(0x0, 0x1A10048), (0x10, 0xFFFE), (0x40, 0x3020100), (0x44, 0x7060504), (0x48, 0xB0A0908), (0x4C, 0xF0E0D0C),
   (0x50, 0x13121110), (0x54, 0x17161514), (0x58, 0x1B1A1918), (0x5C, 0x1F1E1D1C), (0x60, 0x23222120),
   (0x64, 0x27262524), (0x68, 0x2B2A2928), (0x6C, 0x2F2E2D2C), (0x80, 0x3020100), (0x84, 0x7060504),
   (0x88, 0xB0A0908), (0x8C, 0xF0E0D0C), (0x90, 0x13121110), (0x94, 0x17161514), (0x98, 0x1B1A1918),
   (0x9C, 0x1F1E1D1C), (0xA0, 0x23222120), (0xA4, 0x27262524), (0xA8, 0x2B2A2928), (0xAC, 0x2F2E2D2C), (0x100, 0x1),
   (0x108, 0x1), (0x110, 0x1), (0x118, 0x1), (0x120, 0x1), (0x128, 0x1), (0x130, 0x1), (0x138, 0x1), (0x140, 0x1),
   (0x148, 0x1), (0x150, 0x1), (0x158, 0x1), (0x160, 0x1), (0x168, 0x1), (0x170, 0x1), (0x10000, 0x10100),
   (0x20000, 0x40001), (0x20004, 0x3), (0x2000C, 0x1), (0x20024, 0x14), (0x2002C, 0x7F), (0x20034, 0x5F),
   (0x4FF04, 0x10001), (0x50000, 0x10D01), (0x50004, 0x22), (0x50048, 0x64), (0x100000, 0x8300001), (0x100010, 0x88),
   (0x100014, 0x10A4080), (0x100140, 0x10), (0x100144, 0x10), (0x100148, 0x10), (0x10014C, 0x10), (0x100150, 0x10),
   (0x100154, 0x10), (0x100158, 0x10), (0x10015C, 0x10), (0x100160, 0x10), (0x100164, 0x10), (0x100168, 0x10),
   (0x10016C, 0x10), (0x200000, 0x8100401), (0x200008, 0x2400), (0x20000C, 0x14), (0x200014, 0xA), (0x200034, 0x3E8),
   (0x200048, 0xB0A), (0x201010, 0xA00), (0x201014, 0xFA0), (0x201028, 0xF4240), (0x201110, 0xA00), (0x201114, 0xFA0),
   (0x201128, 0xF4240), (0x201210, 0xA00), (0x201214, 0xFA0), (0x201228, 0xF4240), (0x201310, 0xA00),
   (0x201314, 0xFA0), (0x201328, 0xF4240), (0x201410, 0xA00), (0x201414, 0xFA0), (0x201428, 0xF4240),
   (0x201510, 0xA00), (0x201514, 0xFA0)]

/-- Registers that are not zero after a cold reset, part 1: key and value, in key order. -/
def resetRegs1 : List (Nat × Nat) :=
  [(0x201528, 0xF4240), (0x201610, 0xA00), (0x201614, 0xFA0), (0x201628, 0xF4240), (0x201710, 0xA00),
   (0x201714, 0xFA0), (0x201728, 0xF4240), (0x201810, 0xA00), (0x201814, 0xFA0), (0x201828, 0xF4240),
   (0x201910, 0xA00), (0x201914, 0xFA0), (0x201928, 0xF4240), (0x201A10, 0xA00), (0x201A14, 0xFA0),
   (0x201A28, 0xF4240), (0x201B10, 0xA00), (0x201B14, 0xFA0), (0x201B28, 0xF4240), (0x201C10, 0xA00),
   (0x201C14, 0xFA0), (0x201C28, 0xF4240), (0x201D10, 0xA00), (0x201D14, 0xFA0), (0x201D28, 0xF4240),
   (0x201E10, 0xA00), (0x201E14, 0xFA0), (0x201E28, 0xF4240), (0x201F10, 0xA00), (0x201F14, 0xFA0),
   (0x201F28, 0xF4240), (0x210000, 0x10), (0x210008, 0x10000), (0x21000C, 0x100), (0x210010, 0x10),
   (0x210018, 0x10000), (0x21001C, 0x100), (0x210020, 0x10), (0x210028, 0x10000), (0x21002C, 0x100), (0x210030, 0x10),
   (0x210038, 0x10000), (0x21003C, 0x100), (0x210040, 0x10), (0x210048, 0x10000), (0x21004C, 0x100), (0x210050, 0x10),
   (0x210058, 0x10000), (0x21005C, 0x100), (0x210060, 0x10), (0x210068, 0x10000), (0x21006C, 0x100), (0x210070, 0x10),
   (0x210074, 0x3E8), (0x210078, 0x10000), (0x21007C, 0x100), (0x210100, 0x10), (0x210108, 0x10000),
   (0x21010C, 0x100), (0x210110, 0x10), (0x210118, 0x10000), (0x21011C, 0x100), (0x210120, 0x10), (0x210128, 0x10000),
   (0x21012C, 0x100), (0x210130, 0x10), (0x210138, 0x10000), (0x21013C, 0x100), (0x210140, 0x10), (0x210148, 0x10000),
   (0x21014C, 0x100), (0x210150, 0x10), (0x210158, 0x10000), (0x21015C, 0x100), (0x210160, 0x10), (0x210168, 0x10000),
   (0x21016C, 0x100), (0x210170, 0x10), (0x210174, 0x3E8), (0x210178, 0x10000), (0x21017C, 0x100), (0x210200, 0x10),
   (0x210208, 0x10000), (0x21020C, 0x100), (0x210210, 0x10), (0x210218, 0x10000), (0x21021C, 0x100), (0x210220, 0x10),
   (0x210228, 0x10000), (0x21022C, 0x100)]

/-- Registers that are not zero after a cold reset, part 2: key and value, in key order. -/
def resetRegs2 : List (Nat × Nat) :=
  [(0x210230, 0x10), (0x210238, 0x10000), (0x21023C, 0x100), (0x210240, 0x10), (0x210248, 0x10000), (0x21024C, 0x100),
   (0x210250, 0x10), (0x210258, 0x10000), (0x21025C, 0x100), (0x210260, 0x10), (0x210268, 0x10000), (0x21026C, 0x100),
   (0x210270, 0x10), (0x210274, 0x3E8), (0x210278, 0x10000), (0x21027C, 0x100), (0x210300, 0x10), (0x210308, 0x10000),
   (0x21030C, 0x100), (0x210310, 0x10), (0x210318, 0x10000), (0x21031C, 0x100), (0x210320, 0x10), (0x210328, 0x10000),
   (0x21032C, 0x100), (0x210330, 0x10), (0x210338, 0x10000), (0x21033C, 0x100), (0x210340, 0x10), (0x210348, 0x10000),
   (0x21034C, 0x100), (0x210350, 0x10), (0x210358, 0x10000), (0x21035C, 0x100), (0x210360, 0x10), (0x210368, 0x10000),
   (0x21036C, 0x100), (0x210370, 0x10), (0x210374, 0x3E8), (0x210378, 0x10000), (0x21037C, 0x100), (0x210400, 0x10),
   (0x210408, 0x10000), (0x21040C, 0x100), (0x210410, 0x10), (0x210418, 0x10000), (0x21041C, 0x100), (0x210420, 0x10),
   (0x210428, 0x10000), (0x21042C, 0x100), (0x210430, 0x10), (0x210438, 0x10000), (0x21043C, 0x100), (0x210440, 0x10),
   (0x210448, 0x10000), (0x21044C, 0x100), (0x210450, 0x10), (0x210458, 0x10000), (0x21045C, 0x100), (0x210460, 0x10),
   (0x210468, 0x10000), (0x21046C, 0x100), (0x210470, 0x10), (0x210474, 0x3E8), (0x210478, 0x10000),
   (0x21047C, 0x100), (0x210500, 0x10), (0x210508, 0x10000), (0x21050C, 0x100), (0x210510, 0x10), (0x210518, 0x10000),
   (0x21051C, 0x100), (0x210520, 0x10), (0x210528, 0x10000), (0x21052C, 0x100), (0x210530, 0x10), (0x210538, 0x10000),
   (0x21053C, 0x100), (0x210540, 0x10), (0x210548, 0x10000), (0x21054C, 0x100), (0x210550, 0x10), (0x210558, 0x10000),
   (0x21055C, 0x100), (0x210560, 0x10), (0x210568, 0x10000), (0x21056C, 0x100), (0x210570, 0x10), (0x210574, 0x3E8),
   (0x210578, 0x10000)]

/-- Registers that are not zero after a cold reset, part 3: key and value, in key order. -/
def resetRegs3 : List (Nat × Nat) :=
  [(0x21057C, 0x100), (0x210600, 0x10), (0x210608, 0x10000), (0x21060C, 0x100), (0x210610, 0x10), (0x210618, 0x10000),
   (0x21061C, 0x100), (0x210620, 0x10), (0x210628, 0x10000), (0x21062C, 0x100), (0x210630, 0x10), (0x210638, 0x10000),
   (0x21063C, 0x100), (0x210640, 0x10), (0x210648, 0x10000), (0x21064C, 0x100), (0x210650, 0x10), (0x210658, 0x10000),
   (0x21065C, 0x100), (0x210660, 0x10), (0x210668, 0x10000), (0x21066C, 0x100), (0x210670, 0x10), (0x210674, 0x3E8),
   (0x210678, 0x10000), (0x21067C, 0x100), (0x210700, 0x10), (0x210708, 0x10000), (0x21070C, 0x100), (0x210710, 0x10),
   (0x210718, 0x10000), (0x21071C, 0x100), (0x210720, 0x10), (0x210728, 0x10000), (0x21072C, 0x100), (0x210730, 0x10),
   (0x210738, 0x10000), (0x21073C, 0x100), (0x210740, 0x10), (0x210748, 0x10000), (0x21074C, 0x100), (0x210750, 0x10),
   (0x210758, 0x10000), (0x21075C, 0x100), (0x210760, 0x10), (0x210768, 0x10000), (0x21076C, 0x100), (0x210770, 0x10),
   (0x210774, 0x3E8), (0x210778, 0x10000), (0x21077C, 0x100), (0x210800, 0x10), (0x210808, 0x10000),
   (0x21080C, 0x100), (0x210810, 0x10), (0x210818, 0x10000), (0x21081C, 0x100), (0x210820, 0x10), (0x210828, 0x10000),
   (0x21082C, 0x100), (0x210830, 0x10), (0x210838, 0x10000), (0x21083C, 0x100), (0x210840, 0x10), (0x210848, 0x10000),
   (0x21084C, 0x100), (0x210850, 0x10), (0x210858, 0x10000), (0x21085C, 0x100), (0x210860, 0x10), (0x210868, 0x10000),
   (0x21086C, 0x100), (0x210870, 0x10), (0x210874, 0x3E8), (0x210878, 0x10000), (0x21087C, 0x100), (0x210900, 0x10),
   (0x210908, 0x10000), (0x21090C, 0x100), (0x210910, 0x10), (0x210918, 0x10000), (0x21091C, 0x100), (0x210920, 0x10),
   (0x210928, 0x10000), (0x21092C, 0x100), (0x210930, 0x10), (0x210938, 0x10000), (0x21093C, 0x100), (0x210940, 0x10),
   (0x210948, 0x10000)]

/-- Registers that are not zero after a cold reset, part 4: key and value, in key order. -/
def resetRegs4 : List (Nat × Nat) :=
  [(0x21094C, 0x100), (0x210950, 0x10), (0x210958, 0x10000), (0x21095C, 0x100), (0x210960, 0x10), (0x210968, 0x10000),
   (0x21096C, 0x100), (0x210970, 0x10), (0x210974, 0x3E8), (0x210978, 0x10000), (0x21097C, 0x100), (0x210A00, 0x10),
   (0x210A08, 0x10000), (0x210A0C, 0x100), (0x210A10, 0x10), (0x210A18, 0x10000), (0x210A1C, 0x100), (0x210A20, 0x10),
   (0x210A28, 0x10000), (0x210A2C, 0x100), (0x210A30, 0x10), (0x210A38, 0x10000), (0x210A3C, 0x100), (0x210A40, 0x10),
   (0x210A48, 0x10000), (0x210A4C, 0x100), (0x210A50, 0x10), (0x210A58, 0x10000), (0x210A5C, 0x100), (0x210A60, 0x10),
   (0x210A68, 0x10000), (0x210A6C, 0x100), (0x210A70, 0x10), (0x210A74, 0x3E8), (0x210A78, 0x10000),
   (0x210A7C, 0x100), (0x210B00, 0x10), (0x210B08, 0x10000), (0x210B0C, 0x100), (0x210B10, 0x10), (0x210B18, 0x10000),
   (0x210B1C, 0x100), (0x210B20, 0x10), (0x210B28, 0x10000), (0x210B2C, 0x100), (0x210B30, 0x10), (0x210B38, 0x10000),
   (0x210B3C, 0x100), (0x210B40, 0x10), (0x210B48, 0x10000), (0x210B4C, 0x100), (0x210B50, 0x10), (0x210B58, 0x10000),
   (0x210B5C, 0x100), (0x210B60, 0x10), (0x210B68, 0x10000), (0x210B6C, 0x100), (0x210B70, 0x10), (0x210B74, 0x3E8),
   (0x210B78, 0x10000), (0x210B7C, 0x100), (0x300000, 0x181001), (0x30000C, 0x1801), (0x300100, 0x1), (0x300108, 0x1),
   (0x300110, 0x1), (0x300118, 0x1), (0x300120, 0x1), (0x300128, 0x1), (0x300130, 0x1), (0x300138, 0x1),
   (0x300140, 0x1), (0x300148, 0x1), (0x300150, 0x1), (0x300158, 0x1), (0x300160, 0x1), (0x300168, 0x1),
   (0x300170, 0x1), (0x300178, 0x1), (0x300180, 0x1), (0x300188, 0x1), (0x300190, 0x1), (0x300198, 0x1),
   (0x3001A0, 0x1), (0x3001A8, 0x1), (0x3001B0, 0x1), (0x3001B8, 0x1), (0x400000, 0x4001), (0x400010, 0xC)]

/-- Every register that is not zero once READY is set after a cold reset (R33, R476 and the Reset columns).
DESIGN CHOICE, log 5; DESIGN CHOICE, log 6. -/
def resetRegs : Tab Nat := resetRegs0 ++ resetRegs1 ++ resetRegs2 ++ resetRegs3 ++ resetRegs4

/-- The layout store after a cold reset (R33). -/
def Lay.reset : Lay :=
  { asked := 0, staged := [], fetchErr := false, commitAfter := false, discarding := false, cur := Layout.none, active := [],
    shadow := [], groups := [], setSnap := none }

/-- The fabric after a cold reset: every link held in training reset (R33). -/
def Fab.reset : Fab := { links := List.replicate 48 Link.reset, held := [], draining := false, sampleSeq := 0 }

/-- The Ethernet ports after a cold reset (R33). Every shaper starts empty (R402 states no first value). -/
def Eth.reset : Eth :=
  { subs := List.replicate 16 SubPort.reset, tokens := List.replicate 12 (List.replicate 8 0),
    rates := List.replicate 12 (List.replicate 7 0 ++ [1000]), mgmtTok := 0, rx := [],
    rxOn := false, txOn := false }

/-- The security processor once it serves requests (R411, R476). The fuses and the flash of the modelled device: life
cycle FIELD, identity keys made, no operator key, no tamper event (named in the assumption log).
DESIGN CHOICE, log 6. -/
def Sec.reset : Sec :=
  { idKeys := true, idMade := true, idWrap := true, opKeys := [none, none, none, none], keyCount := 0, transCount := 0,
    dbgEntries := 0, grants := 0, traceOn := 0, haltOn := 0, scanOn := false, sessions := [], nextSession := 1, spdm := [], token := 0, spVersion := 1,
    minVersion := 0, stagedVersion := 0, spFw := Config.bootDigest 0, ccFw := Config.bootDigest 1, spStaged := none, ccStaged := none,
    ideKeys := [], drbgIx := 0, busy := false, wiping := false }

/-- The control section after a cold reset: channels unbound and empty, every bell masked (R471), the PCIe link up.
DESIGN CHOICE, log 6. -/
def Ctl.reset : Ctl :=
  { chans := List.replicate 16 { ab := MsgBlk.reset, ba := MsgBlk.reset }, bell := [], unmask := [], vec := [], msixOpen := [], msixPend := [], msixEnt := [],
    ram := [(0xF004, 1), (0xF024, 0xFFFE), (0xF028, 0x22)], recBusy := [], recB := 0, i3cDyn := [], straps := 0, jtagRefused := false,
    rate16 := 16, pend := none, warm := false, hostUp := true, tripped := false, perst := false, ucOnce := [], ethWas := 0 }

/-- The device after a cold reset, with READY set. DESIGN CHOICE, log 4; DESIGN CHOICE, log 5. -/
def Dev.reset : Dev :=
  { regs := resetRegs, latch := [], mem := { cells := [], opened := [], veils := [], uc := [] }, out := [], freeIx := 0, lay := Lay.reset,
    yards := [], pans := List.replicate 48 Pan.reset, comms := [], conns := [], rings := [], lists := [], ctxs := [],
    wins := [], lcqs := [], fab := Fab.reset, eth := Eth.reset, sec := Sec.reset, ctl := Ctl.reset }

/-- The machine right after reset: no command waits. DEDUCED, log 7. -/
def State.reset : State := { dev := Dev.reset, pending := [] }

end Sys2Proof.Machine
end

