-- ==== Sys2Proof/Machine/Ops.lean ====
section
/-! DEFINITION. The primitive updates of the device, the monad in which every meaning is written, and the named
operations that the meanings share: registers, layout lookups, interrupts, memory, address contexts, keys. -/

namespace Sys2Proof.Machine

/-- The primitive updates. Everything a command does to the device is a list of these. -/
inductive Act where
  | reg (k v : Nat)
  | latch (k v : Nat)
  | dropRegs (lo hi : Nat)
  | poke (a : Nat) (bytes : List Byte)
  | under (a : Nat) (bytes : List Byte)
  | veil (lo len : Nat)
  | unveil (lo len : Nat)
  | clear (lo len : Nat)
  | spoil (lo len : Nat)
  | uc (us : List Nat)
  | out (o : Out)
  | free
  | lay (v : Lay)
  | yard (y : Nat) (v : Yard)
  | pan (i : Nat) (v : Pan)
  | comm (k : Nat) (v : Option Comm)
  | conn (k : Nat) (v : Option Conn)
  | ring (k : Nat) (v : Option Ring)
  | list (k : Nat) (v : Option MatchList)
  | ctx (k : Nat) (v : Option AddrCtx)
  | win (k : Nat) (v : Option Win)
  | lcq (k : Nat) (v : Option LCq)
  | link (l : Nat) (v : Link)
  | fab (held : List Pkt) (draining : Bool) (sampleSeq : Nat)
  | sub (u : Nat) (v : SubPort)
  | eth (tokens : List (List Int)) (rates : List (List Nat)) (mgmtTok : Int) (rx : List EthRx) (rxOn txOn : Bool)
  | sec (v : Sec)
  | ctl (v : Ctl)
  | cold (v : Sec)

/-- Put or remove an entry of a table. -/
def putOpt {α : Type} (t : Tab α) (k : Nat) (v : Option α) : Tab α :=
  match v with
  | some x => Tab.put t k x
  | none => Tab.del t k

/-- The effect of one primitive update. A register never holds more than 128 bits (R10); the memory, the tables and
the register file keep their canonical forms; `out` only grows. -/
def applyAct (d : Dev) : Act → Dev
  | .reg k v => { d with regs := Tab.setNum d.regs k (v % 2 ^ 128) }
  | .latch k v => { d with latch := Tab.setNum d.latch k v }
  | .dropRegs lo hi => { d with regs := Tab.keep d.regs (fun k _ => !(decide (lo ≤ k) && decide (k < hi))),
                                latch := Tab.keep d.latch (fun k _ => !(decide (lo ≤ k) && decide (k < hi))) }
  | .poke a bytes => { d with mem := d.mem.write a bytes }
  | .under a bytes => { d with mem := d.mem.under a bytes }
  | .veil lo len => { d with mem := d.mem.veil lo len d.freeIx, freeIx := d.freeIx + 1 }
  | .unveil lo len => { d with mem := d.mem.unveil lo len }
  | .clear lo len => { d with mem := d.mem.clear lo len }
  | .spoil lo len => { d with mem := d.mem.spoil lo len d.freeIx, freeIx := d.freeIx + 1 }
  | .uc us => { d with mem := { d.mem with uc := us } }
  | .out o => { d with out := d.out ++ [o] }
  | .free => { d with freeIx := d.freeIx + 1 }
  | .lay v => { d with lay := v }
  | .yard y v => { d with yards := Tab.put d.yards y v }
  | .pan i v => { d with pans := d.pans.set i v }
  | .comm k v => { d with comms := putOpt d.comms k v }
  | .conn k v => { d with conns := putOpt d.conns k v }
  | .ring k v => { d with rings := putOpt d.rings k v }
  | .list k v => { d with lists := putOpt d.lists k v }
  | .ctx k v => { d with ctxs := putOpt d.ctxs k v }
  | .win k v => { d with wins := putOpt d.wins k v }
  | .lcq k v => { d with lcqs := putOpt d.lcqs k v }
  | .link l v => { d with fab := { d.fab with links := d.fab.links.set l v } }
  | .fab h dr q => { d with fab := { d.fab with held := h, draining := dr, sampleSeq := q } }
  | .sub u v => { d with eth := { d.eth with subs := d.eth.subs.set u v } }
  | .eth t q m rx ro tn => { d with eth := { d.eth with tokens := t, rates := q, mgmtTok := m, rx := rx, rxOn := ro, txOn := tn } }
  | .sec v => { d with sec := v }
  | .ctl v => { d with ctl := v }
  | .cold v => { Dev.reset with sec := v, out := d.out, freeIx := d.freeIx }

/-- `d` is what a list of primitive updates makes of `d0`. -/
def Steps (d0 d : Dev) : Prop := ∃ as : List Act, d = as.foldl applyAct d0

/-- No update. -/
theorem Steps.refl (d0 : Dev) : Steps d0 d0 := ⟨[], rfl⟩

/-- One update more. -/
theorem Steps.act {d0 d : Dev} (h : Steps d0 d) (a : Act) : Steps d0 (applyAct d a) := by
  obtain ⟨as, rfl⟩ := h
  exact ⟨as ++ [a], by simp⟩

/-- The monad of the meanings: a device that primitive updates have made of `d0`. -/
abbrev M (d0 : Dev) := StateM { d : Dev // Steps d0 d }

variable {d0 : Dev}

/-- The device as it stands. -/
def dev : M d0 Dev := fun s => (s.val, s)

/-- One primitive update. -/
def act (a : Act) : M d0 Unit := fun s => ((), ⟨applyAct s.val a, s.property.act a⟩)

/-- Run a meaning: it always answers a next state, and leaves the queue alone. -/
def perform (s : State) (m : M s.dev Unit) : Host.Outcome State Fault Refusal :=
  .next { s with dev := (m ⟨s.dev, Steps.refl s.dev⟩).2.val }

/-- Do `f` for each element in order. -/
def each {α : Type} : List α → (α → M d0 Unit) → M d0 Unit
  | [], _ => pure ()
  | x :: xs, f => do f x; each xs f

/-- Do `f` for each element in order until it answers true. -/
def eachUntil {α : Type} : List α → (α → M d0 Bool) → M d0 Unit
  | [], _ => pure ()
  | x :: xs, f => do if ← f x then pure () else eachUntil xs f

/-- Do `f` up to `n` times, until it answers false. -/
def upTo : Nat → M d0 Bool → M d0 Unit
  | 0, _ => pure ()
  | n + 1, f => do if ← f then upTo n f else pure ()

/-- The answers of `f` on each element. -/
def gather {α β : Type} : List α → (α → M d0 β) → M d0 (List β)
  | [], _ => pure []
  | x :: xs, f => do
    let y ← f x
    let ys ← gather xs f
    pure (y :: ys)

/-! ### Registers -/

/-- The value of a field. -/
def Dev.fld (d : Dev) (f : Fld) : Nat := bits (Tab.num d.regs f.key) f.lsb f.w

/-- Whether a field is not 0. -/
def Dev.on (d : Dev) (f : Fld) : Bool := d.fld f != 0

/-- Read a field. -/
def rd (f : Fld) : M d0 Nat := do return (← dev).fld f

/-- Write a field; the register's other bits stay. -/
def wr (f : Fld) (v : Nat) : M d0 Unit := do
  act (.reg f.key (putBits (Tab.num (← dev).regs f.key) f.lsb f.w v))

/-- Add to a counter, modulo its width. -/
def bump (f : Fld) (n : Nat) : M d0 Unit := do wr f ((← rd f) + n)

/-- Subtract from a counter, not below 0. -/
def drop (f : Fld) (n : Nat) : M d0 Unit := do wr f ((← rd f) - n)

/-- Add to a counter that saturates at its largest value. -/
def bumpSat (f : Fld) : M d0 Unit := do
  let v ← rd f
  if v + 1 < 2 ^ f.w then wr f (v + 1) else pure ()

/-- OR bits into a register. -/
def orBits (f : Fld) (v : Nat) : M d0 Unit := do wr f (Nat.lor (← rd f) v)

/-- Put something out. -/
def emit (o : Out) : M d0 Unit := act (.out o)

/-- A fresh free value. DESIGN CHOICE, log 3. -/
def fresh : M d0 Nat := do
  let i := (← dev).freeIx
  act .free
  return Config.freeNat i

/-- A fresh free choice. DESIGN CHOICE, log 3. -/
def freshBool : M d0 Bool := do
  let i := (← dev).freeIx
  act .free
  return Config.freeBool i

/-! ### The layout -/

/-- Bays of each yard of the committed layout; 0 before the first commit. -/
def Dev.yardBays (d : Dev) : Nat := if d.lay.cur.n = 0 then 0 else 12 / d.lay.cur.n

/-- The lowest bay of the yard that holds bay `b` (R28). -/
def Dev.lowest (d : Dev) (b : Nat) : Nat := b / max 1 d.yardBays * max 1 d.yardBays

/-- Whether `y` names an enabled yard of the committed layout (R28). -/
def Dev.isYard (d : Dev) (y : Nat) : Bool :=
  d.yardBays != 0 && decide (y < 12) && y % d.yardBays == 0 && bit d.lay.cur.enable (y / d.yardBays)

/-- Bays of yard `y`, ascending; none when it is not enabled. -/
def Dev.baysOf (d : Dev) (y : Nat) : List Nat := if d.isYard y then (List.range d.yardBays).map (fun i => y + i) else []

/-- The enabled yards, ascending. -/
def Dev.yardList (d : Dev) : List Nat := (List.range 12).filter d.isYard

/-- The enabled yard that holds bay `b`. -/
def Dev.yardOf (d : Dev) (b : Nat) : Option Nat := if d.isYard (d.lowest b) then some (d.lowest b) else none

/-- Whether yard `y` is confidential (R35). -/
def Dev.conf (d : Dev) (y : Nat) : Bool := d.isYard y && bit d.lay.cur.conf (y / d.yardBays)

/-- State of bay `b` (R32): 0 UNASSIGNED, 1 ASSIGNED, 2 RAKING, 3 RAKED. -/
def Dev.bayState (d : Dev) (b : Nat) : Nat := d.fld (R.LAY_BAY_STATE.sub (2 * b) 2)

/-- Function state of bay `b` (R293): 0 ABSENT, 1 IDLE, 2 ENABLED, 3 DRAINING, 4 PENDING. -/
def Dev.fnState (d : Dev) (b : Nat) : Nat := d.fld (R.BAY_FN_STATE_STATE b)

/-- Whether the function of yard `y` is present (R292). -/
def Dev.present (d : Dev) (y : Nat) : Bool := d.isYard y && d.fnState y == 2

/-- Whether yard `y` is host-lost (R315). -/
def Dev.hostLost (d : Dev) (y : Nat) : Bool := d.on (R.BAY_FN_STATE_HOST_LOST y)

/-- Fabric address of bay `b`. -/
def Dev.addrOf (d : Dev) (b : Nat) : Nat := d.lay.cur.addr.getD b 0xFFFF

/-- The bay with fabric address `a`. -/
def Dev.bayAt (d : Dev) (a : Nat) : Option Nat := (List.range 12).find? (fun b => d.addrOf b == a && a != 0xFFFF)

/-- The record of a yard. -/
def Dev.yard (d : Dev) (y : Nat) : Yard := Tab.get d.yards y Yard.empty

/-- Whether yard `y` is frozen, saving or restoring (R485, R495). -/
def Dev.frozen (d : Dev) (y : Nat) : Bool := decide (2 ≤ d.fld (R.YRD_FRZ_STATUS_STATE y))

/-- Whether the engines of yard `y` run: assigned, not frozen, not being reset, not raking (R441, R480, R485). -/
def Dev.live (d : Dev) (y : Nat) : Bool :=
  d.present y && !d.frozen y && !(d.yard y).resetting && !d.ctl.warm && !d.sec.scanOn && !d.ctl.tripped

/-- Whether bay `b` takes packets: it is ASSIGNED, its yard has had no yard-fatal error, and no SCAN has been granted (R378, R420, R463). -/
def Dev.takes (d : Dev) (b : Nat) : Bool := d.bayState b == 1 && !(d.yard (d.lowest b)).fatal && !d.sec.scanOn

/-- Change the record of a yard. -/
def modYard (y : Nat) (f : Yard → Yard) : M d0 Unit := do act (.yard y (f ((← dev).yard y)))

/-- Change the control section. -/
def modCtl (f : Ctl → Ctl) : M d0 Unit := do act (.ctl (f (← dev).ctl))

/-- Change the security processor. -/
def modSec (f : Sec → Sec) : M d0 Unit := do act (.sec (f (← dev).sec))

/-- Change the layout store. -/
def modLay (f : Lay → Lay) : M d0 Unit := do act (.lay (f (← dev).lay))

/-- A logical pan. -/
def Dev.pan (d : Dev) (i : Nat) : Pan := d.pans.getD i Pan.reset

/-- A connection. -/
def Dev.conn (d : Dev) (y n : Nat) : Conn := Tab.get d.conns (yk y n) Conn.free

/-- Change a connection. -/
def modConn (y n : Nat) (f : Conn → Conn) : M d0 Unit := do act (.conn (yk y n) (some (f ((← dev).conn y n))))

/-- Connections of a yard (R251). -/
def Dev.connCount (d : Dev) (y : Nat) : Nat := 6144 * (d.baysOf y).length

/-- Timestamp of R470, ns since cold reset. -/
def Dev.now (d : Dev) : Nat := d.fld R.DEV_TIMESTAMP

/-! ### Interrupts and host traffic -/

/-- The key of MSI-X vector `v` of function `fn`. -/
def mk (fn v : Nat) : Nat := fn * 4096 + v

/-- The raw offset in a near device of data block `m`, and that of its 8 check bytes: groups of 8,192 bytes hold 31 blocks,
their check bytes and 8 bytes that are not used (R327). -/
def nearData (m : Nat) : Nat := m / 31 * 8192 + 256 * (m % 31)
def nearCheck (m : Nat) : Nat := m / 31 * 8192 + 7936 + 8 * (m % 31)

/-- Whether the W48 may issue bus-master requests and interrupts for yard `y` (R296, R315, R420, R436). -/
def Dev.canMaster (d : Dev) (y : Nat) : Bool :=
  d.present y && !d.hostLost y && d.ctl.hostUp && !d.sec.scanOn && (!d.conf y || ((d.yard y).tdi == 2 && !d.sec.ideKeys.isEmpty))

/-- Raise vector `v` of function `fn`: a message, or the pending bit while the entry is masked (R318).
PRESUMED, log 8. -/
def irqFn (fn v : Nat) : M d0 Unit := do
  let c := (← dev).ctl
  if Tab.num c.msixOpen (mk fn v) != 0 then emit (.msix fn v (Tab.num c.msixEnt (mk fn v)))
  else act (.ctl { c with msixPend := Tab.setNum c.msixPend (mk fn v) 1 })

/-- Raise a vector of the physical function when its enable is set. -/
def irqPf (en vec : Fld) : M d0 Unit := do
  let d ← dev
  if d.on en then irqFn 0 (d.fld vec) else pure ()

/-- Raise vector `v` of yard `y` (R296: none for a yard that is not present). -/
def irqYard (y v : Nat) : M d0 Unit := do
  if (← dev).canMaster y then irqFn (y + 1) v else pure ()

/-- Write data to host virtual memory for yard `y`: with Relaxed Ordering only when RO_DATA is 1 (R310).
DESIGN CHOICE, log 60. -/
def hostWr (y pasid va : Nat) (bytes : List Byte) : M d0 Unit := do
  let d ← dev
  if d.canMaster y && !bytes.isEmpty then emit (.hostVWrite (y + 1) pasid va bytes (bit (d.fld (R.YRD_HOST_CTRL y)) 0)) else pure ()

/-- Write a completion to host virtual memory for yard `y`: Relaxed Ordering clear (R310). -/
def hostPost (y pasid va : Nat) (bytes : List Byte) : M d0 Unit := do
  if (← dev).canMaster y && !bytes.isEmpty then emit (.hostVWrite (y + 1) pasid va bytes) else pure ()

/-- Write to a host bus address for yard `y`. -/
def hostBus (y a : Nat) (bytes : List Byte) : M d0 Unit := do
  if (← dev).canMaster y && !bytes.isEmpty then emit (.hostWrite (y + 1) a bytes) else pure ()

/-- The descriptor a yard command reads at `a`: what the host holds there, or none when it cannot be read.
DESIGN CHOICE, log 60. -/
def fetchDesc (y a len : Nat) (desc : Option (List Byte)) : M d0 (Option (List Byte)) := do
  if (← dev).canMaster y then
    emit (.hostRead (y + 1) a len)
    return desc
  else return none

/-! ### Storage (R325 to R331) -/

/-- Loft and near bytes per bay. -/
def loftBay : Nat := 33554432
def nearBay : Nat := 8321499136

/-- Private scratch of a control core (R446), and where the storage holds that of core `c`: 0 to 11 the bay cores, 12 and 13 the
device cores. No agent but the core reads or writes it; the spec states of its contents only that the rake overwrites them. -/
def scratchBytes : Nat := 262144
def scratchAt (c : Nat) : Nat := 2 ^ 60 + c * scratchBytes

/-- Capacity per bay of a tier: 0 loft, 1 near, 2 far (R325). -/
def Dev.perBay (d : Dev) (tier : Nat) : Nat :=
  match tier with
  | 0 => loftBay
  | 1 => nearBay
  | _ => d.lay.cur.share * 2 ^ 30

/-- Capacity of a tier for yard `y`. -/
def Dev.capacity (d : Dev) (y tier : Nat) : Nat := d.perBay tier * (d.baysOf y).length

/-- Where each tier stands in the device's storage. -/
def tierBase (tier : Nat) : Nat :=
  match tier with
  | 0 => 0
  | 1 => 2 ^ 40
  | _ => 2 ^ 44

/-- Storage address of yard address `a` of a tier of yard `y`: the yards' ranges follow one another by lowest bay. -/
def Dev.addr (d : Dev) (y tier a : Nat) : Nat := tierBase tier + y * d.perBay tier + a

/-- The check unit of a tier (R330). -/
def unitOf (tier : Nat) : Nat := if tier = 1 then 256 else 64

/-- Enabled CXL ports, ascending (R326). -/
def Dev.farPorts (d : Dev) : List Nat := (List.range 16).filter (fun q => bit d.lay.cur.portMask q)

/-- Far granule in bytes (R35). -/
def Dev.granule (d : Dev) : Nat := 256 * 4 ^ d.lay.cur.granule

/-- The port that holds a far yard address, and its device physical address (R325, R326). -/
def Dev.farPlace (d : Dev) (y a : Nat) : Nat × Nat :=
  let G := d.granule
  let k := y * d.perBay 2 / G + a / G
  let ps := d.farPorts
  let P := max 1 ps.length
  (ps.getD (k % P) 0, k / P * G + a % G)

/-- The unit (loft bay, near device or far port) and the raw offset of a yard address (R325 to R327). -/
def Dev.place (d : Dev) (y tier a : Nat) : Nat × Nat :=
  let n := max 1 (d.baysOf y).length
  match tier with
  | 0 =>
    let j := a / 512
    (y + j % n, j / n * 512 + a % 512)
  | 1 =>
    let j := a / 256
    let D := 2 * n
    let m := j / D
    (2 * y + j % D, nearData m + a % 256)
  | _ => d.farPlace y a

/-- The bay that owns a yard address (MEM_UC_LOG.BAY). -/
def Dev.ownerBay (d : Dev) (y tier a : Nat) : Nat :=
  match tier with
  | 0 => (d.place y 0 a).1
  | 1 => (d.place y 1 a).1 / 2
  | _ => y + a / max 1 (d.perBay 2)

/-- Whether the port of a far address has lost its link (R334). -/
def Dev.farDown (d : Dev) (y a : Nat) : Bool := !d.on (R.MEM_FAR_PORT_LINK_UP (d.farPlace y a).1)

/-- The check units that `[a, a + len)` of a tier meets, by the yard address of their first byte. -/
def unitsIn (tier a len : Nat) : List Nat :=
  let u := unitOf tier
  if len = 0 then [] else (List.range ((a + len - 1) / u + 1 - a / u)).map (fun i => (a / u + i) * u)

/-- The first unit of a range that cannot be read: marked uncorrectable (R329), or on a port that is down (R334). The
ports of a far range are looked at granule by granule. -/
def Dev.badUnit (d : Dev) (y tier a len : Nat) : Option Nat :=
  let marked := d.mem.uc.find? (fun s =>
    decide (d.addr y tier (a / unitOf tier * unitOf tier) ≤ s) && decide (s < d.addr y tier (a + len)))
  match marked with
  | some s => some (s - d.addr y tier 0)
  | none =>
    if tier = 2 ∧ d.farPorts.any (fun q => !d.on (R.MEM_FAR_PORT_LINK_UP q)) ∧ len ≠ 0 then
      let G := d.granule
      let gs := (List.range (min d.farPorts.length ((a + len - 1) / G + 1 - a / G))).map (fun i => a / G + i)
      (gs.find? (fun g => d.farDown y (g * G))).map (fun g => max a (g * G) / 64 * 64)
    else none

/-- Record an uncorrectable unit in the XLT and MEM blocks and raise their interrupts (R331). -/
def logUc (y tier a : Nat) : M d0 Unit := do
  wr (R.XLT_ERR_ADDR y) a
  wr (R.XLT_ERR_INFO_TIER y) tier
  wr (R.XLT_ERR_INFO_UC y) 1
  bump (R.XLT_UC_COUNT y) 1
  let d ← dev
  if d.on ((R.XLT_IRQ y).sub 2 1) then irqYard y (d.fld ((R.XLT_IRQ y).sub 16 11)) else pure ()
  if tier < 3 then
    let p := d.place y tier a
    bump R.MEM_UC_COUNT 1
    wr R.MEM_UC_LOG (tier + 4 * p.1 + 2 ^ 8 * d.ownerBay y tier a)
    wr R.MEM_UC_OFFSET p.2
    wr R.MEM_STATUS_UC 1
    irqPf (R.MEM_IRQ.sub 0 1) (R.MEM_IRQ.sub 16 6)
  else pure ()

/-- The check unit that holds yard address `a` turns out uncorrectable (R329). One that fails again after it was rewritten
whole reports its device or port FAILED (R332). -/
def markUc (y tier a : Nat) : M d0 Unit := do
  let d ← dev
  let u := d.addr y tier (a / unitOf tier * unitOf tier)
  if d.ctl.ucOnce.contains u && !d.mem.uc.contains u then
    match tier with
    | 1 => wr (R.MEM_NEAR_DEV_FAILED (d.place y 1 a).1) 1
    | 2 => wr (R.MEM_FAR_PORT_FAILED (d.place y 2 a).1) 1
    | _ => pure ()
  else pure ()
  act (.uc (if d.mem.uc.contains u then d.mem.uc else u :: d.mem.uc))
  modCtl (fun c => { c with ucOnce := if c.ucOnce.contains u then c.ucOnce else u :: c.ucOnce })

/-- Read `len` bytes of a tier of yard `y`; none when a unit cannot be corrected, which is then logged (R329, R331). -/
def readMem (y tier a len : Nat) : M d0 (Option (List Byte)) := do
  let d ← dev
  match d.badUnit y tier a len with
  | some u => logUc y tier u; return none
  | none => return some (d.mem.read (d.addr y tier a) len)

/-- Write bytes to a tier of yard `y`, part of an operation that writes all of `[lo, hi)`: a unit that this range covers is
never read (R330, R332). `beneath` says that a veil over the bytes stays (R16). False when a partly covered unit cannot be
corrected: then nothing changes (R330); or when a far port is down: then the bytes are unspecified (R334).
DEDUCED, log 14. -/
def putMem (beneath : Bool) (y tier a lo hi : Nat) (bytes : List Byte) : M d0 Bool := do
  let d ← dev
  let len := bytes.length
  if len = 0 then return true
  let u := unitOf tier
  let meets (s : Nat) : Bool := decide (d.addr y tier (a / u * u) ≤ s) && decide (s < d.addr y tier (a + len))
  let whole (s : Nat) : Bool := decide (d.addr y tier lo ≤ s) && decide (s + u ≤ d.addr y tier hi)
  match d.mem.uc.find? (fun s => meets s && !whole s) with
  | some s =>
    logUc y tier (s - d.addr y tier 0)
    return false
  | none =>
    if tier == 2 && (unitsIn 2 a len).any (fun s => d.farDown y s) then
      act (.spoil (d.addr y tier a) len)
      return false
    act (if beneath then .under (d.addr y tier a) bytes else .poke (d.addr y tier a) bytes)
    act (.uc (d.mem.uc.filter (fun s => !(meets s && whole s))))
    return true

/-- Write bytes to a tier of yard `y`, part of an operation that writes all of `[lo, hi)`. -/
def writeMemIn (y tier a lo hi : Nat) (bytes : List Byte) : M d0 Bool := putMem false y tier a lo hi bytes

/-- Write bytes to a tier of yard `y`, an operation by itself. -/
def writeMem (y tier a : Nat) (bytes : List Byte) : M d0 Bool := writeMemIn y tier a a (a + bytes.length) bytes

/-! ### Address contexts (R335 to R339) -/

/-- A segment of a context. -/
def Dev.seg (d : Dev) (y pasid sg : Nat) : Option Seg :=
  match Tab.find d.ctxs (yk y pasid) with
  | none => none
  | some c => Tab.find c.segs sg

/-- Whether a context exists with its HOST flag. -/
def Dev.hostCtx (d : Dev) (y pasid : Nat) : Bool :=
  match Tab.find d.ctxs (yk y pasid) with
  | none => false
  | some c => c.host

/-- The tier and yard address of `[off, off + len)` of a segment, when it lies inside (R339). -/
def Dev.segAt (d : Dev) (y pasid sg off len : Nat) : Option (Nat × Nat) :=
  match d.seg y pasid sg with
  | none => none
  | some s => if off + len ≤ s.len then some (s.tier, s.yaddr + off) else none

/-- Whether a local range is inside its context or segment (R302, R339). -/
def Dev.locOk (d : Dev) (y : Nat) (l : Loc) (len : Nat) : Bool :=
  match l with
  | .inline bs => decide (len ≤ bs.length)
  | .body cap => decide (len ≤ cap)
  | .seg p s o => (d.segAt y p s o len).isSome
  | .host p va => d.hostCtx y p && decide (va + len ≤ 2 ^ 64)

/-- What a local read or write met. -/
inductive LocRes where
  | ok (bytes : List Byte)
  | wait                     -- a page fault or a pending translation
  | err (code : Nat)
deriving DecidableEq, Repr

/-! ### Keys and nonces (R430 to R432) -/

/-- Whether yard `y` can send and verify packets that need a tag. -/
def Dev.keyed (d : Dev) (y : Nat) : Bool :=
  (d.yard y).keys.isSome && !d.on ((R.YRD_KEY_STATE y).sub 1 1)

/-- Take the NONCE of a fabric packet sent by bay `b` of yard `y` and advance its counter; none when the yard has no
key set or its bay is exhausted. -/
def takeFabNonce (y b : Nat) : M d0 (Option Nat) := do
  let d ← dev
  if !d.keyed y then return none
  let i := b - y
  let r := d.yard y
  let g := r.fabGen.getD i 0
  let c := r.fabCtr.getD i 0
  if c + 1 < 2 ^ 40 then act (.yard y { r with fabCtr := r.fabCtr.set i (c + 1) })
  else if g + 1 < 256 then act (.yard y { r with fabCtr := r.fabCtr.set i 0, fabGen := r.fabGen.set i (g + 1) })
  else wr ((R.YRD_KEY_STATE y).sub 1 1) 1
  return some (g * 2 ^ 40 + c)

/-- Take the NONCE of a WRT packet of connection `n`. Restores have raised GEN by `genAdd`. -/
def takeWrtNonce (y n : Nat) : M d0 (Option Nat) := do
  let d ← dev
  if !d.keyed y then return none
  let c := d.conn y n
  let g := c.gen + (d.yard y).genAdd
  if c.ctr + 1 < 2 ^ 48 then act (.conn (yk y n) (some { c with ctr := c.ctr + 1 }))
  else if g + 1 < 2 ^ 16 then act (.conn (yk y n) (some { c with ctr := 0, gen := c.gen + 1 }))
  else wr ((R.YRD_KEY_STATE y).sub 1 1) 1
  return some (g * 2 ^ 48 + c.ctr)

/-! ### Rotating orders (R21) -/

/-- The rotating order after `x` has been served: `x` goes to the end. -/
def rotate (order : List Nat) (x : Nat) : List Nat := order.filter (fun z => z != x) ++ [x]

/-- The first of an order that satisfies `p`. -/
def firstOf (order : List Nat) (p : Nat → Bool) : Option Nat := order.find? p

/-! ### Codes of R309 -/

def cOk : Nat := 0x00
def cLocalLength : Nat := 0x01
def cLocalProtection : Nat := 0x02
def cRemoteAccess : Nat := 0x10
def cWindowClosed : Nat := 0x11
def cWindowStale : Nat := 0x12
def cTargetUnavailable : Nat := 0x13
def cRetryExceeded : Nat := 0x20
def cRnrExceeded : Nat := 0x21
def cTagTruncated : Nat := 0x22
def cCollTimeout : Nat := 0x30
def cCollCheck : Nat := 0x31
def cCollAbortPeer : Nat := 0x32
def cCollRetract : Nat := 0x33
def cHostLost : Nat := 0x40
def cFaultUnresolved : Nat := 0x41
def cYardFrozen : Nat := 0x50
def cYardRaking : Nat := 0x51
def cPlanRefused : Nat := 0x60
def cResourceRefused : Nat := 0x61
def cMemUncorrectable : Nat := 0x70
def cAuthFailed : Nat := 0x71
def cInternal : Nat := 0x7F

end Sys2Proof.Machine
end

