-- ==== Sys2Proof/Machine/Operands.lean ====
section
/-! DEFINITION. The operand forms that commands share: fields of descriptors, images and headers, and the guards that
say whether a register write by a master reaches its register. -/

namespace Sys2Proof.Machine

/-- The little-endian field of `n` bytes at offset `o` (R6). -/
def le (bs : List Byte) (o n : Nat) : Nat := leNat ((bs.drop o).take n)

/-- The big-endian field of `n` bytes at offset `o`. -/
def be (bs : List Byte) (o n : Nat) : Nat := leNat ((bs.drop o).take n).reverse

/-- Bytes `[o, o + n)`. -/
def slice (bs : List Byte) (o n : Nat) : List Byte := (bs.drop o).take n

/-- Whether bytes `[o, o + n)` are all 0. -/
def zeroAt (bs : List Byte) (o n : Nat) : Bool := (slice bs o n).all (fun b => b == 0)

/-- The first offset in `[o, o + n)` whose byte is not 0. DEDUCED, log 17. -/
def firstNonzero (bs : List Byte) (o n : Nat) : Option Nat := (List.range n).findSome? (fun i => if bs.getD (o + i) 0 != 0 then some (o + i) else none)

/-- `n` zero bytes. -/
def zeros (n : Nat) : List Byte := List.replicate n 0

/-- Bytes with `new` written at offset `o`. -/
def patch (bs : List Byte) (o : Nat) (new : List Byte) : List Byte := bs.take o ++ new ++ bs.drop (o + new.length)

/-- SHA-384 as 48 bytes. -/
def sha (bs : List Byte) : List Byte := beBytes 48 (Config.sha384 bs).toNat

/-- A state field of `n` little-endian words as bytes. -/
def Dev.words (d : Dev) (f : Nat → Fld) (n : Nat) : List Byte := (List.range n).flatMap (fun i => leBytes 4 (d.fld (f i)))

/-- Write bytes into consecutive 32-bit registers, byte 0 in [7:0] of the first. -/
def wrWords {d0 : Dev} (f : Nat → Fld) (n : Nat) (bs : List Byte) : M d0 Unit :=
  each (List.range n) (fun i => wr (f i) (le bs (4 * i) 4))

/-- Whether a write by the physical function takes effect: the device runs, no warm reset is in progress (R479), and it
is not in P3 (R481). -/
def Dev.pfOk (d : Dev) : Bool :=
  !d.ctl.warm && !d.ctl.tripped && d.on (R.CRP_STATUS.sub 0 1) && d.fld R.CRP_PSTATE_STATUS_STATE != 3

/-- Whether a write through the function of yard `y` reaches its BAR0 (R292, R479, R480). -/
def Dev.yfOk (d : Dev) (y : Nat) : Bool := d.pfOk && d.present y && !(d.yard y).resetting

/-- Whether the command registers of yard `y` act: a yard-fatal error makes them ignore writes (R463). -/
def Dev.cmdOk (d : Dev) (y : Nat) : Bool := d.yfOk y && !(d.yard y).fatal

/-- Whether a memory request to the function of yard `y` reaches its registers. A function that is not present completes it with
Unsupported Request (R292, R295). -/
def yfReach {d0 : Dev} (y : Nat) : M d0 Bool := do
  let d ← dev
  if d.ctl.hostUp && decide (y < 12) && !d.present y then emit (.unsupportedRequest (y + 1)) else pure ()
  return d.yfOk y

/-- Whether it reaches a command register that acts (R463). -/
def cmdReach {d0 : Dev} (y : Nat) : M d0 Bool := do return (← yfReach y) && !((← dev).yard y).fatal

/-- A command that the bay core of yard `y` takes in arrival order with the yard's sets (R116, R258, R440): while a fetched
set is in progress it waits for the end of the set, its block BUSY, and a further one to a BUSY block is ignored with CMD_ERR.
`busy` names the two bits. DESIGN CHOICE, log 13. -/
def coreTake {d0 : Dev} (y : Nat) (i : Instr) (busy : Option (Fld × Fld)) (f : M d0 Unit) : M d0 Unit := do
  let d ← dev
  if (d.yard y).setSnap.isNone || !d.cmdOk y then f
  else
    let wait : M d0 Unit := modYard y (fun r => { r with queue := r.queue ++ [i] })
    match busy with
    | none => wait
    | some (b, e) => if d.on b then wr e 1 else do wr b 1; wait

/-- The requesters of an arbiter for which no chapter states an order, the highest first (R20). -/
def defaultOrder : List Master :=
  [.security, .deviceCore 0, .deviceCore 1] ++ (List.range 12).map Master.bayCore ++ [.pf] ++ (List.range 12).map Master.yard ++ [.bmc]

/-- The engines of a bay that may meet at an arbiter. -/
inductive Engine where
  | sequencer
  | pan (j : Nat)
  | drover
  | transport
  | translation
deriving DecidableEq, Repr

/-- The engines of the bays, as R20 orders those that `defaultOrder` does not name: by bay, then within a bay. -/
def defaultEngines : List (Nat × Engine) :=
  (List.range 12).flatMap (fun b =>
    ([Engine.sequencer] ++ (List.range 4).map Engine.pan ++ [Engine.drover, Engine.transport, Engine.translation]).map
      (fun e => (b, e)))

/-- Write to host memory by the physical function. -/
def pfWr {d0 : Dev} (a : Nat) (bytes : List Byte) : M d0 Unit := do
  if (← dev).ctl.hostUp && !bytes.isEmpty then emit (.hostWrite 0 a bytes) else pure ()

/-- What a bus-master fetch of the physical function brings: nothing when the link is down. -/
def Dev.pfFetched (d : Dev) (data : Option (List Byte)) : Option (List Byte) := if d.ctl.hostUp then data else none

/-! ### The register tables -/

/-- Whether `off` is an element of an array of registers with these strides and counts, `rem` past its first. -/
def dimsHit : List (Nat × Nat) → Nat → Bool
  | [], rem => rem == 0
  | [(s, c)], rem => rem % s == 0 && decide (rem / s < c)
  | (s, c) :: t, rem => decide (rem / s < c) && dimsHit t (rem % s)

/-- The row of the register at `off`. -/
def rowAt (t : List RRow) (off : Nat) : Option RRow := t.find? (fun r => decide (r.off ≤ off) && dimsHit r.dims (off - r.off))

/-- The bits of a value that fields of a kind cover, the others cleared. -/
def fieldBits (r : RRow) (p : Acc7 → Bool) (v : Nat) : Nat :=
  (r.fields.filter (fun f => p f.acc)).foldl (fun n f => n + 2 ^ f.lsb * bits v f.lsb f.w) 0

/-- `v` with the fields of a kind taken from `w`. -/
def mixFields (r : RRow) (p : Acc7 → Bool) (v w : Nat) : Nat := v - fieldBits r p v + fieldBits r p w

/-! ### Replay tables (R433) -/

/-- Judge an authenticated packet by the replay table of the bay it reached; true when it is accepted. -/
def replayOk {d0 : Dev} (y b src nonce : Nat) : M d0 Bool := do
  let r := (← dev).yard y
  let i := b - y
  let t := r.replay.getD i []
  match t.find? (fun e => e.src == src) with
  | none =>
    if 2048 ≤ t.length then
      bump (R.YRD_REPLAY_FULL y) 1
      return false
    act (.yard y { r with replay := r.replay.set i ({ src := src, high := nonce, seen := [0] } :: t) })
    return true
  | some e =>
    if e.high < nonce then
      let s := nonce - e.high
      let e' := { e with high := nonce, seen := 0 :: (e.seen.map (fun k => k + s)).filter (fun k => decide (k ≤ 64)) }
      act (.yard y { r with replay := r.replay.set i (t.map (fun x => if x.src == src then e' else x)) })
      return true
    if e.high - nonce ≤ 64 && !e.seen.contains (e.high - nonce) then
      let e' := { e with seen := (e.high - nonce) :: e.seen }
      act (.yard y { r with replay := r.replay.set i (t.map (fun x => if x.src == src then e' else x)) })
      return true
    bump (R.YRD_REPLAY_DISCARD y) 1
    return false


end Sys2Proof.Machine
end

