-- ==== Sys2Proof/Machine/Flags.lean ====
section
/-! DEFINITION. The flags of the pan (R87) and the event registers of the device: sticky bits and the interrupts they
raise. -/

namespace Sys2Proof.Machine

variable {d0 : Dev}

/-- OR the exception flags of a beat into PAN_FLAGS of yard `y` (R69, R87). A flag that was clear and is enabled raises
the vector of PAN_FLAG_IRQ. DEDUCED, log 16. -/
def raiseFlags (y : Nat) (f : Flags) : M d0 Unit := do
  if f = 0 then return
  let d ← dev
  let old := d.fld ((R.PAN_FLAGS y).sub 0 4)
  orBits ((R.PAN_FLAGS y).sub 0 4) f
  let rising := (List.range 4).any (fun i => bit f i && !bit old i && bit (d.fld (R.PAN_FLAG_IRQ y)) i)
  if rising then irqYard y (d.fld ((R.PAN_FLAG_IRQ y).sub 16 11)) else pure ()

/-- Set bit `i` of an event register of the physical function; when it changes from 0 to 1 and enable bit `en` is set, raise
the vector (as R88 and R127 say of their bits; DEDUCED for the others, log 16). -/
def pfEvent (ev irq : Fld) (i en : Nat) : M d0 Unit := do
  let old ← rd (ev.sub i 1)
  wr (ev.sub i 1) 1
  if old = 0 then irqPf (irq.sub en 1) (irq.sub 16 6) else pure ()

end Sys2Proof.Machine
end

