-- ==== Sys2Proof/Machine/Debug.lean ====
section
/-! DEFINITION. Debug grants and their outcome table (14: R420, R421), and the state of the control cores (15: R446, R448). -/

namespace Sys2Proof.Machine

variable {d0 : Dev}

/-- End the debug grants on the targets of a mask: bit b bay b, bit 12 the device cores. Halted cores run again.
DESIGN CHOICE, log 29. -/
def endGrants (mask : Nat) : M d0 Unit := do
  let d ← dev
  let left (v : Nat) : Nat := (List.range 13).foldl (fun n i => n + 2 ^ i * b2n (bit v i && !bit mask i)) 0
  let t := left d.sec.traceOn
  let h := left d.sec.haltOn
  modSec (fun x => { x with traceOn := t, haltOn := h })
  wr (R.SEC_DEBUG_STATUS.sub 16 13) (Nat.lor t h)
  each (List.range 14) (fun c =>
    if bit mask (min c 12) && !bit h (min c 12) && d.fld ((R.DEV_CORE_STATE c).sub 0 2) == 2 then wr ((R.DEV_CORE_STATE c).sub 0 2) 1
    else pure ())
  if bit mask 12 then wr (R.DEV_TRACE_CTRL.sub 0 1) 0 else pure ()

/-- A mask of bays. -/
def bayMask (bs : List Nat) : Nat := bs.foldl (fun n b => n + 2 ^ b) 0

/-- Show a control core as running (1), off (0) or failed (3). -/
def setCore (c v : Nat) : M d0 Unit := do
  wr ((R.DEV_CORE_STATE c).sub 0 2) v
  if c < 12 then wr (R.DEV_STATUS.sub (4 + c) 1) (b2n (v == 1 || v == 2))
  else wr (R.DEV_STATUS.sub (c - 11) 1) (b2n (v == 1 || v == 2))

/-- Outcome of a TRACE or HALT request (R420): 1 granted, 2 refused, 3 no target. `down` says that the target is powered
down: P3, or a parked bay. -/
def debugOutcome (life : Nat) (conf halt down : Bool) : Nat :=
  match life with
  | 2 => if conf then 2 else if down then 3 else if halt then 2 else 1
  | 0 | 1 | 3 | 4 => if down then 3 else 1
  | _ => 2

/-- Outcome of a SCAN request. -/
def scanOutcome (life : Nat) : Nat := if life = 0 ∨ life = 4 then 1 else 2

/-- The confidentiality that counts for a target: bay 0 to 11, or 12 for the device cores. -/
def Dev.targetConf (d : Dev) (t : Nat) : Bool :=
  if t < 12 then d.conf (d.lowest t) else d.yardList.any d.conf

/-- End every grant whose outcome would now be R (R421). -/
def recheckGrants : M d0 Unit := do
  let d ← dev
  let life := d.fld R.SEC_STATUS_LIFECYCLE
  let bad := (List.range 13).filter (fun t =>
    (bit d.sec.traceOn t && debugOutcome life (d.targetConf t) false false == 2) ||
    (bit d.sec.haltOn t && debugOutcome life (d.targetConf t) true false == 2))
  if bad.isEmpty then pure () else endGrants (bayMask bad)

end Sys2Proof.Machine
end

