-- ==== Sys2Proof/Machine/Fabric.lean ====
section
/-! DEFINITION. The fabric (12): injection and routing of packets, the output queues and the frame scheduler, frames
and replay, link states, route tables with drain and swap, the sluice and the header samples. -/

namespace Sys2Proof.Machine

variable {d0 : Dev}

/-! ### Keys of packets and objects (R431), and the CRC of frames and chunks (R145, R358) -/

/-- ASCII of "GVW48 JMS v1", "GVW48 MIG v1", "WLNK", "FLNK", "SEAL", "MIGR". -/
def saltJms : List Byte := [0x47, 0x56, 0x57, 0x34, 0x38, 0x20, 0x4A, 0x4D, 0x53, 0x20, 0x76, 0x31]
def saltMig : List Byte := [0x47, 0x56, 0x57, 0x34, 0x38, 0x20, 0x4D, 0x49, 0x47, 0x20, 0x76, 0x31]
def labelWlnk : List Byte := [0x57, 0x4C, 0x4E, 0x4B]
def labelFlnk : List Byte := [0x46, 0x4C, 0x4E, 0x4B]
def labelSeal : List Byte := [0x53, 0x45, 0x41, 0x4C]
def labelMigr : List Byte := [0x4D, 0x49, 0x47, 0x52]

/-- A key of R431: LABEL, A, B and GEN under the JMS, or under the MIG. -/
def yardKey (k : KeySet) (mig : Bool) (label : List Byte) (a b gen : Nat) : List Byte :=
  Config.hkdf (if mig then saltMig else saltJms) (if mig then k.mig else k.jms)
    (label ++ beBytes 2 a ++ beBytes 2 b ++ beBytes 2 gen)

/-- Exactly `n` bytes of an encrypted string. -/
def fitBytes (n : Nat) (bs : List Byte) : List Byte := (bs ++ zeros n).take n

/-- `n` bits of the reflected CRC-32C. -/
def crcBits (n c : Nat) : Nat :=
  match n with
  | 0 => c
  | k + 1 => crcBits k (if c % 2 = 1 then Nat.xor (c / 2) 0x82F63B78 else c / 2)

/-- CRC-32C (R145). -/
def crc32c (bs : List Byte) : Nat :=
  Nat.xor (bs.foldl (fun c b => crcBits 8 (Nat.xor c b.toNat)) 0xFFFFFFFF) 0xFFFFFFFF

/-- The trailer of a frame whose 1,024 flit bytes are `flits` (R358). -/
def trailerBytes (fseq ack : Nat) (nak : Bool) (credit : List Nat) (flits : List Byte) : List Byte :=
  let t := beBytes 2 (fseq % 4096) ++ beBytes 2 (ack % 4096 + 2 ^ 15 * b2n nak) ++ zeros 4 ++
    (List.range 8).flatMap (fun v => beBytes 2 (credit.getD v 0)) ++ zeros 4
  t ++ beBytes 4 (crc32c (flits ++ t))

/-! ### Links and bundles -/

/-- State of a link (R362): 0 OFF, 1 TRAIN, 2 INIT, 3 UP, 4 DOWN, 5 DEAD, 6 PEER_ERR. -/
def Dev.linkState (d : Dev) (l : Nat) : Nat := d.fld (R.FAB_PORT_STATE_STATE l)

/-- The layout's entry of a link. -/
def Dev.linkCfg (d : Dev) (l : Nat) : LinkCfg := d.lay.cur.links.getD l { role := 0, reversal := false, peer := 0xFFFF }

/-- A link's dynamic state. -/
def Dev.link (d : Dev) (l : Nat) : Link := d.fab.links.getD l Link.reset

/-- Change a link. -/
def modLink (l : Nat) (f : Link → Link) : M d0 Unit := do act (.link l (f ((← dev).link l)))

/-- The bundle of a link: the links of its bay with the same PEER, or itself when the PEER is 0xFFFF. -/
def bundleOf (links : List LinkCfg) (l : Nat) : List Nat :=
  let peer (k : Nat) : Nat := (links.getD k { role := 0, reversal := false, peer := 0xFFFF }).peer
  if peer l = 0xFFFF then [l] else (List.range 4).map (fun i => l / 4 * 4 + i) |>.filter (fun k => peer k == peer l)

/-- The links of a bundle that are UP. -/
def Dev.upLinks (d : Dev) (l : Nat) : List Nat := (bundleOf d.lay.cur.links l).filter (fun k => d.linkState k == 3)

/-! ### Route tables (R371, R372) -/

/-- Bytes of a route table. -/
def routeBytes : Nat := 524416

/-- The 8 bytes of the entry for destination `a`. -/
def routeEntry (t : List Byte) (a : Nat) : List Byte := slice t (0x80 + 8 * a) 8

/-- CH_RANK of link `l` in set `s`. -/
def chRank (t : List Byte) (l s : Nat) : Nat := le t (0x10 + 2 * l + s) 1

/-- Whether link `l` is a dateline. -/
def dateline (t : List Byte) (l : Nat) : Bool := bit (le t 8 8) l

/-- A field of an entry: PORT_A, PORT_B, FLAGS, IN_RANK0, IN_RANK1 are bytes 0 to 4. -/
def ef (e : List Byte) (i : Nat) : Nat := (e.getD i 0).toNat

/-- The first fault of a table header: its detail and the offset of the field (R372). -/
def routeHeaderBad (t : List Byte) (links : List LinkCfg) : Option (Nat × Nat) :=
  if t.length ≠ routeBytes ∨ le t 0 4 ≠ 65536 then some (0xFFFFFFFF, 0)
  else match firstNonzero t 4 4 with
  | some o => some (0xFFFFFFFF, o)
  | none =>
    if le t 14 2 ≠ 0 then some (0xFFFFFFFF, 8)
    else match firstNonzero t 0x70 16 with
    | some o => some (0xFFFFFFFF, o)
    | none =>
      (List.range 48).findSome? (fun l => (List.range 2).findSome? (fun s =>
        let r := chRank t l s
        if 254 < r ∨ (bundleOf links l).any (fun k => decide (k < l) && chRank t k s != r) ∨
            (bundleOf links l).any (fun k => decide (l < k) && chRank t k s != r)
        then some (0x10000 + l, 0x10 + 2 * l + s) else none))

/-- The offset in the entry `e` for destination `a` of its first fault (R372); `t` gives the table's header. -/
def routeEntryBad (t : List Byte) (links : List LinkCfg) (own : List Nat) (a : Nat) (e : List Byte) : Option Nat :=
  let pa := ef e 0; let pb := ef e 1; let fl := ef e 2; let i0 := ef e 3; let i1 := ef e 4
  let role (l : Nat) : Nat := (links.getD l { role := 0, reversal := false, peer := 0xFFFF }).role
  let set := bits fl 1 1
  let rankBad (c : Nat) : Bool :=
    let r := chRank t c set
    if set = 0 then i1 != 0xFF || !(i0 == 0xFF || decide (i0 < r))
    else !(i1 == 0xFF || decide (i1 < r)) || (i0 != 0xFF && !dateline t c)
  let candBad (c fin : Nat) : Bool := decide (48 ≤ c) || role c == 0 || (!bit fl fin && role c == 1)
  let viaBad (c fin : Nat) : Bool := !bit fl fin && (role c != 2 || rankBad c)
  if !bit fl 0 then if own.contains a then some 2 else (List.range 8).find? (fun i => ef e i != 0)
  else if 16 ≤ fl then some 2
  else if ef e 5 ≠ 0 ∨ ef e 6 ≠ 0 ∨ ef e 7 ≠ 0 then [5, 6, 7].find? (fun i => ef e i != 0)
  else if own.contains a then if pa ≠ 0xFE then some 0 else if pb ≠ 0xFF then some 1 else none
  else if candBad pa 2 then some 0
  else if pb ≠ 0xFF ∧ (candBad pb 3 ∨ (bundleOf links pa).contains pb) then some 1
  else if viaBad pa 2 ∨ (pb ≠ 0xFF ∧ viaBad pb 3) then some 3
  else none

/-- The first of `n` entries from destination `a` on in which `f` finds a fault: destination and byte offset in the table. -/
def routeScan (f : Nat → List Byte → Option Nat) (n a : Nat) (bs : List Byte) : Option (Nat × Nat) :=
  match n with
  | 0 => none
  | k + 1 =>
    match f a (bs.take 8) with
    | some o => some (a, 0x80 + 8 * a + o)
    | none => routeScan f k (a + 1) (bs.drop 8)

/-- The first fault of a route table: detail and byte offset (R372). The header is checked before any entry. -/
def routeBad (t : List Byte) (links : List LinkCfg) (own : List Nat) : Option (Nat × Nat) :=
  match routeHeaderBad t links with
  | some x => some x
  | none => routeScan (routeEntryBad (t.take 0x80) links own) 65536 0 (t.drop 0x80)

/-- Whether a swap would change where destination `a` goes (R376). -/
def Dev.affected (d : Dev) (a : Nat) : Bool :=
  slice d.lay.active 8 104 != slice d.lay.shadow 8 104 || routeEntry d.lay.active a != routeEntry d.lay.shadow a

/-! ### Packets -/

/-- Payload flits a TYPE may have (R365). -/
def typeFlitsOk (typ flits : Nat) : Bool :=
  if typ = 0x10 then decide (1 ≤ flits) && decide (flits ≤ 66)
  else if typ = 0x20 ∨ typ = 0x30 then decide (1 ≤ flits) && decide (flits ≤ 64)
  else (typ == 0x21 || typ == 0x31 || typ == 0x32 || typ == 0x33) && flits == 0

/-- Whether a WRT packet is an answer, which travels on VC2 (R247): READ_RSP, ATOMIC_RSP, ACK, NAK. -/
def wrtAnswer (payload : List Byte) : Bool :=
  let o := (payload.getD 1 0).toNat
  o == 0x08 || o == 0x0B || o == 0x10 || o == 0x11

/-- The VC of a packet on its final hop (R365), `set` the set it travels in. -/
def finalVc (p : Pkt) (set : Nat) : Nat :=
  if p.typ = 0x10 then if wrtAnswer p.payload then 2 else 1
  else if p.typ = 0x20 then 3 + set
  else if p.typ = 0x30 then 1
  else if p.typ = 0x31 then 2
  else 0

/-- The VC of a packet while it is forwarded (R365). -/
def fwdVc (p : Pkt) (set : Nat) : Nat := if p.typ = 0x20 then 3 + set else 5 + set

/-- A packet as an engine of bay `b` makes it, before its NONCE is taken. -/
def mkPkt (typ dst src bay : Nat) (tag : Bool) (body payload : List Byte) : Pkt :=
  let f := ceilDiv payload.length 64
  { typ := typ, ce := false, tag := tag, vc := 0, flits := f, pad := 64 * f - payload.length, dst := dst, src := src,
    rank := 0, hops := 0, nonce := 0, body := body ++ zeros (32 - body.length), payload := payload, bay := bay,
    transit := false, inl := 48, inVc := 0 }

/-- Bytes 0x00 to 0x2F of the header flit (R364). -/
def Pkt.head (p : Pkt) : List Byte :=
  beBytes 1 p.typ ++ beBytes 1 (b2n p.ce + 2 * b2n p.tag) ++ beBytes 2 (p.vc * 2 ^ 13 + p.flits * 64 + p.pad) ++
    beBytes 2 p.dst ++ beBytes 2 p.src ++ beBytes 1 p.rank ++ beBytes 1 p.hops ++ beBytes 6 p.nonce ++ fitBytes 32 p.body

/-- The flits of a packet on a link: the header flit with TAG, the payload and its padding (R364). -/
def Pkt.flitBytes (p : Pkt) : List Byte := p.head ++ fitBytes 16 p.mac ++ p.payload ++ zeros p.pad

/-- A packet with its payload encrypted and its tag made under the key of its source, destination and GEN; what forwarding
changes reads as 0 in the authenticated data (R364, R431, R432). -/
def Pkt.sealed (p : Pkt) (k : KeySet) : Pkt :=
  let n := p.payload.length
  let bs := fitBytes (n + if n = 0 then 12 else 16) (Config.gcmSeal (yardKey k false labelFlnk p.src p.dst (p.nonce / 2 ^ 40))
    (zeros 6 ++ beBytes 6 p.nonce) { p with ce := false, vc := 0, rank := 0, hops := 0 }.head p.payload)
  { p with payload := bs.take n, mac := bs.drop n }

/-! ### Queues -/

/-- Flits of VC `v` in a queue. -/
def flitsOn (q : List Pkt) (v : Nat) : Nat := (q.filter (fun p => p.vc == v)).foldl (fun n p => n + 1 + p.flits) 0

/-- The far end's buffer for VC `v`; before its HELLO, the flit that every part has for VC7 (R361). -/
def Link.buf (k : Link) (v : Nat) : Nat := if v = 7 ∧ k.hello.isNone then 1 else k.peerBuf.getD v 0

/-- Whether a link has credit for a packet (R361): the flits sent and not yet freed, counted mod 2^16 (R358), and the packet
fit the far end's buffer. -/
def Link.creditFor (k : Link) (p : Pkt) : Bool :=
  let v := p.vc
  decide ((k.used.getD v 0 + 2 ^ 16 - k.credit.getD v 0 % 2 ^ 16) % 2 ^ 16 + 1 + p.flits ≤ k.buf v)

/-- Recount FAB_DRAIN_COUNT while a drain holds: affected packets accepted from a FABRIC link and
waiting for a link, queued, or sent and not yet acknowledged (R376). -/
def recount : M d0 Unit := do
  let d ← dev
  if d.fab.draining then
    let counts (p : Pkt) : Bool := p.typ != 0x70 && d.affected p.dst
    let waiting := (d.fab.held.filter (fun p => p.transit && counts p)).length
    let n := waiting + d.fab.links.foldl (fun n k =>
      n + (k.queue.filter counts).length + ((k.unacked.flatMap (fun f => f.pkts)).filter counts).length) 0
    wr R.FAB_DRAIN_COUNT n
  else pure ()

/-- TEL_STATUS.NO_RING (R385, R390): LOC is 0 and RING_BAY is not UNASSIGNED. -/
def showRing : M d0 Unit := do
  let d ← dev
  wr R.TEL_STATUS_NO_RING (b2n (d.fld R.TEL_CTRL_LOC == 0 && d.bayState (d.fld R.TEL_CTRL_RING_BAY) != 0))

/-- Write a header sample when a packet's count is a multiple of 2^K (R385, R390). DESIGN CHOICE, log 56. -/
def sample (l dir : Nat) (p : Pkt) : M d0 Unit := do
  let d ← dev
  let hidden := [p.src, p.dst].any (fun a => match d.bayAt a with
    | some b => d.conf (d.lowest b)
    | none => false)
  if d.on R.TEL_CTRL_EN && bit (d.fld R.TEL_PORT_MASK) l && !hidden then
    let k := d.link l
    let n := (if dir = 0 then k.sample.1 else k.sample.2) + 1
    act (.link l { k with sample := if dir = 0 then (n, k.sample.2) else (k.sample.1, n) })
    if n % 2 ^ d.fld R.TEL_CTRL_K ≠ 0 then return
    let head := d.fld R.TEL_RING_HEAD
    let size := 2 ^ d.fld R.TEL_RING_LOG
    let bay := d.fld R.TEL_CTRL_RING_BAY
    showRing
    if d.fld R.TEL_CTRL_LOC = 0 ∧ d.bayState bay ≠ 0 then return
    if (head + 2 ^ 32 - d.fld R.TEL_RING_TAIL) % 2 ^ 32 = size then
      bump R.TEL_DROPS 1
      wr R.TEL_STATUS_DROPPED 1
      return
    let rec' := leBytes 8 d.now ++ leBytes 1 l ++ leBytes 1 dir ++ leBytes 1 (d.linkState l) ++ zeros 1 ++
      leBytes 2 (flitsOn k.queue p.vc) ++ zeros 2 ++ p.head.take 10 ++ zeros 6 ++ leBytes 8 d.fab.sampleSeq ++ zeros 24
    act (.fab d.fab.held d.fab.draining (d.fab.sampleSeq + 1))
    let at' := d.fld R.TEL_RING_ADDR + head % size * 64
    if d.fld R.TEL_CTRL_LOC = 0 then act (.poke (tierBase 1 + bay * nearBay + at') rec') else pfWr at' rec'
    wr R.TEL_RING_HEAD (head + 1)
    bump R.TEL_SAMPLES 1
  else pure ()

/-- A packet for a yard that takes none now is discarded and counted (R378, R480). -/
def idleDiscard : M d0 Unit := bump R.FAB_IDLE_DISCARD 1

/-- Put a packet into the output queue of link `l` (R373: RANK and HOPS; R382: congestion mark). -/
def enqueue (l set : Nat) (final : Bool) (p : Pkt) : M d0 Unit := do
  let d ← dev
  let v := if final then finalVc p set else fwdVc p set
  let k := d.link l
  let mark := decide (d.fld R.FAB_ECN_THRESH ≤ flitsOn k.queue v)
  if mark && !p.ce then bump (R.TEL_CE_MARK l) 1 else pure ()
  let p' := { p with vc := v, rank := chRank d.lay.active l set, hops := min 255 (p.hops + 1), ce := p.ce || mark }
  act (.link l { k with queue := k.queue ++ [p'], quiet := false })

/-- The candidate links of an entry: first link named, whether FINAL. -/
def candidates (e : List Byte) : List (Nat × Bool) :=
  (ef e 0, bit (ef e 2) 2) :: (if ef e 1 = 0xFF then [] else [(ef e 1, bit (ef e 2) 3)])

/-- Return the input buffer a packet held (R361). -/
def freeInput (p : Pkt) : M d0 Unit := do
  if p.inl < 48 then
    modLink p.inl (fun k => { k with freed := k.freed.set p.inVc ((k.freed.getD p.inVc 0 + 1 + p.flits) % 2 ^ 16) })
  else pure ()

/-- Whether a WRT opcode is one of R261. -/
def wrtOpcode (o : Nat) : Bool := (decide (1 ≤ o) && decide (o ≤ 0x11)) || (decide (0x18 ≤ o) && decide (o ≤ 0x19))

/-- A packet has reached bay `b` of this W48: it is discarded when the bay takes none (R378), or when it is a WRT packet with
a reserved opcode (R261); otherwise its TYPE's own command consumes it. MGMT packets have commands of their own (R368). -/
def deliver (b : Nat) (p : Pkt) : M d0 Unit := do
  let d ← dev
  if !d.takes b then idleDiscard
  else if p.typ = 0x10 ∧ !wrtOpcode (p.payload.getD 1 0).toNat then bump (R.TRN_SRC_DISCARD (d.lowest b)) 1
  else emit (.toBay b p)
  freeInput p

/-- Route a packet under the active table (R373, R374): into an output queue, to a bay of this W48, held, or discarded. -/
def route (p : Pkt) : M d0 Unit := do
  let d ← dev
  let e := routeEntry d.lay.active p.dst
  match d.bayAt p.dst with
  | some b => deliver b p
  | none =>
    if !bit (ef e 2) 0 then
      bump R.FAB_NOROUTE 1
      freeInput p
    else
      let set := bits (ef e 2) 1 1
      let cs := candidates e
      let ups := cs.filter (fun c => !(d.upLinks c.1).isEmpty)
      match ups with
      | [] =>
        if cs.any (fun c => (bundleOf d.lay.cur.links c.1).any (fun k => let s := d.linkState k; s == 4 || s == 1 || s == 2)) then
          act (.fab (d.fab.held ++ [p]) d.fab.draining d.fab.sampleSeq)
        else
          bump R.FAB_DEAD_DISCARD 1
          freeInput p
      | a :: rest =>
        let vOf (c : Nat × Bool) : Nat := if c.2 then finalVc p set else fwdVc p set
        let lacks (c : Nat × Bool) : Bool := (d.upLinks c.1).all (fun l =>
          !(d.link l).creditFor { p with vc := vOf c })
        let c := match rest with
          | b :: _ => if p.typ = 0x10 ∧ lacks a ∧ !lacks b then b else a
          | [] => a
        let ls := d.upLinks c.1
        if ls.length ≤ 1 ∨ !(p.typ = 0x10 ∨ p.typ = 0x20) then enqueue (ls.headD 0) set c.2 p
        else do
          let n ← fresh
          enqueue (ls.getD (n % ls.length) 0) set c.2 p
  recount

/-- Take a packet at ingress: hold it during a drain when its destination is affected and no FABRIC link brought it (R376),
otherwise route it. DESIGN CHOICE, log 56. -/
def ingress (p : Pkt) : M d0 Unit := do
  let d ← dev
  if d.fab.draining && !p.transit && d.affected p.dst then act (.fab (d.fab.held ++ [p]) true d.fab.sampleSeq) else route p

/-- Every order of the links' schedulers to its first (R21). -/
def resetLinkOrders : M d0 Unit :=
  each (List.range 48) (fun l => modLink l (fun k => { k with
    groupOrder := Link.reset.groupOrder, bayOrder := Link.reset.bayOrder, bayLeft := Link.reset.bayLeft,
    vcNext := Link.reset.vcNext }))

/-- Route again every packet that waited at ingress, in order. -/
def reroute : M d0 Unit := do
  let d ← dev
  act (.fab [] d.fab.draining d.fab.sampleSeq)
  each d.fab.held ingress
  recount

/-! ### Injection by an engine (R364, R370, R430, R432) -/

/-- The entry of the group table whose address is `a`. -/
def Dev.group (d : Dev) (a : Nat) : Option (List Byte) :=
  ((List.range (d.lay.groups.length / 256)).map (fun g => slice d.lay.groups (256 * g) 256)).find?
    (fun e => le e 0 2 == a && a != 0xFFFF)

/-- A packet leaves an engine. The sluice holds it until an injection slot of its bay is open: of 16 in a row the first L;
VC0 and VC2 packets are never held (R381). DESIGN CHOICE, log 62. -/
def offer (p : Pkt) : M d0 Unit := do
  let d ← dev
  let l := 4 * p.bay
  let k := d.link l
  let level := d.fld (R.FAB_SLUICE_LEVEL p.bay)
  if finalVc p 0 = 0 ∨ finalVc p 0 = 2 ∨ (16 ≤ level ∧ k.hold.isEmpty) then ingress p
  else if k.hold.isEmpty ∧ k.slot < level then
    modLink l (fun k => { k with slot := (k.slot + 1) % 16 })
    ingress p
  else modLink l (fun k => { k with hold := k.hold ++ [p] })

/-- An injection slot of bay `b` passes, and takes the packet that waits for it (R381). -/
def slotPass (b : Nat) : M d0 Unit := do
  let d ← dev
  let k := d.link (4 * b)
  let level := d.fld (R.FAB_SLUICE_LEVEL b)
  if 16 ≤ level ∧ k.hold.isEmpty then return
  let go := k.hold.take (if k.slot < level then 1 else 0)
  modLink (4 * b) (fun k => { k with slot := (k.slot + 1) % 16, hold := k.hold.drop go.length })
  each go ingress

/-- Inject one unicast packet from bay `b` of yard `y`; false when it needs a tag and the yard cannot make one.
DEDUCED, log 43. -/
def injectOne (y b : Nat) (p : Pkt) : M d0 Bool := do
  if p.tag then
    match ← takeFabNonce y b with
    | none => return false
    | some n =>
      let q := { p with nonce := n }
      offer (match ((← dev).yard y).keys with
        | some k => q.sealed k
        | none => q)
    return true
  else
    offer p
    return true

/-- Inject a packet from bay `b` of yard `y`, one copy for each member when its DST is a group of the yard (R370). -/
def inject (y b : Nat) (p : Pkt) : M d0 Bool := do
  let d ← dev
  match d.group p.dst with
  | none => injectOne y b p
  | some g =>
    if le g 2 1 ≠ y then
      bump R.FAB_GROUP_DISCARD 1
      return true
    let rs ← gather ((List.range (le g 3 1)).map (fun i => le g (0x80 + 2 * i) 2)) (fun m => injectOne y b { p with dst := m })
    return rs.all id

/-! ### Link state changes -/

/-- Enter a link state. -/
def setLink (l s : Nat) : M d0 Unit := wr (R.FAB_PORT_STATE_STATE l) s

/-- A link that restarts: FSEQ and CREDIT at 0, nothing unacknowledged, no HELLO; queued packets wait, and the scheduler's
orders and counters stay. -/
def Link.restarted (k : Link) : Link :=
  { Link.reset with queue := k.queue.filter (fun p => p.vc != 7), deficitT := k.deficitT, deficitL := k.deficitL,
                    groupOrder := k.groupOrder, bayOrder := k.bayOrder, bayLeft := k.bayLeft, vcNext := k.vcNext,
                    sample := k.sample, slot := k.slot, hold := k.hold }

/-- Enter TRAIN: from a state other than DOWN, FSEQ and CREDIT restart at 0 (R362, R475). -/
def enterTrain (l : Nat) : M d0 Unit := do
  let st := (← dev).linkState l
  modLink l (fun k => if st = 4 then { k with trained := false } else k.restarted)
  setLink l 1
  wr (R.FAB_PORT_PEER l) 0
  wr (R.FAB_PORT_STATE_TRAINED l) 0
  recount
  emit (.linkTrain l)

/-- A packet taken back from a link's output to be routed again: it has not crossed the link. -/
def Pkt.takenBack (sent : Bool) (p : Pkt) : Pkt := { p with hops := p.hops - 1, inl := if sent then 48 else p.inl }

/-! ### Frames (R358 to R360) -/

/-- A frame as it goes out: its flits, IDLE flits behind them, and the trailer with ACK, NAK and CREDIT as they stand now. -/
def Link.wire (k : Link) (nak : Bool) (f : TxFrame) : List Byte :=
  let flits := fitBytes 1024 f.flits
  flits ++ trailerBytes f.fseq ((k.rxNext + 4095) % 4096) nak k.freed flits

/-- Frames on the wire, in order: the first trailer carries a NAK that is due. -/
def Link.wires (k : Link) (l : Nat) (fs : List TxFrame) : List Out :=
  (List.zip (List.range fs.length) fs).map (fun e => .frame l (k.wire (k.nakDue && e.1 == 0) e.2))

/-- Send new frames with these flits, the last of them with the end of packet `p`; with no flits, one frame of IDLE flits.
The sender keeps them until they are acknowledged (R359). -/
def sendFrames (l : Nat) (flits : List Byte) (p : Option Pkt) : M d0 Unit := do
  let k := (← dev).link l
  let n := max 1 (ceilDiv flits.length 1024)
  let fs := (List.range n).map (fun i =>
    { fseq := (k.txSeq + i) % 4096, pkts := if i + 1 = n then p.toList else [], flits := slice flits (1024 * i) 1024 : TxFrame })
  act (.link l { k with txSeq := (k.txSeq + n) % 4096, unacked := k.unacked ++ fs, nakDue := false })
  each (k.wires l fs) emit

/-- Whether the unacknowledged frames leave room for `n` flits more (R359). -/
def Link.room (k : Link) (n : Nat) : Bool := decide (k.unacked.length + ceilDiv n 16 ≤ 256)

/-- Send every unacknowledged frame again (R359). -/
def sendAgain (l : Nat) : M d0 Unit := do
  let k := (← dev).link l
  act (.link l { k with nakDue := false })
  each (k.wires l k.unacked) emit

/-- Send a frame of IDLE flits, where the unacknowledged frames leave room for it (R360). -/
def sendIdle (l : Nat) : M d0 Unit := do
  if ((← dev).link l).room 1 then sendFrames l [] none else pure ()

/-- Whether a packet is of the transit group of a link (R380): on a FABRIC link VC5, VC6 and forwarded VC3 and VC4. -/
def ofTransit (fabric : Bool) (p : Pkt) : Bool :=
  fabric && (p.vc == 5 || p.vc == 6 || (p.transit && (p.vc == 3 || p.vc == 4)))

/-- Whether a link may send a packet now: it has credit, and its frames keep the unacknowledged ones within 256 (R359). -/
def Link.ready (k : Link) (p : Pkt) : Bool := k.creditFor p && k.room (1 + p.flits)

/-- The VC after `v` in its turn. -/
def vcAfter (v : Nat) : Nat := if v = 2 then 1 else if v = 1 then 3 else if v = 3 then 4 else 2

/-- Send packet `p` of link `l` in the next frames. DESIGN CHOICE, log 49. -/
def sendPkt (l : Nat) (p : Pkt) : M d0 Unit := do
  let k := (← dev).link l
  let apart := ofTransit (((← dev).linkCfg l).role == 2) p || p.vc == 0 || p.vc == 7
  act (.link l { k with
    queue := k.queue.erase p
    used := k.used.set p.vc ((k.used.getD p.vc 0 + 1 + p.flits) % 2 ^ 16)
    vcNext := if apart then k.vcNext else k.vcNext.set p.bay (vcAfter p.vc)
    bayLeft := if apart then k.bayLeft else k.bayLeft.set p.bay (k.bayLeft.getD p.bay 0 - (1 + p.flits)) })
  emit (if p.vc = 7 then .linkMgmt l (p.body.getD 0 0).toNat p.body else .link l p)
  sendFrames l p.flitBytes (some p)
  bump (R.TEL_TX_PKTS l) 1
  bump (R.TEL_TX_FLITS l) (1 + p.flits)
  freeInput p
  sample l 1 p
  recount

/-- The body of a MGMT packet of this W48 on link `l` (R368). -/
def Dev.mgmtBytes (d : Dev) (l kind : Nat) : List Byte :=
  beBytes 1 kind ++ [1] ++ beBytes 2 (d.addrOf (l / 4)) ++ ([16, 268, 268, 268, 268, 268, 268, 8].flatMap (beBytes 2)) ++
    beBytes 1 (d.linkCfg l).role ++ zeros 11

/-- The HELLO this W48 sends on link `l` (R368). -/
def Dev.helloBytes (d : Dev) (l : Nat) : List Byte := d.mgmtBytes l 1

/-- A MGMT packet of this W48 on link `l`, or, with `rx`, of the far end at `peer`. R368 gives it no addresses: it bears those of
the two ends. DESIGN CHOICE, log 56. -/
def Dev.mgmtPkt (d : Dev) (l peer : Nat) (rx : Bool) (body : List Byte) : Pkt :=
  let own := d.addrOf (l / 4)
  { mkPkt 0x70 (if rx then own else peer) (if rx then peer else own) (l / 4) false body [] with vc := 7, hops := 1 }

/-- Send a MGMT packet on link `l` (R368): at once, or when VC7 has credit for it. A newer one of a kind replaces an older. -/
def sendMgmt (l : Nat) (body : List Byte) : M d0 Unit := do
  let d ← dev
  let k := d.link l
  let p := d.mgmtPkt l (d.linkCfg l).peer false body
  if k.ready p then sendPkt l p
  else act (.link l { k with queue := k.queue.filter (fun q => q.vc != 7 || q.body.take 1 != p.body.take 1) ++ [p], quiet := false })

/-- A MGMT packet from `peer` has come in on link `l` and is consumed (R361, R368, R385). -/
def takeMgmt (l peer kind : Nat) : M d0 Unit := do
  let d ← dev
  bump (R.TEL_RX_PKTS l) 1
  sample l 0 (d.mgmtPkt l peer true (beBytes 1 kind))
  modLink l (fun k => { k with freed := k.freed.set 7 ((k.freed.getD 7 0 + 1) % 2 ^ 16) })

/-- Send a DOWN_NOTICE on a link that is UP (R362). -/
def downNotice (l : Nat) : M d0 Unit := do
  let d ← dev
  if d.linkState l = 3 then sendMgmt l (d.mgmtBytes l 2) else pure ()

/-- A link becomes DEAD: its queued packets are discarded, their input buffers return (R383), and held packets are
routed again. -/
def linkDead (l : Nat) : M d0 Unit := do
  let k := (← dev).link l
  setLink l 5
  bump R.FAB_DEAD_DISCARD (k.queue.filter (fun p => p.vc != 7)).length
  each k.queue freeInput
  modLink l (fun k => { k with queue := [], unacked := [], trained := false })
  pfEvent R.FAB_EVENTS R.FAB_IRQ 0 0
  reroute

/-- Send every unacknowledged frame again (R359). After 8 replays in a row without progress an UP link goes DOWN (R362). -/
def replay (l : Nat) : M d0 Unit := do
  let d ← dev
  let k := d.link l
  if k.unacked.isEmpty then return
  if 8 ≤ k.replays ∧ d.linkState l = 3 then
    modLink l (fun k => { k with replays := 0, trained := false })
    setLink l 4
  else
    modLink l (fun k => { k with replays := k.replays + 1 })
    bump (R.TEL_REPLAYS l) 1
    sendAgain l

/-- Advance of a 12-bit frame sequence from `a` to `b`. -/
def fseqGap (a b : Nat) : Nat := (b + 4096 - a) % 4096

/-- FRAME_RECEIVED (R359): accept the next frame in order, discard any other and ask once for a replay. What the link sends
next carries the answer in its trailer. -/
def execFrameReceived (l : Nat) (f : FrameTrailer) (s : State) : Host.Outcome State Fault Refusal :=
  perform s do
    let d ← dev
    let st := d.linkState l
    if !(st = 2 ∨ st = 3 ∨ st = 6) ∨ 48 ≤ l then return
    let k := d.link l
    if !f.good then bump (R.TEL_CRC_ERR l) 1 else pure ()
    if !f.good || f.fseq != k.rxNext then
      if !k.nakSent then act (.link l { k with nakSent := true, nakDue := true }) else pure ()
      return
    let adv := fseqGap k.acked f.ack
    let isNew := decide (adv ≤ k.unacked.foldl (fun n g => max n (fseqGap k.acked g.fseq)) 0) && adv != 0
    let left := if isNew then k.unacked.filter (fun g => decide (adv < fseqGap k.acked g.fseq)) else k.unacked
    act (.link l { k with rxNext := (k.rxNext + 1) % 4096, nakSent := false, acked := if isNew then f.ack else k.acked,
                          unacked := left, replays := if isNew then 0 else k.replays, credit := f.credit })
    bump (R.TEL_RX_FLITS l) f.flits
    recount
    if f.nak then replay l else pure ()

/-- REPLAY_TIMER_EXPIRY (R359): 4 µs without a new ACK. -/
def execReplayTimerExpiry (l : Nat) (s : State) : Host.Outcome State Fault Refusal :=
  perform s do
    let st := (← dev).linkState l
    if st = 2 ∨ st = 3 ∨ st = 6 then replay l else pure ()

/-- LINK_TRAINED (R362): lanes aligned and FEC locked. A lane reversal is taken only where the layout allows it (R35).
In DEAD and PEER_ERR only TRAINED shows it; in DOWN the link waits for a HELLO of the same peer. -/
def execLinkTrained (l : Nat) (reversed : Bool) (s : State) : Host.Outcome State Fault Refusal :=
  perform s do
    let d ← dev
    if reversed && !(d.linkCfg l).reversal then return
    match d.linkState l with
    | 1 =>
      setLink l 2
      wr (R.FAB_PORT_STATE_REVERSED l) (b2n reversed)
      sendMgmt l (d.helloBytes l)
    | 4 =>
      modLink l (fun k => { k with trained := true })
      sendMgmt l (d.helloBytes l)
    | 5 | 6 => wr (R.FAB_PORT_STATE_TRAINED l) 1
    | _ => pure ()

/-- Whether a HELLO is accepted on a link (R361, R363). -/
def helloOk (c : LinkCfg) (h : Hello) : Bool :=
  let need : List Nat := if c.role = 2 then [1, 67, 67, 65, 65, 67, 67, 1] else [1, 67, 67, 65, 0, 0, 0, 1]
  (c.peer == 0xFFFF || h.addr == c.peer) &&
  (if c.role = 1 then h.device == 2 else h.device == 1 || h.device == 3) &&
  (List.zip h.buf need).all (fun p => decide (p.2 ≤ p.1))

/-- HELLO (R363): in INIT it decides between UP and PEER_ERR; in DOWN, after retraining and from the same peer, it
resumes the link with replay; in any other state it replaces the last one (R368). -/
def execHello (l : Nat) (h : Hello) (s : State) : Host.Outcome State Fault Refusal :=
  perform s do
    let d ← dev
    let c := d.linkCfg l
    if d.linkState l = 2 ∨ d.linkState l = 3 ∨ d.linkState l = 4 ∨ d.linkState l = 6 then takeMgmt l h.addr 1 else pure ()
    match d.linkState l with
    | 2 =>
      wr (R.FAB_PORT_PEER l) (h.addr + 2 ^ 16 * h.device)
      if helloOk c h then
        modLink l (fun k => { k with hello := some h, peerBuf := h.buf })
        setLink l 3
        reroute
      else
        let back := ((← dev).link l).queue.filter (fun p => p.vc != 7)
        modLink l (fun k => { k with hello := some h, peerBuf := h.buf, queue := k.queue.filter (fun p => p.vc == 7) })
        setLink l 6
        each (back.map (Pkt.takenBack false)) route
        reroute
    | 4 =>
      let k := (← dev).link l
      let same := match k.hello with
        | some o => o.addr == h.addr && o.device == h.device
        | none => false
      if k.trained && same then
        act (.link l { k with trained := false, replays := 0 })
        setLink l 3
        sendAgain l
        reroute
      else pure ()
    | 3 | 6 =>
      wr (R.FAB_PORT_PEER l) (h.addr + 2 ^ 16 * h.device)
      modLink l (fun k => { k with hello := some h })
    | _ => pure ()

/-- DOWN_NOTICE (R362). -/
def execDownNotice (l : Nat) (s : State) : Host.Outcome State Fault Refusal :=
  perform s do
    if (← dev).linkState l = 3 then
      takeMgmt l ((← dev).fld (R.FAB_PORT_PEER l) % 2 ^ 16) 2
      modLink l (fun k => { k with trained := false })
      setLink l 4
    else pure ()

/-- FEC_LOCK_LOST (R362). -/
def execFecLockLost (l : Nat) (s : State) : Host.Outcome State Fault Refusal :=
  perform s do
    if (← dev).linkState l = 3 then
      modLink l (fun k => { k with trained := false })
      setLink l 4
    else pure ()

/-- DOWN_TIMEOUT (R362, R383): 64 µs have passed in DOWN. -/
def execDownTimeout (l : Nat) (s : State) : Host.Outcome State Fault Refusal :=
  perform s do
    if (← dev).linkState l = 4 then linkDead l else pure ()

/-- REVIVE (R362): FAB_PORT_CTRL 1 returns a DEAD or PEER_ERR link to TRAIN. -/
def reviveDo (l : Nat) : M d0 Unit := do
  let d ← dev
  let st := d.linkState l
  if d.pfOk && (st == 5 || st == 6) then enterTrain l else pure ()

@[inherit_doc reviveDo] def execRevive (l : Nat) (s : State) : Host.Outcome State Fault Refusal := perform s (reviveDo l)

/-- RETRAIN (R386): FAB_PORT_CTRL 2 takes a link from UP to TRAIN. -/
def retrainDo (l : Nat) : M d0 Unit := do
  let d ← dev
  if d.pfOk && d.linkState l == 3 then enterTrain l else pure ()

@[inherit_doc retrainDo] def execRetrain (l : Nat) (s : State) : Host.Outcome State Fault Refusal := perform s (retrainDo l)

/-! ### Packets in transit (R373) -/

/-- TRANSIT_PACKET (R373): a packet that arrives on link `l` and is not addressed to this W48.
DESIGN CHOICE, log 56. -/
def execTransitPacket (l : Nat) (h : TransitHdr) (bytes : List Byte) (s : State) : Host.Outcome State Fault Refusal :=
  perform s do
    let d ← dev
    if d.linkState l ≠ 3 then return
    let c := d.linkCfg l
    let p : Pkt := { typ := h.typ, ce := h.ce, tag := h.tag, vc := h.vc, flits := h.flits, pad := h.pad, dst := h.dst,
                     src := h.src, rank := h.rank, hops := h.hops, nonce := h.nonce, body := h.body, payload := bytes,
                     bay := l / 4, transit := c.role == 2, inl := l, inVc := h.vc, mac := h.mac }
    bump (R.TEL_RX_PKTS l) 1
    sample l 0 p
    if h.typ = 0x70 ∧ h.flits = 0 then
      freeInput p
      return
    if !typeFlitsOk h.typ h.flits then
      bump R.FAB_NOROUTE 1
      freeInput p
      return
    if c.role ≠ 2 then
      ingress p
      return
    match d.bayAt h.dst with
    | some b => deliver b p
    | none =>
      let e := routeEntry d.lay.active h.dst
      let set : Option Nat := if h.vc = 3 ∨ h.vc = 5 then some 0 else if h.vc = 4 ∨ h.vc = 6 then some 1 else none
      match set with
      | none =>
        bump R.FAB_NOROUTE 1
        freeInput p
      | some k =>
        if !bit (ef e 2) 0 then
          bump R.FAB_NOROUTE 1
          freeInput p
        else if ef e (3 + k) = 0xFF ∨ ef e (3 + k) < h.rank then
          bump R.FAB_RANK_ERR 1
          pfEvent R.FAB_EVENTS R.FAB_IRQ 1 1
          freeInput p
        else route p

/-! ### The frame scheduler (R380) -/

/-- The first packet of a VC of a source in a queue. -/
def headOf (q : List Pkt) (f : Pkt → Bool) : Option Pkt := q.find? f

/-- Rounds of deficit round robin until `size` is covered. -/
def rounds (deficit : Int) (w size : Nat) : Nat := if (size : Int) ≤ deficit then 0 else ceilDiv ((size : Int) - deficit).toNat (max 1 w)

/-- The order of VCs within a bay, starting at the one whose turn it is (R380). -/
def vcTurn (next : Nat) : List Nat :=
  if next = 1 then [1, 3, 4, 2] else if next = 3 then [3, 4, 2, 1] else if next = 4 then [4, 2, 1, 3] else [2, 1, 3, 4]

/-- The local packet of bay `b` that a link would send next: the bay's VCs in turn. -/
def Link.bayNext (k : Link) (fabric : Bool) (b : Nat) : Option Pkt :=
  (vcTurn (k.vcNext.getD b 2)).findSome? (fun v =>
    (headOf k.queue (fun p => !ofTransit fabric p && p.bay == b && p.vc == v)).filter (fun p => k.ready p))

/-- Whose turn the local group is at: the bays in order with the one in service first, the flits each has left, and what it
sends: a packet; or, with none that may go, the rest of the turn of a bay that SHARE_STRICT holds open. -/
structure LocalTurn where
  order : List Nat
  left : List Nat
  pkt : Option Pkt
  held : Nat
deriving DecidableEq, Repr

/-- Find the local packet to send next: bays by equal weights in turn, 67 flits a turn, the largest packet (R29, R380). A bay
whose turn does not cover its packet keeps the rest for its next turn; one with nothing to send loses it, at once, or under
SHARE_STRICT when the turn has passed (R30). DESIGN CHOICE, log 49. -/
def Link.localTurn (k : Link) (fabric strict : Bool) : Nat → List Nat → List Nat → LocalTurn
  | 0, order, left => { order := order, left := left, pkt := none, held := 0 }
  | f + 1, order, left =>
    match order with
    | [] => { order := order, left := left, pkt := none, held := 0 }
    | b :: rest =>
      let next := rest.headD b
      match k.bayNext fabric b with
      | some p =>
        if 1 + p.flits ≤ left.getD b 0 then { order := order, left := left, pkt := some p, held := 0 }
        else k.localTurn fabric strict f (rest ++ [b]) (left.set next (left.getD next 0 + 67))
      | none =>
        if strict && left.getD b 0 != 0 then { order := order, left := left, pkt := none, held := left.getD b 0 }
        else
          let left := left.set b 0
          k.localTurn fabric strict f (rest ++ [b]) (left.set next (left.getD next 0 + 67))

/-- The local group's turn now. -/
def Link.turn (k : Link) (fabric strict : Bool) : LocalTurn := k.localTurn fabric strict 14 k.bayOrder k.bayLeft

/-- Whether a packet that is the next of its VC and bay lacks credit (R389). -/
def Link.stalled (k : Link) (fabric : Bool) : Bool :=
  k.queue.any (fun p => !k.creditFor p && headOf k.queue (fun q => ofTransit fabric q == ofTransit fabric p && q.vc == p.vc &&
    (ofTransit fabric p || q.bay == p.bay)) == some p)

/-- The transit packet a link would send next: the oldest of each VC, in queue order, that has credit. -/
def Link.transitNext (k : Link) (fabric : Bool) : Option Pkt :=
  k.queue.find? (fun p => ofTransit fabric p && k.ready p &&
    (headOf k.queue (fun q => ofTransit fabric q && q.vc == p.vc)) == some p)

/-- The rest of a turn that SHARE_STRICT holds open passes: nothing of the local group goes (R30). -/
def turnPasses (l : Nat) (q : LocalTurn) : M d0 Unit := do
  let b := q.order.headD 0
  let next := (q.order.drop 1).headD b
  let left := q.left.set b 0
  modLink l (fun k => { k with bayOrder := q.order.drop 1 ++ q.order.take 1, bayLeft := left.set next (left.getD next 0 + 67) })
  sendIdle l

/-- The local group sends: its packet, or the rest of an open turn passes. -/
def sendLocal (l : Nat) (q : LocalTurn) : M d0 Unit := do
  match q.pkt with
  | some p =>
    modLink l (fun k => { k with bayOrder := q.order, bayLeft := q.left })
    sendPkt l p
  | none => turnPasses l q

/-- Choose between the transit and the local group (R380): by deficit round robin in flits, a tie settled by R19. An empty
group yields its turns; an open turn of a bay with nothing to send is no empty group (R30). With neither, the link sends a
frame of IDLE flits (R360). -/
def pickGroup (l : Nat) : M d0 Unit := do
  let d ← dev
  let k := d.link l
  let share := d.fld R.FAB_TRANSIT % 16
  let fabric := (d.linkCfg l).role == 2
  let q := k.turn fabric d.lay.cur.strict
  let size := match q.pkt with
    | some o => 1 + o.flits
    | none => q.held
  match k.transitNext fabric with
  | none =>
    modLink l (fun k => { k with deficitT := 0 })
    if size = 0 then sendIdle l else sendLocal l q
  | some t =>
    if size = 0 then
      modLink l (fun k => { k with deficitL := 0 })
      sendPkt l t
    else
      let rt := rounds k.deficitT share (1 + t.flits)
      let ro := rounds k.deficitL (16 - share) size
      let r : Int := (min rt ro : Nat)
      let dt := k.deficitT + r * share
      let dl := k.deficitL + r * ((16 - share : Nat) : Int)
      let transitFirst := if rt = ro then k.groupOrder.head? == some 0 else decide (rt < ro)
      let order := if rt = ro then rotate k.groupOrder (if transitFirst then 0 else 1) else k.groupOrder
      modLink l (fun k => { k with groupOrder := order })
      if transitFirst then
        modLink l (fun k => { k with deficitT := dt - (1 + t.flits : Nat), deficitL := dl })
        sendPkt l t
      else
        modLink l (fun k => { k with deficitT := dt, deficitL := dl - (size : Nat) })
        sendLocal l q

/-- FRAME_SCHEDULER_PICK (R380): a link chooses and sends its next packet: VC7, then VC0, by strict priority, then the transit
and the local group; where nothing is ready, IDLE flits (R360). In INIT and PEER_ERR it carries VC7 only (R362), and the links
of a RAKING bay send no more than that (R442). DESIGN CHOICE, log 49. -/
def execFrameSchedulerPick (l : Nat) (s : State) : Host.Outcome State Fault Refusal :=
  perform s do
    let st := (← dev).linkState l
    if !(st = 2 ∨ st = 3 ∨ st = 6) ∨ 48 ≤ l then return
    slotPass (l / 4)
    let d ← dev
    let k := d.link l
    let only7 := st ≠ 3 ∨ d.bayState (l / 4) = 2
    if !only7 && k.stalled ((d.linkCfg l).role == 2) then bump (R.TEL_CREDIT_STALL l) 1 else pure ()
    match (headOf k.queue (fun p => p.vc == 7)).filter (fun p => k.ready p) with
    | some p => sendPkt l p
    | none =>
      if only7 then sendIdle l
      else match (headOf k.queue (fun p => p.vc == 0)).filter (fun p => k.ready p) with
        | some p => sendPkt l p
        | none => pickGroup l

/-! ### Drain and swap (R375 to R377) -/

/-- State of the shadow table (R375). -/
def Dev.tblState (d : Dev) : Nat := d.fld R.FAB_RT_STATUS_STATE

/-- A table command ends. -/
def tblEnd : M d0 Unit := pfEvent R.FAB_EVENTS R.FAB_IRQ 3 3

/-- Show the active table's datelines and channel ranks in registers (R386). -/
def showActive : M d0 Unit := do
  let t := (← dev).lay.active
  wr R.FAB_DATELINE (le t 8 8 % 2 ^ 48)
  each (List.range 48) (fun l => do
    wr (R.FAB_PORT_STATE_RANK0 l) (chRank t l 0)
    wr (R.FAB_PORT_STATE_RANK1 l) (chRank t l 1))

/-- LOAD_SHADOW (R375): start the fetch of a table image. -/
def loadShadowDo : M d0 Unit := do
  let d ← dev
  if !d.pfOk then return
  let st := d.tblState
  if st = 0 ∨ st = 2 ∨ st = 3 then
    wr R.FAB_RT_STATUS_STATE 1
    emit (.hostRead 0 (d.fld R.FAB_TBL_ADDR) routeBytes)
  else wr R.FAB_RT_STATUS_CMD_ERR 1

@[inherit_doc loadShadowDo] def execLoadShadow (s : State) : Host.Outcome State Fault Refusal := perform s (loadShadowDo)

/-- SHADOW_LOAD_DONE (R372, R375): the fetched image is checked. DESIGN CHOICE, log 58. -/
def execShadowLoadDone (data : Option (List Byte)) (s : State) : Host.Outcome State Fault Refusal :=
  perform s do
    let d ← dev
    if d.tblState ≠ 1 then return
    match d.pfFetched data with
    | none =>
      wr R.FAB_RT_DETAIL 0
      wr R.FAB_RT_STATUS_STATE 3
    | some t =>
      match routeBad t d.lay.cur.links d.lay.cur.addr with
      | some bad =>
        wr R.FAB_RT_DETAIL bad.1
        wr R.FAB_RT_STATUS_STATE 3
      | none =>
        modLay (fun y => { y with shadow := t })
        wr R.FAB_RT_STATUS_STATE 2
    tblEnd

/-- DRAIN (R376): from STAGED, hold every packet for an affected destination at ingress. DESIGN CHOICE, log 58. -/
def drainDo : M d0 Unit := do
  let d ← dev
  if !d.pfOk then return
  match d.tblState with
  | 2 =>
    wr R.FAB_RT_STATUS_STATE 4
    act (.fab d.fab.held true d.fab.sampleSeq)
    recount
    tblEnd
  | 4 | 5 | 6 => pure ()
  | _ => wr R.FAB_RT_STATUS_CMD_ERR 1

@[inherit_doc drainDo] def execDrain (s : State) : Host.Outcome State Fault Refusal := perform s (drainDo)

/-- DRAIN_COUNT_ZERO (R375). DESIGN CHOICE, log 58. -/
def execDrainCountZero (s : State) : Host.Outcome State Fault Refusal :=
  perform s do
    let d ← dev
    if d.tblState = 4 ∧ d.fld R.FAB_DRAIN_COUNT = 0 then
      wr R.FAB_RT_STATUS_STATE 5
      pfEvent R.FAB_EVENTS R.FAB_IRQ 2 2
    else pure ()

/-- SWAP (R376): exchange the tables when nothing affected is in flight. DESIGN CHOICE, log 18. -/
def swapDo : M d0 Unit := do
  let d ← dev
  if !d.pfOk then return
  match d.tblState with
  | 5 =>
    if d.fld R.FAB_DRAIN_COUNT ≠ 0 then wr R.FAB_RT_STATUS_CMD_ERR 1
    else
      act (.lay { d.lay with active := d.lay.shadow, shadow := d.lay.active })
      showActive
      wr R.FAB_RT_STATUS_STATE 6
      tblEnd
  | _ => wr R.FAB_RT_STATUS_CMD_ERR 1

@[inherit_doc swapDo] def execSwap (s : State) : Host.Outcome State Fault Refusal := perform s (swapDo)

/-- TBL_RELEASE (R375, R376): back to IDLE; holds are lifted and held packets are routed under the table now active. -/
def tblReleaseDo : M d0 Unit := do
  let d ← dev
  if !d.pfOk then return
  match d.tblState with
  | 0 => pure ()
  | 1 => wr R.FAB_RT_STATUS_CMD_ERR 1
  | _ =>
    wr R.FAB_RT_STATUS_STATE 0
    act (.fab d.fab.held false d.fab.sampleSeq)
    wr R.FAB_DRAIN_COUNT 0
    reroute
    tblEnd

@[inherit_doc tblReleaseDo] def execTblRelease (s : State) : Host.Outcome State Fault Refusal := perform s (tblReleaseDo)

/-- DUMP_ACTIVE (R387). -/
def dumpActiveDo : M d0 Unit := do
  let d ← dev
  if !d.pfOk then return
  pfWr (d.fld R.FAB_TBL_ADDR) (d.lay.active ++ zeros (routeBytes - d.lay.active.length))
  tblEnd

@[inherit_doc dumpActiveDo] def execDumpActive (s : State) : Host.Outcome State Fault Refusal := perform s (dumpActiveDo)

/-- An entry of a group image. -/
def groupAt (t : List Byte) (g : Nat) : List Byte := slice t (256 * g) 256

/-- The first group of an image that R387 refuses. -/
def groupsBad (d : Dev) (t : List Byte) : Option Nat :=
  let n := 3072
  let addrs := (List.range n).map (fun g => le (groupAt t g) 0 2)
  (List.range n).find? (fun g =>
    let e := groupAt t g
    let a := le e 0 2
    if a = 0xFFFF then !zeroAt e 2 254
    else
      let cnt := le e 3 1
      (addrs.take g).contains a || d.lay.cur.addr.contains a || !d.isYard (le e 2 1) || cnt == 0 || decide (64 < cnt) ||
      (List.range (min cnt 64)).any (fun i => let m := le e (0x80 + 2 * i) 2; m != 0xFFFF && addrs.contains m) ||
      !zeroAt e 4 0x7C || !zeroAt e (0x80 + 2 * cnt) (0x80 - 2 * cnt))

/-- LOAD_GROUPS (R387): the image is applied whole or refused whole. -/
def execLoadGroups (data : Option (List Byte)) (s : State) : Host.Outcome State Fault Refusal :=
  perform s do
    let d ← dev
    if !d.pfOk then return
    emit (.hostRead 0 (d.fld R.FAB_TBL_ADDR) 786432)
    match d.pfFetched data with
    | none => wr R.FAB_RT_STATUS_GRP_ERR 1
    | some t =>
      match groupsBad d t with
      | some g =>
        wr R.FAB_RT_STATUS_GRP_ERR 1
        wr R.FAB_RT_DETAIL g
      | none => modLay (fun y => { y with groups := t })
    tblEnd

/-- DUMP_GROUPS (R387). An image never loaded has every entry unused. -/
def dumpGroupsDo : M d0 Unit := do
  let d ← dev
  if !d.pfOk then return
  let unused := (List.range 3072).flatMap (fun _ => [0xFF, 0xFF] ++ zeros 254)
  pfWr (d.fld R.FAB_TBL_ADDR) (if d.lay.groups.isEmpty then unused else d.lay.groups)
  tblEnd

@[inherit_doc dumpGroupsDo] def execDumpGroups (s : State) : Host.Outcome State Fault Refusal := perform s (dumpGroupsDo)

/-! ### The sluice (R381) -/

/-- Flits that bay `b`'s engines have in output queues. -/
def Dev.backlog (d : Dev) (b : Nat) : Nat :=
  d.fab.links.foldl (fun n k => n + (k.queue.filter (fun p => p.bay == b && p.inl == 48 && !p.transit)).foldl (fun m p => m + 1 + p.flits) 0) 0

/-- SLUICE_PERIOD (R381): bay `b` compares its backlog with the thresholds. -/
def execSluicePeriod (b : Nat) (s : State) : Host.Outcome State Fault Refusal :=
  perform s do
    let d ← dev
    if 12 ≤ b then return
    let o := d.backlog b
    let lv := d.fld (R.FAB_SLUICE_LEVEL b)
    let mn := d.fld R.FAB_SLUICE_CTRL_MIN
    if 64 * d.fld R.FAB_SLUICE_CTRL_HI < o then wr (R.FAB_SLUICE_LEVEL b) (if mn < lv then lv - 1 else lv)
    else if o < 64 * d.fld R.FAB_SLUICE_CTRL_LO then wr (R.FAB_SLUICE_LEVEL b) (min 16 (lv + 1))
    else pure ()

end Sys2Proof.Machine
end

