-- ==== Sys2Proof/Machine/Xlat.lean ====
section
/-! DEFINITION. Address contexts, segments, windows, page faults and the memory tiers' own events (11). -/

namespace Sys2Proof.Machine

variable {d0 : Dev}

/-! ### Ranges and pools (R337) -/

/-- The disjoint union of ranges, rising: insert `[lo, hi)` into a list that is rising and disjoint. -/
def addRange (lo hi : Nat) : List (Nat × Nat) → List (Nat × Nat)
  | [] => [(lo, hi)]
  | (a, b) :: r =>
    if hi < a then (lo, hi) :: (a, b) :: r
    else if b < lo then (a, b) :: addRange lo hi r
    else addRange (min lo a) (max hi b) r

/-- Ranges of a tier that segments of yard `y` hold. -/
def Dev.segRanges (d : Dev) (y tier : Nat) : List (Nat × Nat) :=
  (d.ctxs.filter (fun e => decide (yk y 0 ≤ e.1) && decide (e.1 < yk (y + 1) 0))).flatMap (fun e =>
    (Tab.vals e.2.segs).filterMap (fun g => if g.tier = tier then some (g.yaddr, g.yaddr + g.len) else none))

/-- Ranges of a tier that POOLED buffers of the loaded plan hold (R99). -/
def Dev.poolRanges (d : Dev) (y tier : Nat) : List (Nat × Nat) :=
  match (d.yard y).plan with
  | none => []
  | some p => p.bufs.filterMap (fun b => if b.kind = 0 ∧ b.tier = tier then some (b.addr, b.addr + roundUp 4096 b.len) else none)

/-- Everything held in a tier, disjoint and rising. -/
def Dev.heldRanges (d : Dev) (y tier : Nat) : List (Nat × Nat) :=
  (d.segRanges y tier ++ d.poolRanges y tier).foldl (fun rs r => addRange r.1 r.2 rs) []

/-- Bytes of a list of disjoint ranges. -/
def rangeBytes (rs : List (Nat × Nat)) : Nat := rs.foldl (fun n r => n + (r.2 - r.1)) 0

/-- The lowest multiple of 4,096 at which `len` bytes fit below `cap` beside disjoint rising ranges. -/
def lowestFit (cap len : Nat) : Nat → List (Nat × Nat) → Option Nat
  | lo, [] => if lo + len ≤ cap then some lo else none
  | lo, (a, b) :: r => if lo + len ≤ a then some lo else lowestFit cap len (max lo (roundUp 4096 b)) r

/-- Show the pool bytes of a yard (R353). -/
def showPools (y : Nat) : M d0 Unit := do
  let d ← dev
  wr (R.XLT_POOL_LOFT y) (d.capacity y 0 - rangeBytes (d.heldRanges y 0))
  wr (R.XLT_POOL_NEAR y) (d.capacity y 1 - rangeBytes (d.heldRanges y 1))
  wr (R.XLT_POOL_FAR y) (d.capacity y 2 - rangeBytes (d.heldRanges y 2))

/-! ### Commands -/

/-- End an XLT command. -/
def xltDone (y code : Nat) : M d0 Unit := do
  wr (R.XLT_CMD_STATUS_BUSY y) 0
  wr (R.XLT_CMD_STATUS_RESULT y) code
  wr (R.XLT_CMD_STATUS_DONE y) 1

/-- Run an XLT command: ignored with CMD_ERR after a yard-fatal error (R463), YARD_FROZEN while frozen (R485); `f` reads
the descriptor and answers the result. A descriptor that cannot be read ends with LOCAL_PROTECTION.
DESIGN CHOICE, log 13. -/
def xltCmd (y : Nat) (desc : Option (List Byte)) (f : List Byte → M d0 Nat) : M d0 Unit := do
  let d ← dev
  if !(← yfReach y) then return
  if (d.yard y).fatal then wr (R.XLT_CMD_STATUS_CMD_ERR y) 1
  else if d.frozen y then xltDone y cYardFrozen
  else
    match ← fetchDesc y (d.fld (R.XLT_CMD_ADDR y)) 64 desc with
    | none => xltDone y cLocalProtection
    | some bs => xltDone y (← f bs)

/-- Contexts that yard `y` holds. -/
def Dev.ctxCount (d : Dev) (y : Nat) : Nat :=
  (d.ctxs.filter (fun e => decide (yk y 0 ≤ e.1) && decide (e.1 < yk (y + 1) 0))).length

/-- Entries of a table that belong to yard `y`, with their numbers. -/
def ofYard {α : Type} (t : Tab α) (y : Nat) : List (Nat × α) :=
  (t.filter (fun e => decide (yk y 0 ≤ e.1) && decide (e.1 < yk (y + 1) 0))).map (fun e => (e.1 - yk y 0, e.2))

/-- Whether something holds segment `sg` of context `pasid` (R338). -/
def Dev.segHeld (d : Dev) (y pasid sg : Nat) : Bool :=
  (match (d.yard y).plan with
    | none => false
    | some p => p.bufs.any (fun b => b.kind == 1 && b.pasid == pasid && b.seg == sg)) ||
  (ofYard d.wins y).any (fun w => w.2.state != 0 && w.2.kind == 0 && w.2.pasid == pasid && w.2.seg == sg) ||
  (ofYard d.rings y).any (fun r => [r.2.sq, r.2.rq].any (fun h => h.bound && h.inSeg && h.pasid == pasid && h.sg == sg)) ||
  (ofYard d.lists y).any (fun m => m.2.pasid == pasid && m.2.sg == sg)

/-- CTX_CREATE (R336). -/
def ctxCreateDo (y : Nat) (desc : Option (List Byte)) : M d0 Unit :=
  xltCmd y desc (fun bs => do
    let d ← dev
    let pasid := le bs 0 4
    if 2 ^ 20 ≤ pasid ∨ 2 ≤ le bs 4 1 ∨ !zeroAt bs 5 59 then return cLocalProtection
    if (Tab.find d.ctxs (yk y pasid)).isSome ∨ d.fld (R.XLT_CTX_COUNT y) ≤ d.ctxCount y then return cResourceRefused
    act (.ctx (yk y pasid) (some { host := bit (le bs 4 1) 0, segs := [] }))
    return cOk)

@[inherit_doc ctxCreateDo] def execCtxCreate (y : Nat) (desc : Option (List Byte)) (s : State) : Host.Outcome State Fault Refusal :=
  perform s (coreTake y (.ctxCreate y desc) (some (R.XLT_CMD_STATUS_BUSY y, R.XLT_CMD_STATUS_CMD_ERR y)) (ctxCreateDo y desc))

/-- CTX_DESTROY (R336, R338): refused while something holds one of its segments or a bound ring uses the context. -/
def ctxDestroyDo (y : Nat) (desc : Option (List Byte)) : M d0 Unit :=
  xltCmd y desc (fun bs => do
    let d ← dev
    let pasid := le bs 0 4
    if 2 ^ 20 ≤ pasid ∨ !zeroAt bs 4 60 then return cLocalProtection
    let ringUse := (ofYard d.rings y).any (fun r => [r.2.sq, r.2.rq].any (fun h => h.bound && h.pasid == pasid))
    if (Tab.find d.ctxs (yk y pasid)).isNone || ringUse || (List.range 8).any (fun g => d.segHeld y pasid g) then
      return cResourceRefused
    act (.ctx (yk y pasid) none)
    showPools y
    return cOk)

@[inherit_doc ctxDestroyDo] def execCtxDestroy (y : Nat) (desc : Option (List Byte)) (s : State) : Host.Outcome State Fault Refusal :=
  perform s (coreTake y (.ctxDestroy y desc) (some (R.XLT_CMD_STATUS_BUSY y, R.XLT_CMD_STATUS_CMD_ERR y)) (ctxDestroyDo y desc))

/-- SEG_SET (R336, R337). -/
def segSetDo (y : Nat) (desc : Option (List Byte)) : M d0 Unit :=
  xltCmd y desc (fun bs => do
    let d ← dev
    let pasid := le bs 0 4
    let g := le bs 4 1
    let tier := le bs 5 1
    let a := le bs 8 8
    let n := le bs 0x10 8
    if 2 ^ 20 ≤ pasid ∨ 8 ≤ g ∨ 3 ≤ tier ∨ a % 4096 ≠ 0 ∨ n % 4096 ≠ 0 ∨ n = 0 ∨ !zeroAt bs 6 2 ∨ !zeroAt bs 0x18 40 then
      return cLocalProtection
    match Tab.find d.ctxs (yk y pasid) with
    | none => return cResourceRefused
    | some c =>
      if (Tab.find c.segs g).isSome || decide (d.capacity y tier < a + n) ||
          (d.poolRanges y tier).any (fun r => decide (a < r.2) && decide (r.1 < a + n)) then return cResourceRefused
      act (.ctx (yk y pasid) (some { c with segs := Tab.put c.segs g { tier := tier, yaddr := a, len := n } }))
      showPools y
      return cOk)

@[inherit_doc segSetDo] def execSegSet (y : Nat) (desc : Option (List Byte)) (s : State) : Host.Outcome State Fault Refusal :=
  perform s (coreTake y (.segSet y desc) (some (R.XLT_CMD_STATUS_BUSY y, R.XLT_CMD_STATUS_CMD_ERR y)) (segSetDo y desc))

/-- SEG_CLEAR (R336, R338). -/
def segClearDo (y : Nat) (desc : Option (List Byte)) : M d0 Unit :=
  xltCmd y desc (fun bs => do
    let d ← dev
    let pasid := le bs 0 4
    let g := le bs 4 1
    if 2 ^ 20 ≤ pasid ∨ 8 ≤ g ∨ !zeroAt bs 5 59 then return cLocalProtection
    match Tab.find d.ctxs (yk y pasid) with
    | none => return cResourceRefused
    | some c =>
      if (Tab.find c.segs g).isNone || d.segHeld y pasid g then return cResourceRefused
      act (.ctx (yk y pasid) (some { c with segs := Tab.del c.segs g }))
      showPools y
      return cOk)

@[inherit_doc segClearDo] def execSegClear (y : Nat) (desc : Option (List Byte)) (s : State) : Host.Outcome State Fault Refusal :=
  perform s (coreTake y (.segClear y desc) (some (R.XLT_CMD_STATUS_BUSY y, R.XLT_CMD_STATUS_CMD_ERR y)) (segClearDo y desc))

/-! ### Windows (R347 to R351) -/

/-- Windows of a yard. -/
def Dev.winCount (d : Dev) (y : Nat) : Nat := 131072 * (d.baysOf y).length

/-- A window never created: FREE, generation 0. -/
def Win.blank : Win :=
  { pasid := 0, kind := 0, seg := 0, rights := 0, base := 0, len := 0, conn := 0, gen := 0, state := 0, inflight := 0,
    accepted := 0, aborted := false, desc := 0, raw := zeros 28 }

/-- A window. -/
def Dev.win (d : Dev) (y i : Nat) : Win := Tab.get d.wins (yk y i) Win.blank

/-- WIN_CREATE (R347): the index comes from the head of the queue of free indices, never-used ones first. -/
def winCreateDo (y : Nat) (desc : Option (List Byte)) : M d0 Unit :=
  xltCmd y desc (fun bs => do
    let d ← dev
    let pasid := le bs 0 4
    let kind := le bs 4 1
    let sg := le bs 5 1
    let base := le bs 8 8
    let n := le bs 0x10 8
    let conn := le bs 0x18 4
    if 2 ^ 20 ≤ pasid ∨ 2 ≤ kind ∨ (kind = 0 ∧ 8 ≤ sg) ∨ 16 ≤ le bs 6 1 ∨ !zeroAt bs 7 1 ∨ base % 64 ≠ 0 ∨ n % 64 ≠ 0 ∨ n < 64 ∨
        2 ^ 63 < n ∨ (conn ≠ 0xFFFFFF ∧ d.connCount y ≤ conn) ∨ !zeroAt bs 0x1C 36 then return cLocalProtection
    match Tab.find d.ctxs (yk y pasid) with
    | none => return cResourceRefused
    | some c =>
      if kind = 1 ∧ (c.host = false ∨ 2 ^ 64 < base + n) then return cLocalProtection
      if kind = 0 ∧ (d.segAt y pasid sg base n).isNone then return cLocalProtection
      let r := d.yard y
      let pick : Option (Nat × Yard) :=
        if r.winFresh < d.winCount y then some (r.winFresh, { r with winFresh := r.winFresh + 1 })
        else match r.winFree with
          | [] => none
          | i :: rest => some (i, { r with winFree := rest })
      match pick with
      | none => return cResourceRefused
      | some (i, r') =>
        let gen := ((d.win y i).gen + 1) % 256
        act (.yard y r')
        let w : Win :=
          { pasid := pasid, kind := kind, seg := sg, rights := le bs 6 1, base := base, len := n, conn := conn, gen := gen,
            state := 1, inflight := 0, accepted := 0, aborted := false, desc := 0, raw := bs.take 28 }
        act (.win (yk y i) (some w))
        wr (R.XLT_CMD_KEY y) (i * 256 + gen)
        bump (R.XLT_WIN_OPEN y) 1
        return cOk)

@[inherit_doc winCreateDo] def execWinCreate (y : Nat) (desc : Option (List Byte)) (s : State) : Host.Outcome State Fault Refusal :=
  perform s (coreTake y (.winCreate y desc) (some (R.XLT_CMD_STATUS_BUSY y, R.XLT_CMD_STATUS_CMD_ERR y)) (winCreateDo y desc))

/-- WIN_REVOKE (R349): the window the key names becomes CLOSING at one instant. -/
def winRevokeDo (y : Nat) (desc : Option (List Byte)) : M d0 Unit :=
  xltCmd y desc (fun bs => do
    let d ← dev
    if !zeroAt bs 4 60 then return cLocalProtection
    let i := le bs 1 3
    let w := d.win y i
    if d.winCount y ≤ i ∨ w.gen ≠ le bs 0 1 ∨ w.state ≠ 1 then return cRemoteAccess
    act (.win (yk y i) (some { w with state := 2, desc := d.fld (R.XLT_CMD_ADDR y) }))
    drop (R.XLT_WIN_OPEN y) 1
    bump (R.XLT_WIN_CLOSING y) 1
    return cOk)

@[inherit_doc winRevokeDo] def execWinRevoke (y : Nat) (desc : Option (List Byte)) (s : State) : Host.Outcome State Fault Refusal :=
  perform s (coreTake y (.winRevoke y desc) (some (R.XLT_CMD_STATUS_BUSY y, R.XLT_CMD_STATUS_CMD_ERR y)) (winRevokeDo y desc))

/-- REVOKE_COMPLETE (R349): with nothing in flight the window is FREE, and its completion is posted. -/
def execRevokeComplete (y idx : Nat) (s : State) : Host.Outcome State Fault Refusal :=
  perform s do
    let d ← dev
    let w := d.win y idx
    if w.state ≠ 2 ∨ w.inflight ≠ 0 then return
    act (.win (yk y idx) (some { w with state := 0 }))
    modYard y (fun r => { r with winFree := r.winFree ++ [idx] })
    drop (R.XLT_WIN_CLOSING y) 1
    hostBus y (w.desc + 8) (leBytes 1 (if w.aborted then cHostLost else cOk) ++ zeros 7 ++ leBytes 8 w.accepted)
    hostBus y w.desc [1]
    let q := d.fld (R.XLT_IRQ y)
    if bit q 0 then irqYard y (bits q 16 11) else pure ()

/-- WIN_QUERY (R351): the descriptor names the window by its key. -/
def winQueryDo (y : Nat) (desc : Option (List Byte)) : M d0 Unit :=
  xltCmd y desc (fun bs => do
    let d ← dev
    let i := le bs 1 3
    if d.winCount y ≤ i then return cRemoteAccess
    let w := d.win y i
    hostBus y (d.fld (R.XLT_CMD_ADDR y))
      (w.raw ++ zeros (32 - w.raw.length) ++ leBytes 1 w.state ++ leBytes 1 w.gen ++ zeros 2 ++ leBytes 4 w.inflight ++ zeros 24)
    return cOk)

@[inherit_doc winQueryDo] def execWinQuery (y : Nat) (desc : Option (List Byte)) (s : State) : Host.Outcome State Fault Refusal :=
  perform s (coreTake y (.winQuery y desc) (some (R.XLT_CMD_STATUS_BUSY y, R.XLT_CMD_STATUS_CMD_ERR y)) (winQueryDo y desc))

/-- FAULT_RESET (R344). -/
def faultResetDo (y : Nat) : M d0 Unit :=
  do
    let d ← dev
    if !(← yfReach y) then return
    if (d.yard y).fatal then wr (R.XLT_CMD_STATUS_CMD_ERR y) 1
    else if d.frozen y then xltDone y cYardFrozen
    else
      wr (R.XLT_STATUS_PRI_FAILED y) 0
      modYard y (fun r => { r with badPages := [] })
      xltDone y cOk

@[inherit_doc faultResetDo] def execFaultReset (y : Nat) (s : State) : Host.Outcome State Fault Refusal :=
  perform s (coreTake y (.faultReset y) (some (R.XLT_CMD_STATUS_BUSY y, R.XLT_CMD_STATUS_CMD_ERR y)) (faultResetDo y))

/-- XLT_LOFT_CLEAR (R353): bit 0 sets every conflict counter to 0. -/
def execXltLoftClear (y value : Nat) (s : State) : Host.Outcome State Fault Refusal :=
  perform s do
    if (← yfReach y) && bit value 0 then
      each (List.range 12) (fun k => each (List.range 10) (fun m => wr (R.XLT_LOFT_CONFLICT y k m) 0))
    else pure ()

/-! ### Faults (R341 to R346) -/

/-- What a fault leads to. -/
inductive FaultRes where
  | pending                  -- an entry waits for the host
  | full                     -- the queue is full (R345)
  | unresolved               -- ended at once (R344)
deriving DecidableEq, Repr

/-- Groups of page requests outstanding. -/
def Yard.groupsOut (r : Yard) : List Nat := (r.faults.map (fun f => f.grp)).eraseDups.filter (fun g => g != 0)

/-- Whether `len` bytes at `va` meet a page. -/
def onPage (page va len : Nat) : Bool := decide (va / 4096 ≤ page) && decide (page * 4096 < va + len)

/-- Whether an access meets a page whose translation is being invalidated: it waits for a new one (R340). -/
def Dev.invalidating (d : Dev) (y pasid va len : Nat) : Bool :=
  (d.yard y).inval.any (fun i => i.1 == pasid && onPage i.2.1 va (max 1 len))

/-- Send page request groups while credit lasts: in batched mode a group of up to 32 pages when `force` or when 32 wait,
otherwise one page each; no more groups than 512 or the host's allocation are outstanding (R341). -/
def sendFaults (y : Nat) (force : Bool) : M d0 Unit := do
  let d ← dev
  let r := d.yard y
  let waiting := r.faults.filter (fun f => f.grp == 0)
  let batched := bit (d.fld (R.XLT_FAULT_MODE y)) 0
  if waiting.isEmpty || decide (min 512 r.alloc ≤ r.groupsOut.length) || !d.canMaster y then return
  if batched && !force && decide (waiting.length < 32) then return
  let grp := 1 + r.groupsOut.foldl max 0
  let batch := waiting.take (if batched then 32 else 1)
  act (.yard y { r with faults := r.faults.map (fun f => if batch.contains f then { f with grp := grp } else f) })
  emit (.pageRequest (y + 1) (batch.map (fun f => (f.pasid, f.page, f.write))))

/-- Record an unresolved fault (R344): cause 1 Invalid Request, 2 Response Failure, 3 timeout or replay limit. -/
def logUnresolved (y pasid page : Nat) (write : Bool) (cause : Nat) : M d0 Unit := do
  wr (R.XLT_FAULT_LAST_ADDR y) (page * 4096)
  wr (R.XLT_FAULT_LAST_INFO y) (pasid + 2 ^ 20 * cause + 2 ^ 22 * b2n write)
  bump (R.XLT_FAULT_UNRESOLVED y) 1
  let q := (← dev).fld (R.XLT_IRQ y)
  if bit q 1 then irqYard y (bits q 16 11) else pure ()

/-- Take a fault on a page by an engine of bay `b` (R341 to R345). DESIGN CHOICE, log 42. -/
def takeFault (y b pasid page : Nat) (write : Bool) (who : Waiter) : M d0 FaultRes := do
  let d ← dev
  let r := d.yard y
  if d.on (R.XLT_STATUS_PRI_FAILED y) then
    logUnresolved y pasid page write 2
    return .unresolved
  if r.faults.any (fun f => f.pasid == pasid && f.page == page) then
    act (.yard y { r with faults := r.faults.map (fun f =>
      if f.pasid == pasid && f.page == page then
        { f with write := f.write || (write && f.grp == 0), late := f.late || (write && f.grp != 0 && !f.write), waiters := if f.waiters.contains who then f.waiters else f.waiters ++ [who] }
      else f) })
    bump (R.XLT_FAULT_COALESCED y) 1
    return .pending
  if 4096 ≤ (r.faults.filter (fun f => f.bay == b)).length then
    wr (R.XLT_STATUS_OVF y) 1
    bump (R.XLT_FAULT_OVF_COUNT y) 1
    return .full
  let e : FaultEnt :=
    { bay := b, pasid := pasid, page := page, write := write, grp := 0, waiters := [who], replays := 0,
      limit := d.fld (R.XLT_FAULT_CTRL_REPLAY_LIMIT y) }
  act (.yard y { r with faults := r.faults ++ [e] })
  bump (R.XLT_FAULTS y) 1
  bump (R.XLT_FAULT_PENDING y) 1
  sendFaults y false
  return .pending

/-- BATCH_TIME_EXPIRY (R341): the faults gathered so far are sent as a group. -/
def execBatchTimeExpiry (y : Nat) (s : State) : Host.Outcome State Fault Refusal :=
  perform s (sendFaults y true)

/-! ### Window checks (R348) -/

/-- What a window check answers. -/
inductive WinRes where
  | seg (tier a : Nat)         -- the target lies at a yard address
  | host (pasid va : Nat)      -- the target lies in host virtual memory
  | nak (code : Nat)
  | rnr
  | wait                       -- for an ATS translation, which has been requested (R346)
deriving DecidableEq, Repr

/-- The checks of R348 for a packet on connection `n` that needs right `right` (0 READ, 1 WRITE, 2 ATOMIC, 3 ADDW) on
`len` bytes at offset `off` of the window `wkey` names; `write` says that it writes. -/
def winCheck (y n right wkey off len : Nat) (write : Bool) (h : HostSide) : M d0 WinRes := do
  let d ← dev
  let i := wkey / 256
  let w := d.win y i
  if d.winCount y ≤ i then return .nak cRemoteAccess
  if w.gen ≠ wkey % 256 then return .nak cWindowStale
  if w.state ≠ 1 then return .nak cWindowClosed
  if w.conn ≠ 0xFFFFFF ∧ w.conn ≠ n then return .nak cRemoteAccess
  if !bit w.rights right then return .nak cRemoteAccess
  if w.len < off + len then return .nak cRemoteAccess
  if w.kind = 0 then
    match d.segAt y w.pasid w.seg (w.base + off) len with
    | some (t, a) => return .seg t a
    | none => return .nak cRemoteAccess
  if d.hostLost y then return .nak cTargetUnavailable
  if !d.canMaster y then return .rnr
  let va := w.base + off
  let page := va / 4096 + h.page
  match if d.invalidating y w.pasid va len then .waiting else h.xl with
  | .hit =>
    modYard y (fun r => { r with badPages := r.badPages.filter (fun p => !(p.pasid == w.pasid && p.page == page)) })
    return .host w.pasid va
  | .waiting =>
    emit (.atsRequest (y + 1) w.pasid page)
    return .wait
  | .fault =>
    if (d.yard y).badPages.contains { pasid := w.pasid, page := page } then return .nak cRemoteAccess
    match ← takeFault y (y + n / 6144) w.pasid page write .inbound with
    | .unresolved => return .nak cRemoteAccess
    | _ => return .rnr

/-- Change a window. -/
def modWin (y i : Nat) (f : Win → Win) : M d0 Unit := do act (.win (yk y i) (some (f ((← dev).win y i))))

/-- A packet passes the checks of a window: it counts in its life's total (R349). -/
def winAccept (y wkey : Nat) : M d0 Unit := modWin y (wkey / 256) (fun w => { w with accepted := w.accepted + 1 })

/-- Accesses in flight of a window: `n` more, or as many fewer as have ended (R348). -/
def winEnter (y i n : Nat) : M d0 Unit := modWin y i (fun w => { w with inflight := w.inflight + n })
def winLeave (y i : Nat) : M d0 Unit := modWin y i (fun w => { w with inflight := w.inflight - 1 })

/-! ### The tiers' own events (R332 to R334, R437) -/

/-- The yard address of a near block of a device, and its yard. -/
def Dev.nearBlock (d : Dev) (dv block : Nat) : Option (Nat × Nat) :=
  (d.yardOf (dv / 2)).map (fun y => (y, (block * (2 * (d.baysOf y).length) + (dv - 2 * y)) * 256))

/-- PATROL_SCRUB (R333): while EN is 1, one near block is read; a corrected one is rewritten and counted, an uncorrectable
one is logged and left. A pass begins with block 0 of device 0, or when none is under way, and takes the settings then
(R356). DESIGN CHOICE, log 63. -/
def execPatrolScrub (dv block : Nat) (r : BlockCheck) (s : State) : Host.Outcome State Fault Refusal :=
  perform s do
    let d ← dev
    if 24 ≤ dv then return
    if !bit d.ctl.scrub 0 ∨ (dv = 0 ∧ block = 0) then modCtl (fun c => { c with scrub := d.fld R.MEM_SCRUB_CTRL })
    else pure ()
    if !bit (← dev).ctl.scrub 0 then return
    match r with
    | .good => pure ()
    | .corrected =>
      bump R.MEM_CE_COUNT 1
      bumpSat (R.MEM_NEAR_DEV_CE dv)
    | .uncorrectable =>
      match d.nearBlock dv block with
      | some (y, a) =>
        markUc y 1 a
        logUc y 1 a
      | none =>
        bump R.MEM_UC_COUNT 1
        wr R.MEM_UC_LOG (1 + 4 * dv + 2 ^ 8 * (dv / 2))
        wr R.MEM_UC_OFFSET (nearData block)
        wr R.MEM_STATUS_UC 1
        irqPf (R.MEM_IRQ.sub 0 1) (R.MEM_IRQ.sub 16 6)
      wr (R.MEM_UC_LOG.sub 7 1) 1

/-- CXL_LINK_DOWN (R334): the port is lost until its link returns. A far overwrite of a rake in progress stays partial on
that port (R443). -/
def execCxlLinkDown (q : Nat) (s : State) : Host.Outcome State Fault Refusal :=
  perform s do
    let d ← dev
    if 16 ≤ q ∨ !d.on (R.MEM_FAR_PORT_LINK_UP q) then return
    wr (R.MEM_FAR_PORT_LINK_UP q) 0
    wr (R.MEM_FAR_PORT_IDE q) 0
    wr (R.CRP_CLK_STATUS.sub (16 + q) 1) 0
    modSec (fun c => { c with cxlKeys := c.cxlKeys.filter (fun e => e.1 != q) })
    wr R.MEM_STATUS_PORT_DOWN 1
    irqPf (R.MEM_IRQ.sub 1 1) (R.MEM_IRQ.sub 16 6)
    each d.yardList (fun y =>
      let r := d.yard y
      if d.bayState y == 2 && r.drained && r.rakeFar == some true && d.farPorts.contains q then
        wr (R.SEC_RAKE_STATUS_FAR_PARTIAL.sub y 1) 1
      else pure ())

/-- CXL_LINK_UP (R437): a device of `cap` GiB answers; the security processor draws and programs the link keys. -/
def execCxlLinkUp (q cap : Nat) (s : State) : Host.Outcome State Fault Refusal :=
  perform s do
    let d ← dev
    if 16 ≤ q ∨ d.ctl.tripped ∨ d.fld R.CRP_PSTATE_STATUS_STATE = 3 then return
    wr (R.MEM_FAR_PORT_LINK_UP q) 1
    wr (R.MEM_FAR_PORT_CAP q) cap
    wr (R.MEM_FAR_PORT_CAP_MATCH q) (b2n (cap == d.lay.cur.portCap))
    wr (R.MEM_FAR_PORT_IDE q) 1
    wr (R.CRP_CLK_STATUS.sub (16 + q) 1) 1
    modSec (fun c => { c with cxlKeys := (q, c.drbgIx) :: c.cxlKeys.filter (fun e => e.1 != q), drbgIx := c.drbgIx + 1 })
    emit (.cxlKeys q)

end Sys2Proof.Machine
end

