-- ==== Sys2Proof/Machine/PlanOps.lean ====
section
/-! DEFINITION. What a plan fixes about its steps: programs, banks, segments, chunks, operand ranges and the ops of a
communicator (R101 to R106, R131, R134 to R137, R165, R172, R173, R195, R222). -/

namespace Sys2Proof.Machine

/-! ### Steps and programs -/

/-- A type-specific field of a step: `n` bytes at offset `o` of the record (R104). -/
def Step.sp (st : Step) (o n : Nat) : Nat := le st.spec (o - 0x68) n

/-- Operand reference 0 to 2, or 3 for OUT. -/
def Step.ref (st : Step) (k : Nat) : OpRef :=
  match k with
  | 0 => st.in0
  | 1 => st.in1
  | 2 => st.in2
  | _ => st.out

/-- Step types (R103). -/
def tMove : Nat := 0x01
def tReduce : Nat := 0x02
def tGather : Nat := 0x03
def tSeal : Nat := 0x04
def tUpdate : Nat := 0x05
def tSelect : Nat := 0x06
def tDemand : Nat := 0x07
def tStream : Nat := 0x08
def tWait : Nat := 0x09
def tSignal : Nat := 0x0A
def tLoop : Nat := 0x0B

/-- The ring step types. -/
def Step.isRing (st : Step) : Bool := st.type == tReduce || st.type == tGather || st.type == tSeal || st.type == tUpdate

/-- The program a step names. -/
def Plan.prog (p : Plan) (st : Step) : Option Prog :=
  if st.prog = 0xFFFF then none else p.progs.find? (fun g => g.id == st.prog)

/-- The communicator declaration a step names. -/
def Plan.decl (p : Plan) (st : Step) : Option CommDecl := if st.comm = 0xFFFF then none else p.comms[st.comm]?

/-- The member number of a step (R101). -/
def Plan.memberOf (p : Plan) (st : Step) : Nat := ((p.decl st).map (fun c => c.pos)).getD p.member

/-- The weight of a step's turns (R159). -/
def Plan.weightOf (p : Plan) (st : Step) : Nat := ((p.decl st).map (fun c => c.weight)).getD 8

/-! ### Banks (R165) -/

/-- The bank pairs of a plan. -/
def Plan.pairs (p : Plan) : List (Nat × Nat) :=
  (p.steps.filter (fun st => st.type == tUpdate)).map (fun st => (st.sp 0x68 2, st.sp 0x6A 2))

/-- Whether a buffer is one of a bank pair. -/
def Plan.inPair (p : Plan) (b : Nat) : Bool := p.pairs.any (fun e => e.1 == b || e.2 == b)

/-- The buffer a reference to `b` designates while bit 0 of the step counter is `odd`. -/
def Plan.bank (p : Plan) (odd : Bool) (b : Nat) : Nat :=
  if !odd then b
  else match p.pairs.find? (fun e => e.1 == b || e.2 == b) with
    | none => b
    | some e => if e.1 = b then e.2 else e.1

/-! ### Sizes -/

/-- Element bytes of `n` elements of a format; bytes when there is none. -/
def elemBytes (f : Option Fmt) (n : Nat) : Nat :=
  match f with
  | none => n
  | some g => ceilDiv (g.bits * n) 8

/-- Scale bytes of `n` elements. -/
def scaleBytes (f : Option Fmt) (n : Nat) : Nat :=
  match f with
  | none => 0
  | some g => if g.isMx then ceilDiv n 32 else 0

/-- Length of a stream of `n` elements (R102). -/
def streamBytes (f : Option Fmt) (n : Nat) : Nat := elemBytes f n + scaleBytes f n

/-- Units of segment `k` of `Q` units in `N` segments (R134). -/
def segUnits (Q N k : Nat) : Nat := Q / N + b2n (decide (k < Q % N))

/-- First unit of segment `k`. -/
def segStart (Q N k : Nat) : Nat := k * (Q / N) + min k (Q % N)

/-- Length of a selected set of `n` elements (R195). -/
def selBytes (n : Nat) : Nat := 64 + 64 * ceilDiv n 16384 + 4 * n

/-- Length of a demand output (R222). -/
def demandBytes (accels experts : Nat) : Nat := 64 + roundUp 64 (ceilDiv accels 8 * experts)

/-- The wire format of a lap step; none for bytes (R135). -/
def Plan.wire (p : Plan) (st : Step) : Option Fmt := (p.prog st).bind (fun g => g.outFmt)

/-- Element bytes of a unit of 512 elements (R136). -/
def unitBytes (w : Option Fmt) : Nat := elemBytes w 512

/-- WIRE of a lap step (R190). -/
def Step.wireForm (st : Step) : Nat := st.sp 0x69 1

/-- Units of a full chunk (R135). -/
def Plan.perChunk (p : Plan) (st : Step) : Nat :=
  max 1 (2 ^ (if st.sp 0x68 1 = 0 then 18 else st.sp 0x68 1) / unitBytes (p.wire st))

/-- Members of a step's communicator, at least 1. -/
def Plan.ringN (p : Plan) (st : Step) : Nat := max 1 (((p.decl st).map (fun c => c.n)).getD 1)

/-- Units of segment `k` of a ring step. -/
def Plan.stepSegUnits (p : Plan) (st : Step) (k : Nat) : Nat := segUnits (st.count / 512) (p.ringN st) k

/-- First element of segment `k` of a ring step. -/
def Plan.stepSegFirst (p : Plan) (st : Step) (k : Nat) : Nat := 512 * segStart (st.count / 512) (p.ringN st) k

/-- Chunks of segment `k`. -/
def Plan.chunks (p : Plan) (st : Step) (k : Nat) : Nat := ceilDiv (p.stepSegUnits st k) (p.perChunk st)

/-- Units of chunk `c` of segment `k`. -/
def Plan.chunkUnits (p : Plan) (st : Step) (k c : Nat) : Nat :=
  min (p.perChunk st) (p.stepSegUnits st k - c * p.perChunk st)

/-- Whether a GATHER_LAP's IN0 addresses the owner's segment alone (R184). -/
def Plan.ownIn (p : Plan) (st : Step) : Bool := st.type == tGather && p.inPair st.in0.buf

/-! ### Operand ranges -/

/-- The index of a loop level, 0 for 0xFF. -/
def levelIx (env : List Nat) (level : Nat) : Nat := if level = 0xFF then 0 else env.getD level 0

/-- Byte offset in its buffer at which a reference starts (R102). -/
def OpRef.start (r : OpRef) (env : List Nat) : Nat := r.off + 64 * r.stride * levelIx env r.level

/-- Effective base element index (R101). -/
def Step.baseIx (st : Step) (env : List Nat) : Nat :=
  if st.baseLevel = 0xFF then st.base else st.base + st.count * levelIx env st.baseLevel

/-- Format of a step's stream `k`; none for bytes. -/
def Plan.refFmt (p : Plan) (st : Step) (k : Nat) : Option Fmt :=
  (p.prog st).bind (fun g => if k = 3 then g.outFmt else g.inFmts[k]?)

/-- Elements of a step's stream `k` (R102, R172, R173, R184). -/
def Plan.refElems (p : Plan) (st : Step) (k : Nat) : Nat :=
  let whole := if st.type = tUpdate ∨ (k = 0 ∧ p.ownIn st) then 512 * p.stepSegUnits st (p.memberOf st) else st.count
  match p.prog st with
  | none => whole
  | some g =>
    if k = 3 then
      if g.stCond = 0 then whole
      else
        let P := if st.period = 0 then whole / max 1 g.lanes else st.period
        whole / max 1 P
    else if st.type = tUpdate ∧ st.period ≠ 0 ∧ k + 1 = g.inFmts.length then whole / st.period
    else whole

/-- Whether stream `k` of a WIRE 1 REDUCE_LAP is its selected set (R210). -/
def Step.selIn (st : Step) (k : Nat) : Bool :=
  st.type == tReduce && st.wireForm == 1 && decide (k < 3) && (st.ref k).src != 3

/-- Length of the range of reference `k` (R102, R195, R219, R222, R227). -/
def Plan.refLen (p : Plan) (st : Step) (k : Nat) : Nat :=
  let r := st.ref k
  if r.src = 3 ∨ r.src = 5 then 4096 * ((p.decl st).map (fun c => c.slots)).getD 0
  else if st.type = tSelect then if k = 3 then selBytes st.count else 4 * st.count
  else if st.type = tDemand then if k = 3 then demandBytes (st.sp 0x6A 1) (st.sp 0x68 2) else 4 * st.count
  else if st.type = tStream then if k = 3 then roundUp 64 (2 * st.count) else 0
  else if st.selIn k then selBytes st.count
  else streamBytes (p.refFmt st k) (p.refElems st k)

/-! ### Places -/

/-- A place `n` bytes further on. -/
def Place.add (q : Place) (n : Nat) : Place :=
  match q with
  | .mem t a => .mem t (a + n)
  | .host s v => .host s (v + n)

/-- Byte `off` of a buffer (R99); none when its segment is gone. DEDUCED, log 43. -/
def Dev.bufPlace (d : Dev) (y : Nat) (b : Buf) (off : Nat) : Option Place :=
  match b.kind with
  | 0 => some (.mem b.tier (b.addr + off))
  | 1 => (d.seg y b.pasid b.seg).map (fun s => .mem s.tier (s.yaddr + b.off + off))
  | _ => some (.host b.pasid (b.off + off))

/-- Whether bit 0 of the step counter is set. -/
def Dev.odd (d : Dev) (y : Nat) : Bool := bit (d.fld (R.PLN_STEP_COUNT y)) 0

/-- The planes of bank buffer `b` in device storage: tier, yard address, length (R168). -/
def Dev.planes (d : Dev) (y : Nat) (p : Plan) (b : Nat) : Option (Nat × Nat × Nat) :=
  match p.bufs[b]? with
  | none => none
  | some x =>
    match d.bufPlace y x 4096 with
    | some (.mem t a) => some (t, a, x.len - 4096)
    | _ => none

/-- Whether bytes `[a, a + len)` of a tier meet a range. -/
def meets (tier a len : Nat) (q : Nat × Nat × Nat) : Bool :=
  q.1 == tier && decide (q.2.1 < a + len) && decide (a < q.2.1 + q.2.2)

/-- What a write of `n` bytes by anything but a SELECT step leaves unspecified: both halves of each bittern it meets (R198).
DESIGN CHOICE, log 44. -/
def spoilBittern {d0 : Dev} (y tier a n : Nat) : M d0 Unit := do
  let d ← dev
  match (d.yard y).plan with
  | none => return
  | some p =>
    each ((p.steps.filter (fun st => st.type == tSelect)).map (fun st => st.sp 0x6C 2)).eraseDups (fun b =>
      match (p.bufs[b]?).bind (fun x => (d.bufPlace y x 0).map (fun q => (q, x.len))) with
      | some (.mem t q, m) => if meets tier a n (t, q, m) then act (.spoil (d.addr y t q) m) else pure ()
      | _ => pure ())

/-- What a write of `n` bytes by an agent that is none of the yard's own steps leaves unspecified. In the planes of a bank pair
of the loaded plan: both banks (R170); in a bittern: both halves (R198); in the scalar record of the iteration in progress:
the scalars, to the UPDATE steps that read it afterwards (R179). DESIGN CHOICE, log 44. -/
def spoilForeign {d0 : Dev} (y tier a n : Nat) : M d0 Unit := do
    let d ← dev
    match (d.yard y).plan with
    | none => return
    | some p =>
      let hit (q : Option (Nat × Nat × Nat)) : Bool := (q.map (meets tier a n)).getD false
      each p.pairs.eraseDups (fun e =>
        if [e.1, e.2].any (fun b => hit (d.planes y p b)) then
          each [e.1, e.2] (fun b =>
            match d.planes y p b with
            | none => pure ()
            | some q => act (.spoil (d.addr y q.1 q.2.1) q.2.2))
        else pure ())
      spoilBittern y tier a n
      let rec_ (b : Nat) : Option (Nat × Nat × Nat) :=
        (d.planes y p b).map (fun q => (q.1, q.2.1 - 4096 + 32 * (d.fld (R.PLN_STEP_COUNT y) % 128), 32))
      let rs := (p.pairs.map (fun e => e.1)).eraseDups.filter (fun b => hit (rec_ b))
      if (d.yard y).running && !rs.isEmpty then modYard y (fun r => { r with recHit := r.recHit ++ rs }) else pure ()

/-- Write bytes to a tier of yard `y` for an agent that is none of the yard's own steps (R170, R179, R198). -/
def agentWrite {d0 : Dev} (y tier a : Nat) (bytes : List Byte) : M d0 Bool := do
  if ← writeMem y tier a bytes then
    spoilForeign y tier a bytes.length
    return true
  else return false

/-- Where reference `k` of a step starts, its bank resolved (R165). DEDUCED, log 43. -/
def Dev.refPlace (d : Dev) (y : Nat) (p : Plan) (st : Step) (env : List Nat) (k : Nat) : Option Place :=
  let r := st.ref k
  (p.bufs[p.bank (d.odd y) r.buf]?).bind (fun b => d.bufPlace y b (r.start env))

/-- Whether a reference names a local place: a buffer, and no link code (R82). -/
def Step.isLocal (st : Step) (k : Nat) : Bool := (st.ref k).buf != 0xFFFF && (st.ref k).src != 3 && (st.ref k).src != 5

/-! ### Loops and ops -/

/-- The ring steps of communicator `c` among the steps of a thread, in the order an iteration runs them (R105). -/
def ringWalk (N c : Nat) (fuel : Nat) (steps : List (Nat × Step)) : List Nat :=
  match fuel with
  | 0 => []
  | k + 1 =>
    match steps with
    | [] => []
    | (i, st) :: rest =>
      if st.type = tLoop then
        let n := st.sp 0x68 2
        let body := ringWalk N c k (rest.take n)
        (if body.isEmpty then [] else (List.replicate st.count body).flatten) ++ ringWalk N c k (rest.drop n)
      else if st.isRing && st.comm == c then i :: ringWalk N c k rest
      else ringWalk N c k rest

/-- The steps of a thread with their indices. -/
def Plan.threadSteps (p : Plan) (t : Nat) : List (Nat × Step) :=
  match p.threads[t]? with
  | none => []
  | some e => (List.zip (List.range p.steps.length) p.steps).drop e.1 |>.take e.2

/-- Cut ring steps into ops: up to the next SEAL, or each step by itself when N is 1 (R131). -/
def cutOps (p : Plan) (single : Bool) (cur : List Nat) : List Nat → List (List Nat)
  | [] => if cur.isEmpty then [] else [cur]
  | i :: rest =>
    if single || ((p.steps[i]?).map (fun st => st.type)).getD 0 = tSeal then (cur ++ [i]) :: cutOps p single [] rest
    else cutOps p single (cur ++ [i]) rest

/-- The steps with their indices. -/
def Plan.indexed (p : Plan) : List (Nat × Step) := List.zip (List.range p.steps.length) p.steps

/-- The thread that owns step `s`. -/
def Plan.thrOf (p : Plan) (s : Nat) : Nat :=
  ((List.range p.threads.length).find? (fun t => match p.threads[t]? with
    | some e => inRange s e.1 e.2
    | none => false)).getD 0

/-- The LOOP steps that enclose step `s`, outermost first. -/
def Plan.encl (p : Plan) (s : Nat) : List (Nat × Step) :=
  p.indexed.filter (fun e => e.2.type == tLoop && decide (e.1 < s) && decide (s < e.1 + 1 + e.2.sp 0x68 2) && p.thrOf e.1 == p.thrOf s)

/-- Every assignment of loop indices that step `s` meets. -/
def Plan.envs (p : Plan) (s : Nat) : List (List Nat) :=
  (p.encl s).foldl (fun es e => es.flatMap (fun env => (List.range e.2.count).map (fun i => env.set (e.2.sp 0x6A 1) i))) [[0, 0, 0, 0]]

/-- The ops of communicator `c` in one iteration, in order. -/
def Plan.ops (p : Plan) (c : Nat) : List (List Nat) :=
  let N := ((p.comms[c]?).map (fun d => d.n)).getD 1
  (List.range p.threads.length).flatMap (fun t =>
    cutOps p (N == 1) [] (ringWalk N c (p.steps.length + 1) (p.threadSteps t)))

/-- Whether a step of an op of `c` in progress counts for R151 before it: a SELECT that names a communicator (R213). -/
def Step.inOp (st : Step) : Bool := st.isRing || (st.type == tSelect && st.comm != 0xFFFF)

end Sys2Proof.Machine
end

