-- ==== Sys2Proof/Machine/RingOps.lean ====
section
/-! DEFINITION. The operations on host rings that the transport and the host commands share: local buffers, ownership
and scan, completions and their order (10: R299 to R306, R309, R312, R318, R321, R322). -/

namespace Sys2Proof.Machine

variable {d0 : Dev}

/-! ### Rings -/

/-- An unbound pair of rings. -/
def Ring.unbound : Ring :=
  { sq := Half.unbound, rq := Half.unbound, fetch := 1, vector := 0xFFFF, irqMode := 0, push := false, raw := zeros 32 }

/-- The rings of connection `r`. -/
def Dev.ring (d : Dev) (y r : Nat) : Ring := Tab.get d.rings (yk y r) Ring.unbound

/-- One of the two rings. -/
def Ring.half (g : Ring) (recv : Bool) : Half := if recv then g.rq else g.sq

/-- Change one of the two rings. -/
def modHalf (y r : Nat) (recv : Bool) (f : Half → Half) : M d0 Unit := do
  let g := (← dev).ring y r
  act (.ring (yk y r) (some (if recv then { g with rq := f g.rq } else { g with sq := f g.sq })))

/-- Entry size in bytes. -/
def Half.size (h : Half) : Nat := if h.big then 256 else 64

/-- Where entry `n` stands. -/
def Half.at (h : Half) (n : Nat) : Nat := h.addr + n % 2 ^ h.log * h.size

/-- The expected phase of the next entry (R299). -/
def Half.phase (h : Half) : Nat := 1 - h.n / 2 ^ h.log % 2

/-- Whether the W48 owns an entry: the expected phase, and DONE 0 (R299). A legacy queue's entries up to the tail are
owned (R321). -/
def Half.owns (h : Half) (e : List Byte) : Bool :=
  if h.cq.isSome then h.tail % 2 ^ h.log != h.n % 2 ^ h.log
  else bits (le e 0 1) 0 1 == h.phase && !bit (le e 0 1) 1

/-- OPCODE of an entry. -/
def opOf (e : List Byte) : Nat := le e 1 1

/-- The local buffer an entry names (R300, R301). -/
def entryLoc (big recv : Bool) (e : List Byte) : Loc :=
  if bit (le e 0 1) 2 then
    if recv then .body (if big then 224 else 32) else .inline (slice e 0x20 (le e 2 1))
  else
    let c := le e 0x28 4
    if bit c 23 then .seg (bits c 0 20) (bits c 20 3) (le e 0x20 8) else .host (bits c 0 20) (le e 0x20 8)

/-- Bytes of the buffer an entry names. -/
def entryLen (big recv : Bool) (e : List Byte) : Nat :=
  if bit (le e 0 1) 2 then if recv then (if big then 224 else 32) else le e 2 1 else le e 0x10 8

/-- Write to a ring's own memory: a completion, or data placed in an entry's body. -/
def ringWr (y : Nat) (h : Half) (data : Bool) (a : Nat) (bytes : List Byte) : M d0 Unit := do
  if h.inSeg then
    match (← dev).segAt y h.pasid h.sg a bytes.length with
    | some (t, p) => let _ ← agentWrite y t p bytes
    | none => pure ()
  else if data then hostWr y h.pasid a bytes
  else hostPost y h.pasid a bytes

/-! ### Local buffers -/

/-- Whether an engine of bay `b` can reach host virtual memory: yes, a wait on translation or page, or a code
(R315, R340 to R345). A network access that meets a page that ended unresolved is refused (R344). -/
def hostReach (y b pasid va len : Nat) (write : Bool) (who : Waiter) (h : HostSide) : M d0 LocRes := do
  let d ← dev
  if d.hostLost y || !d.ctl.hostUp then return .err cHostLost
  if !d.canMaster y then return .wait
  let page := va / 4096 + h.page
  match if d.invalidating y pasid va len then .waiting else h.xl with
  | .hit => return .ok []
  | .waiting =>
    emit (.atsRequest (y + 1) pasid page)
    return .wait
  | .fault =>
    if who = .inbound ∧ (d.yard y).badPages.contains { pasid := pasid, page := page } then return .err cRemoteAccess
    match ← takeFault y b pasid page write who with
    | .unresolved => return .err (if who = .inbound then cRemoteAccess else cFaultUnresolved)
    | _ => return .wait

/-- What an engine of bay `b` finds of host virtual memory: the bytes, a wait, or a code (R329). PRESUMED, log 53. -/
def hostSide (y b pasid va len : Nat) (write : Bool) (who : Waiter) (h : HostSide) : M d0 LocRes := do
  match ← hostReach y b pasid va len write who h with
  | .ok _ =>
    if write then return .ok []
    emit (.hostVRead (y + 1) pasid va len)
    if h.bad then
      logUc y 3 va
      return .err cMemUncorrectable
    return .ok ((h.data ++ zeros (len - h.data.length)).take len)
  | x => return x

/-- Whether a local buffer of `len` bytes can be reached before its operation starts (R268, R302, R343). -/
def reachLoc (y b : Nat) (l : Loc) (len : Nat) (write : Bool) (who : Waiter) (h : HostSide) : M d0 LocRes :=
  match l with
  | .host p va => if len = 0 then pure (.ok []) else hostReach y b p va len write who h
  | _ => pure (.ok [])

/-- Read `[off, off + len)` of a local buffer. -/
def getLoc (y b : Nat) (l : Loc) (off len : Nat) (who : Waiter) (h : HostSide) : M d0 LocRes := do
  match l with
  | .inline bs => return .ok (slice bs off len)
  | .body _ => return .ok []
  | .seg p g o =>
    match (← dev).segAt y p g (o + off) len with
    | none => return .err cLocalProtection
    | some (t, a) =>
      match ← readMem y t a len with
      | some bs => return .ok bs
      | none => return .err cMemUncorrectable
  | .host p va => if len = 0 then return .ok [] else hostSide y b p (va + off) len false who h

/-- Write bytes at `off` of a local buffer; `r n` names the receive entry when it is that entry's body. -/
def putLoc (y b r n : Nat) (l : Loc) (off : Nat) (bytes : List Byte) (who : Waiter) (h : HostSide) : M d0 LocRes := do
  if bytes.isEmpty then return .ok []
  match l with
  | .inline _ => return .ok []
  | .body _ =>
    let q := ((← dev).ring y r).rq
    let a := q.at n + 0x20 + off
    match ← if q.inSeg then pure (LocRes.ok []) else hostSide y b q.pasid a bytes.length true who h with
    | .ok _ =>
      ringWr y q true a bytes
      return .ok []
    | x => return x
  | .seg p g o =>
    match (← dev).segAt y p g (o + off) bytes.length with
    | none => return .err cLocalProtection
    | some (t, a) => if ← agentWrite y t a bytes then return .ok [] else return .err cMemUncorrectable
  | .host p va =>
    match ← hostSide y b p (va + off) bytes.length true who h with
    | .ok _ =>
      hostWr y p (va + off) bytes
      return .ok []
    | x => return x

/-! ### Legacy completion queues (R320 to R322) -/

/-- A completion queue. -/
def Dev.lcq (d : Dev) (y c : Nat) : Option LCq := Tab.find d.lcqs (yk y c)

/-- Whether a completion queue has no free entry. -/
def LCq.full (q : LCq) : Bool := decide (2 ^ q.log ≤ q.count - q.head)

/-- Whether the completion queue of a legacy ring is full, so that nothing of the ring is processed (R322). -/
def Dev.cqFull (d : Dev) (y : Nat) (h : Half) : Bool :=
  match h.cq with
  | none => false
  | some c => match d.lcq y c with
    | none => true
    | some q => q.full

/-- Write a completion entry (R321). DESIGN CHOICE, log 54. -/
def lcqPost (y c r : Nat) (recv : Bool) (idx code cflags imm bytes : Nat) : M d0 Unit := do
  match (← dev).lcq y c with
  | none => pure ()
  | some q =>
    hostBus y (q.base + q.count % 2 ^ q.log * 16)
      (leBytes 4 bytes ++ leBytes 4 imm ++ leBytes 2 idx ++ leBytes 2 (b2n recv + 2 * (r % 2 ^ 15)) ++ leBytes 1 code ++
        leBytes 1 (cflags % 2 + 2 * bits r 15 1 + 4 * bits r 16 1) ++ [0] ++ leBytes 1 (1 - q.count / 2 ^ q.log % 2))
    act (.lcq (yk y c) (some { q with count := q.count + 1 }))
    irqYard y q.vector

/-! ### Scans (R303, R304) -/

/-- The next entry of a ring as its memory holds it. -/
def peekEntry (y : Nat) (h : Half) : M d0 (Option (List Byte)) := do
  if h.inSeg then
    match (← dev).segAt y h.pasid h.sg (h.at h.n) h.size with
    | none => return none
    | some (t, a) => readMem y t a h.size
  else
    match h.ahead with
    | [] => return none
    | e :: _ =>
      -- line 0 of a 256-byte entry, which holds CTRL, is read last (R299)
      if h.big then emit (.hostVRead (y + 1) h.pasid (h.at h.n + 64) 192) else pure ()
      emit (.hostVRead (y + 1) h.pasid (h.at h.n) 64)
      return some e

/-- One step of a scan: false when it stops. A fetch from another page of host memory than the one before waits for its
translation (R302, R340). -/
def scanOne (y r : Nat) (recv : Bool) : M d0 Bool := do
  let d ← dev
  let g := d.ring y r
  let h := g.half recv
  if !h.bound || (d.conn y r).st != 2 || !d.live y || d.cqFull y h || (!h.inSeg && !d.canMaster y) then return false
  if g.fetch ≤ h.live.length then
    modHalf y r recv (fun h => { h with byFetch := true })
    return false
  let page := h.at h.n / 4096
  if !h.inSeg && (h.held != some page || d.invalidating y h.pasid (h.at h.n) h.size) then
    modHalf y r recv (fun h => { h with byFetch := false, pendScan := true })
    emit (.atsRequest (y + 1) h.pasid page)
    return false
  match ← peekEntry y h with
  | none =>
    modHalf y r recv (fun h => { h with byFetch := false })
    return false
  | some e =>
    if !h.owns e then
      modHalf y r recv (fun h => { h with byFetch := false })
      return false
    modHalf y r recv (fun h => { h with
      n := (h.n + 1) % 2 ^ 32, ahead := h.ahead.drop 1,
      live := h.live ++ [{ n := h.n, bytes := e, started := false, out := none }] })
    return true

/-- Scan a ring. DESIGN CHOICE, log 55. -/
def scan (y r : Nat) (recv : Bool) : M d0 Unit := upTo 1025 (scanOne y r recv)

/-- Scan a ring whose memory holds `mem` from entry n on; the fetch needs the translation of its page, and stalls without it
until the page is served (R302, R343). -/
def scanFrom (y r : Nat) (recv : Bool) (mem : List (List Byte)) (xl : Xlat) : M d0 Unit := do
  modHalf y r recv (fun h => { h with ahead := mem })
  let h := ((← dev).ring y r).half recv
  if h.inSeg then scan y r recv
  else match ← hostReach y (y + r / 6144) h.pasid (h.at h.n) h.size false (.ring r) { xl := xl, data := [], bad := false } with
    | .ok _ =>
      modHalf y r recv (fun h => { h with held := some (h.at h.n / 4096) })
      scan y r recv
    | .wait => modHalf y r recv (fun h => { h with pendScan := true })
    | .err _ => pure ()

/-- Take up again a scan that waits, once the yard runs (R343, R345, R486). -/
def rescanHalf (y r : Nat) (recv : Bool) : M d0 Unit := do
  let d ← dev
  if d.live y && ((d.ring y r).half recv).pendScan then
    modHalf y r recv (fun h => { h with pendScan := false })
    scan y r recv
  else pure ()

/-- Take up again the scans of connection `r`. -/
def rescan (y r : Nat) : M d0 Unit := each [false, true] (rescanHalf y r)

/-- Whether a scan waits at a page of host memory. -/
def Half.waitsAt (h : Half) (pasid page : Nat) : Bool :=
  h.bound && h.pendScan && !h.inSeg && h.pasid == pasid && onPage page (h.at h.n) h.size

/-- A page has been served: the scans of connection `r` that wait at it translate again and go on (R343). -/
def wakeRing (y r pasid page : Nat) : M d0 Unit := each [false, true] (fun recv => do
  if (((← dev).ring y r).half recv).waitsAt pasid page then
    modHalf y r recv (fun h => { h with held := some page })
    rescanHalf y r recv
  else pure ())

/-- Every translation that the rings of a yard hold and `p` names is dropped (R340). -/
def dropHeld (y : Nat) (p : Nat → Nat → Bool) : M d0 Unit := do
  each (ofYard (← dev).rings y) (fun r => each [false, true] (fun recv =>
    modHalf y r.1 recv (fun h => if (h.held.map (p h.pasid)).getD false then { h with held := none } else h)))

/-! ### Completions (R305, R306, R312, R318) -/

/-- Whether no TRECV of the ring waits whose message comes before that of `e` in match order (R306). -/
def Half.inTurn (h : Half) (e : REntry) : Bool :=
  match e.order with
  | none => true
  | some k => !h.live.any (fun q => match q.order with
    | some j => decide (j < k)
    | none => false)

/-- The entry whose completion may be written next: a send ring's first; of a receive ring the TRECV whose message comes
first in match order, or a RECV when no earlier RECV waits (R306). -/
def Half.due (h : Half) (recv : Bool) : Option REntry :=
  if !recv then h.live.head?.filter (fun e => e.out.isSome)
  else
    let firstRecv := h.live.find? (fun e => opOf e.bytes != 0x21)
    h.live.find? (fun e => e.out.isSome && (if opOf e.bytes == 0x21 then h.inTurn e else firstRecv == some e))

/-- A posted TRECV takes the message at place `k` of match order. -/
def takesMsg (y r n k : Nat) : M d0 Unit :=
  modHalf y r true (fun h => { h with live := h.live.map (fun e => if e.n = n then { e with order := some k } else e) })

/-- Read back the 64-byte line that holds yard address `a`: false when it cannot be corrected (R312). -/
def readLine (y tier a : Nat) : M d0 Bool := do return (← readMem y tier (a / 64 * 64) 64).isSome

/-- A zero-length read of host memory on the link (R312). -/
def readNone (y pasid : Nat) : M d0 Unit := do
  if (← dev).canMaster y then emit (.hostVRead (y + 1) pasid 0 0) else pure ()

/-- The read-back of FLUSHREAD for `n` bytes placed by entry `i` of a ring (R312): false when the line read back cannot be
corrected. -/
def readBack (y : Nat) (h : Half) (i : Nat) (l : Loc) (n : Nat) : M d0 Bool := do
  let seg (p g o : Nat) : M d0 Bool := do
    let d ← dev
    match if n = 0 then none else d.segAt y p g (o + n - 1) 1 with
    | some (t, a) => readLine y t a
    | none => return true
  match l with
  | .inline _ => return true
  | .host p _ =>
    if n = 0 then pure () else readNone y p
    return true
  | .seg p g o => seg p g o
  | .body _ =>
    if n = 0 then return true
    else if h.inSeg then seg h.pasid h.sg (h.at i + 0x20)
    else
      readNone y h.pasid
      return true

/-- Write the completion of an entry and raise its interrupt. -/
def postEntry (y r : Nat) (recv : Bool) (e : REntry) (code cflags imm bytes tag : Nat) : M d0 Unit := do
  let d ← dev
  let g := d.ring y r
  let h := g.half recv
  let ctrl := le e.bytes 0 1
  let op := opOf e.bytes
  let good ← if bit ctrl 3 && (recv || op == 0x07 || op == 0x09 || op == 0x0A) then
      match e.back with
      | some (.mem t a) => readLine y t a
      | some (.host p _) => do
        readNone y p
        pure true
      | none => readBack y h e.n (entryLoc h.big recv e.bytes) (min bytes (entryLen h.big recv e.bytes))
    else pure true
  let code := if good || code != 0 then code else cMemUncorrectable
  match h.cq with
  | some c => lcqPost y c r recv (e.n % 2 ^ h.log) code cflags imm bytes
  | none =>
    ringWr y h false (h.at e.n + 1) (leBytes 1 code ++ leBytes 1 cflags ++ slice e.bytes 3 1 ++ leBytes 4 imm ++ leBytes 8 bytes ++
      (if recv && opOf e.bytes == 0x21 then leBytes 8 tag else []))
    ringWr y h false (h.at e.n) (leBytes 1 (ctrl % 2 + 2))
    let irq := (g.irqMode == 1 && bit ctrl 5) || g.irqMode == 2 || (g.irqMode == 3 && ((recv && bit cflags 1) || code != 0))
    if irq && g.vector != 0xFFFF then irqYard y g.vector else pure ()
  modHalf y r recv (fun h => { h with live := h.live.erase e, written := (h.written + 1) % 2 ^ 32 })

/-- Write every completion whose turn has come; a scan that FETCH stopped resumes (R304). A completion in a page under
invalidation waits for the end of it (R340). -/
def flushRing (y r : Nat) (recv : Bool) : M d0 Unit := do
  upTo 1025 (do
    let d ← dev
    let h := (d.ring y r).half recv
    match h.due recv with
    | none => return false
    | some e =>
      if d.cqFull y h || (!h.inSeg && h.cq.isNone && d.invalidating y h.pasid (h.at e.n) h.size) then return false
      match e.out with
      | none => return false
      | some (code, cflags, imm, bytes, tag) =>
        postEntry y r recv e code cflags imm bytes tag
        return true)
  if (((← dev).ring y r).half recv).byFetch then
    if (← dev).live y then scan y r recv else modHalf y r recv (fun h => { h with pendScan := true })
  else pure ()

/-- Complete entry `n` of a ring. -/
def complete (y r : Nat) (recv : Bool) (n code cflags imm bytes tag : Nat) : M d0 Unit := do
  modHalf y r recv (fun h => { h with live := h.live.map (fun e =>
    if e.n = n ∧ e.out = none then { e with started := true, out := some (code, cflags, imm, bytes, tag) } else e) })
  flushRing y r recv

/-- Complete every fetched entry of a ring that has no outcome yet. -/
def completeAll (y r : Nat) (recv : Bool) (code : Nat) : M d0 Unit := do
  modHalf y r recv (fun h => { h with live := h.live.map (fun e =>
    if e.out = none then { e with started := true, out := some (code, 0, 0, 0, 0) } else e) })
  flushRing y r recv

end Sys2Proof.Machine
end

