-- ==== Sys2Proof/Machine/Runs.lean ====
section
/-! DEFINITION. Run contexts: where a run is placed, what each of its beats reads and writes (R58, R59, R82, R86, R102,
R106, R159, R160, R173). -/

namespace Sys2Proof.Machine

variable {d0 : Dev}

/-! ### Contexts -/

/-- Logical pan `j` of yard `y`, numbered over the W48. -/
def panIx (y j : Nat) : Nat := 4 * y + j

/-- Change a logical pan. -/
def modPan (i : Nat) (f : Pan → Pan) : M d0 Unit := do act (.pan i (f ((← dev).pan i)))

/-- A context of a logical pan. -/
def Dev.ctx (d : Dev) (i x : Nat) : Ctx := (d.pan i).ctxs.getD x Ctx.empty

/-- The bits of the contexts that satisfy `p`. -/
def ctxBits (p : Ctx → Bool) (cs : List Ctx) : Nat :=
  (List.zip (List.range cs.length) cs).foldl (fun n e => if p e.2 then n + 2 ^ e.1 else n) 0

/-- Show BUSY and READY of a logical pan (R88). -/
def showPan (i : Nat) : M d0 Unit := do
  let d ← dev
  match d.yardOf (i / 4) with
  | none => pure ()
  | some y =>
    let cs := (d.pan i).ctxs
    wr (R.PAN_LP_STATE_BUSY y (i - 4 * y)) (ctxBits (fun c => c.st != .free) cs)
    wr (R.PAN_LP_STATE_READY y (i - 4 * y)) (ctxBits (fun c => c.st == .ready || c.st == .run) cs)

/-- Change a context. -/
def modCtx (i x : Nat) (f : Ctx → Ctx) : M d0 Unit := do
  modPan i (fun p => { p with ctxs := p.ctxs.set x (f (p.ctxs.getD x Ctx.empty)) })
  showPan i

/-- Empty a context; its tag F stays with the pan's turns (R159). -/
def freeCtx (i x : Nat) : M d0 Unit := modCtx i x (fun c => { Ctx.empty with f := c.f })

/-- The contexts of yard `y` that hold a run of thread `t`: pan and context. -/
def Dev.ctxsOf (d : Dev) (y t : Nat) : List (Nat × Nat) :=
  (List.range (4 * (d.baysOf y).length)).flatMap (fun j =>
    (List.range 8).filterMap (fun x =>
      let c := d.ctx (panIx y j) x
      if c.st != .free && c.yard == y && c.thread == t then some (panIx y j, x) else none))

/-- Free every context of a thread. -/
def freeThread (y t : Nat) : M d0 Unit := do each ((← dev).ctxsOf y t) (fun e => freeCtx e.1 e.2)

/-- Change a thread. -/
def modThr (y t : Nat) (f : Thr → Thr) : M d0 Unit :=
  modYard y (fun r => { r with thrs := match r.thrs[t]? with | none => r.thrs | some h => r.thrs.set t (f h) })

/-- Change the active step of a thread. -/
def modActive (y t : Nat) (f : Active → Active) : M d0 Unit := modThr y t (fun h => { h with active := h.active.map f })

/-- The active step of a thread. -/
def Dev.active (d : Dev) (y t : Nat) : Option Active := ((d.yard y).thrs[t]?).bind (fun h => h.active)

/-- The record of the active step of a thread, with its plan. -/
def Dev.activeStep (d : Dev) (y t : Nat) : Option (Plan × Step × Active) :=
  match (d.yard y).plan, d.active y t with
  | some p, some a => (p.steps[a.step]?).map (fun st => (p, st, a))
  | _, _ => none

/-- Whether the active step of a thread is a ring step of a communicator with at least 2 members (R160). -/
def Dev.ringHolder (d : Dev) (y t : Nat) : Bool :=
  match d.activeStep y t with
  | none => false
  | some (p, st, _) => st.isRing && decide (2 ≤ p.ringN st)

/-- The physical pan that serves logical pan `i`; 0xFF when it is LOST (R468). -/
def Dev.panPhys (d : Dev) (i : Nat) : Nat := d.fld ((R.DEV_PAN_MAP (i / 4)).sub (8 * (i % 4)) 8)

/-- Whether a logical pan executes beats: it is not LOST, and its physical pan has not failed (R466). -/
def Dev.panWorks (d : Dev) (i : Nat) : Bool := d.panPhys i != 0xFF && !bit (d.fld R.DEV_PAN_FAILED) (d.panPhys i)

/-- The contexts a step may use, pans ascending: those below CONTEXTS on the pans of STEP_PANS that are not LOST. -/
def Dev.slots (d : Dev) (y : Nat) (p : Plan) (st : Step) : List (Nat × Nat) :=
  ((List.range (4 * (d.baysOf y).length)).filter (fun j => bit st.pans j && d.panPhys (panIx y j) != 0xFF)).flatMap (fun j =>
    (List.range (min 8 p.contexts)).map (fun x => (panIx y j, x)))

/-- Put run `r` of thread `t` into context `(i, x)` (R86: FREE to WAIT). -/
def placeRun (y t : Nat) (r : RunSpec) (i x : Nat) : M d0 Unit := do
  modCtx i x (fun c => { Ctx.empty with st := .wait, yard := y, thread := t, spec := some r, regs := PanRegs.start r.prog.lanes, f := c.f })
  modActive y t (fun a => { a with runs := a.runs.drop 1, live := true })

/-- Start the next run of a thread when a context is free; a ring step takes the context of a step that is none, whose
run is begun again later: a run's beats depend on nothing but its parameters (R84, R106, R160). -/
def pumpThread (y t : Nat) : M d0 Unit := do
  let d ← dev
  match d.activeStep y t with
  | none => return
  | some (p, st, a) =>
    match a.runs with
    | [] => return
    | r :: _ =>
      if a.live || a.code.isSome then return
      let sl := d.slots y p st
      match sl.find? (fun e => (d.ctx e.1 e.2).st == .free) with
      | some e => placeRun y t r e.1 e.2
      | none =>
        if !d.ringHolder y t then return
        match sl.find? (fun e => let c := d.ctx e.1 e.2; c.yard == y && c.st != .done && !d.ringHolder y c.thread) with
        | none => return
        | some e =>
          let c := d.ctx e.1 e.2
          match c.spec with
          | none => return
          | some old =>
            modActive y c.thread (fun b => { b with runs := old :: b.runs, live := false })
            placeRun y t r e.1 e.2

/-- Start what can start. DESIGN CHOICE, log 15. -/
def pumpRuns (y : Nat) : M d0 Unit := do each (List.range ((← dev).yard y).thrs.length) (pumpThread y)

/-! ### Operands -/

/-- The index of the first element beat `b` takes from stream `k`. -/
def RunSpec.firstElem (r : RunSpec) (k b : Nat) : Nat :=
  match r.ins[k]? with
  | some (.at _ _ factor) =>
    if !r.elems.isEmpty then r.elems.getD b 0
    else if factor then b / max 1 r.period * r.prog.lanes
    else b * r.prog.lanes
  | some (.picked _ _) => r.elems.getD b 0
  | _ => b * r.prog.lanes

/-- The run's stream `k` in beat `b`: the places of its element bytes and scale bytes, or the bytes at hand. -/
inductive Opnd where
  | at (q : Place) (n : Nat) (sq : Place) (sn : Nat)
  | given (elems scales : List Byte)

/-- Operand `k` of beat `b`. -/
def RunSpec.opnd (r : RunSpec) (k b : Nat) : Opnd :=
  let f := r.prog.inFmts[k]?
  let L := r.prog.lanes
  let e := r.firstElem k b
  match r.ins[k]? with
  | some (.at q sq _) => .at (q.add (elemBytes f e)) (elemBytes f L) (sq.add (scaleBytes f e)) (scaleBytes f L)
  | some (.picked q held) =>
    if held.getD b false then .at (q.add (elemBytes f e)) (elemBytes f L) (q.add 0) 0 else .given (zeros (elemBytes f L)) []
  | some (.given bs sc) => .given (slice bs (elemBytes f e) (elemBytes f L)) (slice sc (scaleBytes f e) (scaleBytes f L))
  | none => .given [] []

/-- Read bytes of a place for an engine of bay `b`. -/
def readPlace (y b : Nat) (q : Place) (n : Nat) (who : Waiter) (h : HostSide) : M d0 LocRes := do
  if n = 0 then return .ok []
  match q with
  | .mem t a =>
    match ← readMem y t a n with
    | some bs => return .ok bs
    | none => return .err cMemUncorrectable
  | .host s v => hostSide y b s v n false who h

/-- Write bytes to a place for a step; only SELECT steps may write a bittern (R198). -/
def writePlace (y : Nat) (q : Place) (bytes : List Byte) : M d0 Bool := do
  match q with
  | .mem t a =>
    let ok ← writeMem y t a bytes
    spoilBittern y t a bytes.length
    return ok
  | .host s v =>
    hostWr y s v bytes
    return (← dev).canMaster y

/-- Whether a step may write `n` bytes to a place: at once in the yard's own memory, in host memory once it is translated
(R343). -/
def placeReach (y b : Nat) (q : Place) (n : Nat) (who : Waiter) (h : HostSide) : M d0 LocRes :=
  match q with
  | .mem _ _ => pure (.ok [])
  | .host p va => if n = 0 then pure (.ok []) else hostReach y b p va n true who h

/-- Whether a place lies in host memory. -/
def Place.inHost (q : Place) : Bool :=
  match q with
  | .host _ _ => true
  | .mem _ _ => false

/-- Fetch the operands of beat `b` of a run, stream by stream: the bytes in order, a wait, or the code it ends with.
`hs` holds the host sides of the streams in host memory, in order; `uc` marks a stream whose storage turns out
uncorrectable. -/
def fetchOps (y b : Nat) (who : Waiter) (r : RunSpec) (beat : Nat) (uc : Option Nat) :
    List Nat → List HostSide → M d0 (LocRes × List (List Byte × List Byte) × List HostSide)
  | [], hs => pure (.ok [], [], hs)
  | k :: ks, hs => do
    match r.opnd k beat with
    | .given bs sc =>
      let (x, l, hs') ← fetchOps y b who r beat uc ks hs
      return (x, (bs, sc) :: l, hs')
    | .at q n sq sn =>
      match q with
      | .mem t a =>
        if uc = some k then markUc y t a else pure ()
        match ← readPlace y b q n who { xl := .hit, data := [], bad := false } with
        | .ok bs =>
          match ← readPlace y b sq sn who { xl := .hit, data := [], bad := false } with
          | .ok sc =>
            let (x, l, hs') ← fetchOps y b who r beat uc ks hs
            return (x, (bs, sc) :: l, hs')
          | x => return (x, [], hs)
        | x => return (x, [], hs)
      | .host s v =>
        match hs with
        | [] => return (.wait, [], [])
        | h :: hs' =>
          match ← hostSide y b s v n false who { h with data := h.data.take n } with
          | .ok bs =>
            match ← readPlace y b sq sn who { h with data := h.data.drop n } with
            | .ok sc =>
              let (x, l, hs'') ← fetchOps y b who r beat uc ks hs'
              return (x, (bs, sc) :: l, hs'')
            | x => return (x, [], hs)
          | x => return (x, [], hs)

/-! ### Beats -/

/-- Where beat `b` of a run stands (R74). A run over listed blocks takes each block by itself (R209). -/
def RunSpec.beatAt (r : RunSpec) (b : Nat) : BeatAt :=
  if r.elems.isEmpty then { key := r.key, base := r.base, pos := r.pos, beat := b, period := max 1 r.period }
  else { key := r.key, base := r.base, pos := r.elems.getD b 0, beat := 0, period := 1 }

/-- The registers a beat starts from: the scalars of R178 at beat 0, and fresh ones for each listed block (R209). -/
def RunSpec.regsAt (r : RunSpec) (b : Nat) (g : PanRegs) : PanRegs :=
  let g := if r.elems.isEmpty then g else PanRegs.start r.prog.lanes
  if b = 0 ∨ !r.elems.isEmpty then
    let sets := List.zip (List.range r.scalars.length) r.scalars
    { g with w := sets.foldl (fun w e => w.set (12 + e.1) (List.replicate r.prog.lanes e.2)) g.w }
  else g

/-- Decode the fetched operands of a beat. -/
def RunSpec.values (r : RunSpec) (ops : List (List Byte × List Byte)) : List (List WV) :=
  List.zipWith (fun f o => decodeElems f r.prog.lanes o.1 o.2) r.prog.inFmts ops

/-- Element index in the output stream of what beat `b` writes (R81). -/
def RunSpec.outElem (r : RunSpec) (b : Nat) : Nat :=
  if r.prog.stCond = 0 then b * r.prog.lanes else b / max 1 r.period * r.prog.lanes

/-- Elements of a run's output stream (R81). -/
def RunSpec.outElems (r : RunSpec) : Nat := r.outElem (r.beats / max 1 r.period * max 1 r.period)

/-- Write `bytes` at offset `o` of a place whose first `n` bytes the step writes. DEDUCED, log 14. -/
def writePart (y : Nat) (q : Place) (o n : Nat) (bytes : List Byte) : M d0 Bool :=
  match q with
  | .mem t a => do
    let ok ← writeMemIn y t (a + o) a (a + n) bytes
    spoilBittern y t (a + o) bytes.length
    return ok
  | .host _ _ => writePlace y (q.add o) bytes

/-- Write a beat's output to its place. -/
def writeBeat (y : Nat) (r : RunSpec) (b : Nat) (o : List Byte × List Byte) : M d0 Bool := do
  match r.dst with
  | .at q sq =>
    let e := r.outElem b
    let n := r.outElems
    let ok ← writePart y q (elemBytes r.prog.outFmt e) (elemBytes r.prog.outFmt n) o.1
    let ok' ← if o.2.isEmpty then pure true else writePart y sq (scaleBytes r.prog.outFmt e) (scaleBytes r.prog.outFmt n) o.2
    return ok && ok'
  | _ => return true

end Sys2Proof.Machine
end

