-- ==== Sys2Proof/Machine/Seq.lean ====
section
/-! DEFINITION. The plan sequencer: threads, steps that start and complete, iterations, events, and the steps that run
inside one member (04: R91, R105, R107 to R113, R121 to R123; R186, R214, R234, R241). -/

namespace Sys2Proof.Machine

variable {d0 : Dev}

/-! ### State and events of the sequencer -/

/-- State of a yard's plan (R121). -/
def Dev.plnState (d : Dev) (y : Nat) : Nat := d.fld (R.PLN_STATUS_STATE y)

/-- Set event bit `i` of PLN_STATUS; a rise raises the vector under enable `en` (R127). DEDUCED, log 16. -/
def plnEvent (y i en : Nat) : M d0 Unit := do
  let d ← dev
  let was := bit (d.fld (R.PLN_STATUS y)) i
  wr ((R.PLN_STATUS y).sub i 1) 1
  if !was && bit (d.fld (R.PLN_IRQ y)) en then irqYard y (d.fld ((R.PLN_IRQ y).sub 16 11)) else pure ()

/-- The index of each loop level of a thread. -/
def Thr.env (h : Thr) : List Nat :=
  (List.range 4).map (fun l => ((h.loops.find? (fun f => f.level == l)).map (fun f => f.i)).getD 0)

/-- Show a thread in PLN_THREAD (R126). -/
def showThread (y t : Nat) : M d0 Unit := do
  match ((← dev).yard y).thrs[t]? with
  | none => pure ()
  | some h =>
    let ix := match h.active with
      | some a => a.step
      | none => h.pc
    let st := match h.active with
      | some _ => if h.waiting then 2 else 1
      | none => if h.pc = h.stop ∧ h.loops.isEmpty then 3 else 0
    wr (R.PLN_THREAD y t) (ix % 2 ^ 16 + 2 ^ 16 * st)

/-- Leave every loop body that has ended, or begin its next turn (R105). -/
def Thr.settle (fuel : Nat) (h : Thr) : Thr :=
  match fuel with
  | 0 => h
  | k + 1 =>
    match h.loops with
    | [] => h
    | f :: fs =>
      if h.pc = f.stop then
        if f.descending then
          if f.i = 0 then Thr.settle k { h with loops := fs }
          else { h with pc := f.start, loops := { f with i := f.i - 1 } :: fs }
        else if f.i + 1 < f.count then { h with pc := f.start, loops := { f with i := f.i + 1 } :: fs }
        else Thr.settle k { h with loops := fs }
      else h

/-- A thread after the step at its pc. -/
def Thr.next (h : Thr) : Thr := Thr.settle 5 { h with pc := h.pc + 1, active := none, waiting := false }

/-- Whether a thread has completed its last step. -/
def Thr.over (h : Thr) : Bool := h.active.isNone && h.pc == h.stop && h.loops.isEmpty

/-! ### The drovers' status (R217, R229, R234, R245) -/

/-- The landing buffer `buf` of the accelerator with address `a`. -/
def Yard.land (r : Yard) (a buf : Nat) : Option LandBuf := r.lands.find? (fun b => b.src == a && b.buf == buf)

/-- Fabric address and landing buffer of destination `a` of the stream table at offset `o` of TABLES (R226). -/
def Plan.destOf (p : Plan) (o a : Nat) : Nat × Nat := (le p.tables (o + 64 + 4 * a) 2, le p.tables (o + 64 + 4 * a + 2) 2)

/-- Bytes of a delivery of a STREAM (R225). -/
def Plan.deliverBytes (p : Plan) (st : Step) : Nat :=
  let o := st.sp 0x68 4
  match st.sp 0x6F 1 with
  | 0xFF => le p.tables (o + 0x20) 8
  | c => elemBytes (Fmt.ofCode c) (le p.tables (o + 0x18) 8)

/-- Packets of a delivery. -/
def Plan.deliverPkts (p : Plan) (st : Step) : Nat := ceilDiv (p.deliverBytes st) 4096

/-- Turns a delivery takes: one for each packet, and one for a delivery that has none. DEDUCED, log 38. -/
def Plan.deliverTurns (p : Plan) (st : Step) : Nat := max 1 (p.deliverPkts st)

/-- `k` lies below `limit` as 32-bit serial numbers (R234). -/
def serialBelow (k limit : Nat) : Bool := let g := (limit + 2 ^ 32 - k % 2 ^ 32) % 2 ^ 32; g != 0 && decide (g < 2 ^ 31)

/-- Whether a destination may be emitted to: its delivery has begun, or its buffer is open and its grant admits it. -/
def Dev.granted (d : Dev) (y : Nat) (p : Plan) (o : Nat) (x : DestSt) : Bool :=
  x.sent != 0 ||
    (match (d.yard y).land (p.destOf o x.accel).1 (p.destOf o x.accel).2 with
     | none => false
     | some b => serialBelow x.seq b.limit)

/-- Whether an entry in service can emit (R229). -/
def Dev.canEmit (d : Dev) (y : Nat) (p : Plan) (st : Step) (e : EntrySt) : Bool :=
  let ok (x : DestSt) : Bool := d.granted y p (st.sp 0x68 4) x
  let todo := e.dests.filter (fun x => decide (x.sent < p.deliverTurns st))
  if d.on (R.DRV_CTRL_REREAD y) then todo.any ok else todo.all ok

/-- The entry of thread `t`'s STREAM that drover `dr` serves next: the lowest that is not emitted whole (R217, R228).
DEDUCED, log 38. -/
def Dev.droverEntry (d : Dev) (y t dr : Nat) : Option (Plan × Step × EntrySt) :=
  match d.activeStep y t with
  | none => none
  | some (p, st, a) =>
    match a.stream with
    | none => none
    | some z => (z.entries.find? (fun e => e.drover == dr && e.dests.any (fun x => decide (x.sent < p.deliverTurns st)))).map (fun e => (p, st, e))

/-- The threads whose entries are in service at drover `dr`: a thread stays in service while its STREAM has entries there, and
up to four are; a free place goes to the lowest thread that waits (R217). DEDUCED, log 38. -/
def Dev.serving (d : Dev) (y dr : Nat) : List Nat :=
  let has (t : Nat) : Bool := (d.droverEntry y t dr).isSome
  let old := ((d.yard y).drvOrder.getD dr []).filter has
  (old ++ (List.range (d.yard y).thrs.length).filter (fun t => has t && !old.contains t)).take 4

/-- The entry of thread `t`'s STREAM in service at drover `dr`. -/
def Dev.inService (d : Dev) (y t dr : Nat) : Option (Plan × Step × EntrySt) :=
  if (d.serving y dr).contains t then d.droverEntry y t dr else none

/-- Settle which entries each drover serves, and show every drover in DRV_STATE. -/
def showDrovers (y : Nat) : M d0 Unit := do
  let d ← dev
  modYard y (fun r => { r with
    drvOrder := (List.range 12).map (d.serving y)
    drvSent := (List.range 12).map (fun dr => (r.drvSent.getD dr []).filter (fun t => (d.serving y dr).contains t)) })
  each (List.range (d.baysOf y).length) (fun dr => do
    let es := (d.serving y dr).filterMap (fun t => d.droverEntry y t dr)
    let dem := match d.activeStep y dr with
      | some (_, st, a) => st.type == tDemand && a.code.isNone
      | none => false
    let mode := if !es.isEmpty then (if es.any (fun x => d.canEmit y x.1 x.2.1 x.2.2) then 2 else 3) else if dem then 1 else 0
    wr (R.DRV_STATE_MODE y dr) mode
    wr (R.DRV_STATE_ENTRIES y dr) es.length
    wr (R.DRV_STATE_ENTRY y dr) (es.foldl (fun m x => min m x.2.2.i) (if es.isEmpty then 0 else 0xFFFF)))

/-! ### Sheds (R239, R241) -/

/-- The sheds of a plan: buffer index, tile bytes and slots. -/
def Plan.sheds (p : Plan) : List (Nat × Nat × Nat) :=
  ((p.steps.filter (fun st => st.type == tStream && st.sp 0x6C 2 != 0xFFFF)).filterMap (fun st =>
    let tile := le p.tables (st.sp 0x68 4 + 0x20) 8
    (p.bufs[st.sp 0x6C 2]?).map (fun b => (st.sp 0x6C 2, tile, (b.len - 4096) / max 1 tile)))).eraseDups

/-- Near address of a shed. -/
def Dev.shedAt (d : Dev) (y : Nat) (p : Plan) (b : Nat) : Option Nat :=
  match (p.bufs[b]?).bind (fun x => d.bufPlace y x 0) with
  | some (.mem 1 a) => some a
  | _ => none

/-- The TAG word of slot `s` of a shed. DEDUCED, log 39. -/
def shedTag (y shed s : Nat) : M d0 (Option Nat) := do
  match ← readMem y 1 (shed + 16 * s) 8 with
  | some bs => return some (leNat bs)
  | none => return none

/-- Clear VALID of slot `s` of a shed. -/
def shedInvalidate (y shed s : Nat) : M d0 Unit := do
  match ← shedTag y shed s with
  | some v => let _ ← writeMem y 1 (shed + 16 * s) (leBytes 8 (v % 2 ^ 63))
  | none => pure ()

/-- Clear the slots of every shed whose tile meets a far range (R241). -/
def shedClear (y : Nat) (p : Plan) (a len : Nat) : M d0 Unit := do
  each p.sheds (fun sh => do
    match (← dev).shedAt y p sh.1 with
    | none => pure ()
    | some base => each (List.range sh.2.2) (fun s => do
        match ← shedTag y base s with
        | none => pure ()
        | some v =>
          let t := v % 2 ^ 58 * 64
          if bit v 63 && decide (t < a + len) && decide (a < t + sh.2.1) then shedInvalidate y base s else pure ()))

/-- The end of a HOT step: every SCORE falls by AGE, not below 0. DEDUCED, log 39. -/
def shedAge (y shed slots age : Nat) : M d0 Unit :=
  each (List.range slots) (fun s => do
    match ← readMem y 1 (shed + 16 * s + 8) 2 with
    | some bs =>
      let _ ← writeMem y 1 (shed + 16 * s + 8) (leBytes 2 (leNat bs - age))
    | none => pure ())

/-- Slots of a plan's shed. -/
def Plan.shedSlots (p : Plan) (b : Nat) : Nat := ((p.sheds.find? (fun s => s.1 == b)).map (fun s => s.2.2)).getD 0

/-- A STREAM step ends in error: no further READY of it is sent (R243), and a HOT one lowers the SCOREs (R240). -/
def streamOver (y : Nat) (p : Plan) (st : Step) (z : StreamSt) : M d0 Unit := do
  let mine (b : LandBuf) (l : Nat × Nat) : Bool := z.entries.any (fun e => e.i == l.2 && e.dests.any (fun x =>
    x.seq == l.1 && p.destOf z.table x.accel == (b.src, b.buf)))
  modYard y (fun r => { r with lands := r.lands.map (fun b => { b with landed := b.landed.filter (fun l => !mine b l) }) })
  match z.shed with
  | some shed => if z.hot then shedAge y shed (p.shedSlots (st.sp 0x6C 2)) z.age else pure ()
  | none => pure ()

/-- A HOT STREAM step that ends before its deliveries have begun lowers the SCOREs as well (R240). -/
def streamUnbegun (y : Nat) (p : Plan) (st : Step) : M d0 Unit := do
  if st.type = tStream ∧ st.sp 0x6E 1 = 1 ∧ st.sp 0x6C 2 ≠ 0xFFFF then
    match (← dev).shedAt y p (st.sp 0x6C 2) with
    | none => pure ()
    | some shed => shedAge y shed (p.shedSlots (st.sp 0x6C 2)) (le p.tables (st.sp 0x68 4 + 0x28) 1)
  else pure ()

/-! ### Starting and completing steps -/

/-- Ranges with `[a, a + len)` of a tier added for communicator `c`, joined with those it touches. -/
def addWrote (ws : List (Nat × Nat × Nat × Nat)) (tier a len c : Nat) : List (Nat × Nat × Nat × Nat) :=
  let touches (w : Nat × Nat × Nat × Nat) : Bool :=
    w.1 == tier && w.2.2.2 == c && decide (w.2.1 ≤ a + len) && decide (a ≤ w.2.1 + w.2.2.1)
  let ts := ws.filter touches
  let lo := ts.foldl (fun n w => min n w.2.1) a
  let hi := ts.foldl (fun n w => max n (w.2.1 + w.2.2.1)) (a + len)
  (tier, lo, hi - lo, c) :: ws.filter (fun w => !touches w)

/-- Note a range that a lap of an op of communicator `c` writes. -/
def noteWrite (y tier a len c : Nat) : M d0 Unit := do
  if len = 0 then pure () else modYard y (fun r => { r with wrote := addWrote r.wrote tier a len c })

/-- The op of communicator `c` is decided: what its laps wrote reads as written, or, after an error, as free values until a
re-run commits (R16). DESIGN CHOICE, log 44. -/
def settleWrites (y c : Nat) (commit : Bool) : M d0 Unit := do
  let d ← dev
  each ((d.yard y).wrote.filter (fun w => w.2.2.2 == c)) (fun w =>
    act (if commit then .unveil (d.addr y w.1 w.2.1) w.2.2.1 else .veil (d.addr y w.1 w.2.1) w.2.2.1))
  modYard y (fun r => { r with wrote := r.wrote.filter (fun w => w.2.2.2 != c) })

/-- A step about to be issued: plan, thread, record, loop indices. -/
structure Issue where
  p : Plan
  h : Thr
  st : Step
  env : List Nat

/-- Whether an op in progress has begun in thread `t`: a freeze at a step boundary runs it to its end (R484). -/
def Dev.opOpen (d : Dev) (y t : Nat) (p : Plan) : Bool :=
  let ix := (p.threadSteps t).map (fun e => e.1)
  (List.range p.comms.length).any (fun c =>
    match Tab.find d.comms (yk y c) with
    | none => false
    | some x => bits (d.fld (R.TRN_COMM_STATE y c)) 0 3 != 0 && x.begun.any (fun i => ix.contains i))

/-- The next step of thread `t` when it has type `type` and may start (R91, R121, R123). -/
def Dev.issue (d : Dev) (y t type : Nat) : Option Issue :=
  let r := d.yard y
  if !d.live y || r.fatal || !r.running || r.failed || !(d.plnState y == 3 || d.plnState y == 4) then none
  else
    match r.plan, r.thrs[t]? with
    | some p, some h =>
      if h.active.isSome || h.pc == h.stop then none
      else if d.fld (R.YRD_FRZ_STATUS_STATE y) == 1 && !d.opOpen y t p then none
      else match p.steps[h.pc]? with
        | none => none
        | some st => if st.type = type then some { p := p, h := h, st := st, env := h.env } else none
    | _, _ => none

/-- Make the step active. `code` is set when its work is over at once. -/
def startStep (y t : Nat) (i : Issue) (code : Option Nat) : M d0 Unit := do
  let a : Active :=
    { step := i.h.pc, env := i.env, code := code, runs := [], live := false, lap := none, stream := none, origin := none }
  modThr y t (fun h => { h with active := some a, waiting := false })
  showThread y t
  if i.st.isLocal 3 then
    match (← dev).refPlace y i.p i.st i.env 3 with
    | some (.mem tier a) => if tier = 2 then shedClear y i.p a (i.p.refLen i.st 3) else pure ()
    | _ => pure ()
  else pure ()

/-- Start the next step of thread `t` when it has type `type`, or take up again an active step of that type whose work
waits for a translation or a page: plan, record, loop indices, and whether it starts now. -/
def beginStep (y t type : Nat) : M d0 (Option (Plan × Step × List Nat × Bool)) := do
  let d ← dev
  match d.issue y t type with
  | some i =>
    startStep y t i none
    return some (i.p, i.st, i.env, true)
  | none =>
    match d.activeStep y t with
    | some (p, st, a) =>
      if d.live y && st.type == type && a.code.isNone && !a.live && a.runs.isEmpty && a.lap.isNone && a.stream.isNone then
        return some (p, st, a.env, false)
      return none
    | none => return none

/-- Whether the plan has a SEAL with ADVANCE (R113). -/
def Plan.hasAdvance (p : Plan) : Bool := p.steps.any (fun st => st.type == tSeal && bit st.flags 0)

/-- A communicator at run time. -/
def Dev.comm (d : Dev) (y c : Nat) : Option Comm := Tab.find d.comms (yk y c)

/-- Change a communicator. -/
def modComm (y c : Nat) (f : Comm → Comm) : M d0 Unit := do
  match (← dev).comm y c with
  | none => pure ()
  | some x => act (.comm (yk y c) (some (f x)))

/-- The step counter advances (R112). -/
def advanceStep (y : Nat) : M d0 Unit := do
  bump (R.PLN_STEP_COUNT y) 1
  modYard y (fun r => { r with recHit := [] })

/-- What an iteration that ends in error leaves unspecified, whatever it has written (R186, R214): the planes of each inactive
bank, the loft buffers that steps write, the selected sets, the HIST buffers and the inactive half of each bittern.
Tier, yard address, length. -/
def Dev.lostRanges (d : Dev) (y : Nat) (p : Plan) : List (Nat × Nat × Nat) :=
  let at_ (b off len : Nat) : List (Nat × Nat × Nat) :=
    match (p.bufs[b]?).bind (fun x => d.bufPlace y x off) with
    | some (.mem t a) => [(t, a, len)]
    | _ => []
  let len (b : Nat) : Nat := ((p.bufs[b]?).map (fun x => x.len)).getD 0
  let banks := p.pairs.eraseDups.filterMap (fun e => d.planes y p (p.bank (d.odd y) e.2))
  let lofts := (p.steps.flatMap (fun st =>
    if st.isLocal 3 && !p.inPair st.out.buf then (at_ st.out.buf 0 (len st.out.buf)).filter (fun q => q.1 == 0) else [])).eraseDups
  let sels := p.indexed.flatMap (fun e =>
    let st := e.2
    if st.type = tSelect then
      let b := st.sp 0x6C 2
      (p.envs e.1).flatMap (fun env => at_ (p.bank (d.odd y) st.out.buf) (st.out.start env) (selBytes st.count)) ++
        at_ (st.sp 0x6E 2) 0 (min 524288 (len (st.sp 0x6E 2))) ++ at_ b (if d.odd y then 0 else len b / 2) (len b / 2)
    else [])
  banks ++ lofts ++ sels

/-- These ranges become free values. DESIGN CHOICE, log 44. -/
def spoilLost (y : Nat) (p : Plan) : M d0 Unit := do
  let d ← dev
  each (d.lostRanges y p) (fun q => act (.spoil (d.addr y q.1 q.2.1) q.2.2))

/-- Test whether the iteration is over: every thread has completed its last step with OK, or a step has failed and none is
active any more (R112, R122, R123). After an error an op without a verdict stays the communicator's current op (R132, R151).
DEDUCED, log 45. -/
def iterCheck (y : Nat) : M d0 Unit := do
  let d ← dev
  let r := d.yard y
  match r.plan with
  | none => return
  | some p =>
    if !r.running then return
    if r.failed then
      if r.thrs.all (fun h => h.active.isNone) then
        modYard y (fun r => { r with running := false })
        spoilLost y p
        wr (R.PLN_STATUS_STATE y) 5
        plnEvent y 6 1
      else pure ()
    else if r.thrs.all Thr.over then
      modYard y (fun r => { r with running := false, iters := r.iters - 1 })
      each (List.range p.comms.length) (fun c =>
        if d.fld ((R.TRN_COMM_STATE y c).sub 0 3) = 0 then modComm y c (fun x => { x with opseq := 0, begun := [] }) else pure ())
      if !p.hasAdvance then advanceStep y else pure ()
      bump (R.PLN_ITER_DONE y) 1
      if d.plnState y = 4 ∨ (!r.endless ∧ r.iters ≤ 1) then wr (R.PLN_STATUS_STATE y) 2 else pure ()
      plnEvent y 5 0
    else pure ()

/-- Steps that fail in one command fail together: PLN_ERR takes the highest code, and the lowest thread of equal codes
(R123). -/
def together (y : Nat) (f : M d0 Unit) : M d0 Unit := do
  let r := (← dev).yard y
  if r.failed || r.batch then f
  else
    modYard y (fun r => { r with batch := true })
    f
    modYard y (fun r => { r with batch := false })

/-- Whether a failure of thread `t` with `code` is the one that PLN_ERR records (R123). -/
def Dev.ranksFirst (d : Dev) (y t code : Nat) : Bool :=
  let e := d.fld (R.PLN_ERR y)
  !(d.yard y).failed || ((d.yard y).batch && (decide (bits e 0 8 < code) || (bits e 0 8 == code && decide (t < bits e 8 8))))

/-- The active step of thread `t` completes with `code` (R91, R123); whether the iteration is over is not tested yet. -/
def stepEnd (y t code : Nat) (origin : Option Nat) : M d0 Unit := do
  let d ← dev
  match d.active y t with
  | none => return
  | some a =>
    freeThread y t
    if code = 0 then
      modThr y t Thr.next
    else
      match d.activeStep y t, a.stream with
      | some (p, st, _), some z => streamOver y p st z
      | some (p, st, _), none => if a.code.isNone then streamUnbegun y p st else pure ()
      | _, _ => pure ()
      if d.ranksFirst y t code then
        wr (R.PLN_ERR y) (code + 2 ^ 8 * t + 2 ^ 16 * (a.step % 2 ^ 16))
        wr (R.PLN_ERR_ORIGIN y) (match origin with
          | some o => o % 4096 + 2 ^ 31
          | none => 0)
      else pure ()
      modYard y (fun r => { r with failed := true, thrs := r.thrs.map (fun h => if h.waiting then { h with active := none, waiting := false } else h) })
      modThr y t (fun h => { h with active := none, waiting := false })
    each (List.range (d.yard y).thrs.length) (showThread y)
    showDrovers y
    pumpRuns y

/-- The active step of thread `t` completes with `code`, which may end the iteration. -/
def stepDone (y t code : Nat) (origin : Option Nat) : M d0 Unit := do
  stepEnd y t code origin
  iterCheck y

/-- Set the code an active step will complete with, once. -/
def setCode (y t code : Nat) : M d0 Unit := modActive y t (fun a => { a with code := some (a.code.getD code), runs := [] })

/-! ### Iterations (R108, R122, R131, R146, R234) -/

/-- ITERATION_START (R108, R234): events and landing sequences restart, every thread stands at its first step. A communicator
that still waits for the verdict of a failed iteration's op keeps that op (R151, R154). DEDUCED, log 45. -/
def execIterationStart (y : Nat) (s : State) : Host.Outcome State Fault Refusal :=
  perform s do
    let d ← dev
    let r := d.yard y
    match r.plan with
    | none => return
    | some p =>
      if !d.live y || r.fatal || r.running || !(d.plnState y == 3) || d.fld (R.YRD_FRZ_STATUS_STATE y) == 1 then return
      each (List.range 64) (fun e => wr (R.PLN_EVENT y e) 0)
      wr (R.DRV_EPOCH y) ((d.fld (R.DRV_EPOCH y) + 1) % 256)
      modYard y (fun r => { r with
        running := true, failed := false, recHit := [],
        landReqs := r.landReqs.map (fun e => match e.2.owner with
          | .delivery _ _ _ => (e.1, { e.2 with owner := .gone })
          | _ => e),
        lands := r.lands.map (fun b =>
          if b.kind = 1 then { b with seq := 0, limit := b.slots, ready := 0, landed := [] } else b),
        thrs := p.threads.map (fun e =>
          let first := if e.2 = 0 then 0 else e.1
          { pc := first, stop := first + e.2, loops := [], active := none, waiting := false }) })
      each (List.range p.comms.length) (fun c => if 4 ≤ d.fld ((R.TRN_COMM_STATE y c).sub 0 3) then pure () else modComm y c (fun x => { x with
        opseq := 0, begun := [], check := true, code := 0, abortCode := 0, abortOrigin := 0, abortCause := 0,
        fwdAbort := false, bwdAbort := false, verdict := none, early := false, refused := false }))
      each (List.range p.threads.length) (showThread y)
      iterCheck y

/-! ### Events, WAIT, SIGNAL, LOOP -/

/-- Add to an event counter, which saturates (R108). -/
def eventAdd (y e n : Nat) : M d0 Unit := do
  let v ← rd (R.PLN_EVENT y e)
  wr (R.PLN_EVENT y e) (min (v + n) (2 ^ 64 - 1))

/-- The sum a WAIT compares with (R109). -/
def Step.waitSum (st : Step) (env : List Nat) : Int :=
  let inc := st.sp 0x6C 4
  (st.sp 0x70 8 : Int) + (if inc < 2 ^ 31 then (inc : Int) else (inc : Int) - 2 ^ 32) * levelIx env (st.sp 0x69 1)

/-- WAIT (R109). -/
def execWait (y t : Nat) (s : State) : Host.Outcome State Fault Refusal :=
  perform s do
    match (← dev).issue y t tWait with
    | none => return
    | some i =>
      startStep y t i none
      modThr y t (fun h => { h with waiting := true })
      showThread y t

/-- WAIT_SATISFIED (R109): the waiting step completes when the counter has reached its sum. -/
def execWaitSatisfied (y t : Nat) (s : State) : Host.Outcome State Fault Refusal :=
  perform s do
    let d ← dev
    match d.activeStep y t with
    | none => return
    | some (_, st, a) =>
      if !d.live y || st.type != tWait then return
      if st.waitSum a.env ≤ (d.fld (R.PLN_EVENT y (st.sp 0x68 1)) : Int) then stepDone y t 0 none else pure ()

/-- A one-flit SIGNAL packet body (R367). -/
def signalBody (event add : Nat) : List Byte := leBytes 1 event ++ zeros 3 ++ beBytes 4 add

/-- SIGNAL (R110). Without a key set no tagged packet leaves, and the step ends with AUTH_FAILED (R430). -/
def execSignal (y t : Nat) (s : State) : Host.Outcome State Fault Refusal :=
  perform s do
    let d ← dev
    match d.issue y t tSignal with
    | none => return
    | some i =>
      let st := i.st
      match st.sp 0x68 1 with
      | 0 =>
        eventAdd y (st.sp 0x69 1) (st.sp 0x6C 4)
        startStep y t i (some 0)
      | 1 =>
        let ok ← inject y (y + t) (mkPkt 0x33 (st.sp 0x70 2) (d.addrOf (y + t)) (y + t) true (signalBody (st.sp 0x69 1) (st.sp 0x6C 4)) [])
        startStep y t i (some (if ok then 0 else cAuthFailed))
      | _ =>
        irqYard y (st.sp 0x6A 2)
        startStep y t i (some 0)

/-- LOOP (R105): the body begins with the first index; a LOOP with an empty body completes. -/
def execLoop (y t : Nat) (s : State) : Host.Outcome State Fault Refusal :=
  perform s do
    match (← dev).issue y t tLoop with
    | none => return
    | some i =>
      let n := i.st.sp 0x68 2
      let desc := i.st.sp 0x6B 1 == 1
      if n = 0 then modThr y t Thr.next
      else
        let f : Frame :=
          { level := i.st.sp 0x6A 1, descending := desc, count := i.st.count, i := if desc then i.st.count - 1 else 0,
            start := i.h.pc + 1, stop := i.h.pc + 1 + n }
        modThr y t (fun h => { h with pc := h.pc + 1, loops := f :: h.loops })
      showThread y t
      iterCheck y

/-- PLN_EVENT_ADD (R108, R126): a value of 0 has no effect. -/
def execPlnEventAdd (y value : Nat) (s : State) : Host.Outcome State Fault Refusal :=
  perform s do
    if ← cmdReach y then eventAdd y (bits value 0 6) (bits value 8 24) else pure ()

/-! ### MOVE -/

/-- The places of a step's stream: its first element and its first scale byte. -/
def Dev.streamAt (d : Dev) (y : Nat) (p : Plan) (st : Step) (env : List Nat) (k : Nat) : Option (Place × Place) :=
  (d.refPlace y p st env k).map (fun q => (q, q.add (elemBytes (p.refFmt st k) (p.refElems st k))))

/-- The draw key of a step's runs (R73, R101). -/
def Dev.keyOf (d : Dev) (y : Nat) (p : Plan) (st : Step) : DrawKey :=
  { seed := if st.seed = 0xFF then 0 else d.fld (R.PLN_SEED y st.seed), stepCount := d.fld (R.PLN_STEP_COUNT y),
    member := p.memberOf st, stream := st.stream }

/-- The one run of a step over `n` elements from position `pos` (R106: the W48 chooses the division).
DESIGN CHOICE, log 15. -/
def Dev.wholeRun (d : Dev) (y : Nat) (p : Plan) (st : Step) (env : List Nat) (g : Prog) (pos n : Nat) (scalars : List WV)
    (ins : List Src) (dst : Dst) : RunSpec :=
  { prog := g, beats := n / g.lanes, period := if st.period = 0 then n / g.lanes else st.period, base := st.baseIx env,
    pos := pos, elems := [], key := d.keyOf y p st, weight := p.weightOf st, scalars := scalars, ins := ins, dst := dst,
    chunk := none }

/-- Queue runs of a step and start what can start. DESIGN CHOICE, log 15. -/
def queueRuns (y t : Nat) (rs : List RunSpec) : M d0 Unit := do
  modActive y t (fun a => { a with runs := a.runs ++ rs })
  pumpThread y t

/-- MOVE (R103): with a program one run over COUNT elements, without one a copy of COUNT bytes. A copy that waits for a
translation or a page stays active, and this command tries it again. -/
def execMove (y t : Nat) (host : HostSide) (s : State) : Host.Outcome State Fault Refusal :=
  perform s do
    match ← beginStep y t tMove with
    | none => return
    | some (p, st, env, fresh) =>
      let d ← dev
      match p.prog st with
      | some g =>
        if !fresh then return
        let ins := (List.range g.inFmts.length).filterMap (fun k => (d.streamAt y p st env k).map (fun q => Src.at q.1 q.2 false))
        let dst := match g.outFmt, d.streamAt y p st env 3 with
          | some _, some q => Dst.at q.1 q.2
          | _, _ => Dst.none
        if g.lanes = 0 ∨ st.count / g.lanes = 0 then setCode y t 0
        else queueRuns y t [d.wholeRun y p st env g 0 st.count [] ins dst]
      | none =>
        match d.refPlace y p st env 0, d.refPlace y p st env 3 with
        | some src, some dst =>
          match ← readPlace y (y + t) src st.count (.ctx 48 t) host with
          | .wait => return
          | .err c => setCode y t c
          | .ok bs =>
            match dst with
            | .mem _ _ => setCode y t (if ← writePlace y dst bs then 0 else cMemUncorrectable)
            | .host q v =>
              match ← hostSide y (y + t) q v st.count true (.ctx 48 t) host with
              | .wait => return
              | .err c => setCode y t c
              | .ok _ =>
                hostWr y q v bs
                setCode y t 0
        | _, _ => setCode y t cLocalProtection

end Sys2Proof.Machine
end

