-- ==== Sys2Proof/Machine/Ether.lean ====
section
/-! DEFINITION. The Ethernet ports and their scheduler (13). -/

namespace Sys2Proof.Machine

variable {d0 : Dev}

/-! ### Subports (R391) -/

/-- MODE of a port in the committed layout. -/
def Dev.ethMode (d : Dev) (p : Nat) : Nat := d.lay.cur.eth.getD p 0

/-- Whether subport `u` exists under a MODE. -/
def subExists (mode s : Nat) : Bool :=
  (mode == 1 && s == 0) || (mode == 2 && decide (s < 2)) || (mode == 3 && decide (s < 4))

/-- Whether subport `u` exists. -/
def Dev.subOk (d : Dev) (u : Nat) : Bool := decide (u < 16) && subExists (d.ethMode (u / 4)) (u % 4)

/-- Rate of a subport in Gb/s. -/
def modeRate (mode : Nat) : Nat := if mode = 1 then 1600 else if mode = 2 then 800 else 400

/-- A subport's record. -/
def Dev.sub (d : Dev) (u : Nat) : SubPort := d.eth.subs.getD u SubPort.reset

/-- Change a subport. -/
def modSub (u : Nat) (f : SubPort → SubPort) : M d0 Unit := do act (.sub u (f ((← dev).sub u)))

/-- Change the rest of the Ethernet state. -/
def setEth (e : Eth) : M d0 Unit := act (.eth e.tokens e.rates e.mgmtTok e.rx e.rxOn e.txOn)

/-! ### Gates (R404) -/

/-- Whether gates act on subport `u`. -/
def Dev.gated (d : Dev) (u : Nat) : Bool := bit (d.fld (R.ETH_GCL_CTRL u)) 0 && !(d.sub u).gates.entries.isEmpty

/-- Entry `i` of a list, counted round. -/
def GateList.at (g : GateList) (i : Nat) : Nat × Nat := g.entries.getD (i % max 1 g.entries.length) (0xFF, 0)

/-- The entry of an operating list in force at time `t`, and when it ends: the list repeats with its period from its base time. -/
def GateList.place (g : GateList) (t : Nat) : Nat × Nat :=
  let n := g.entries.length
  let c := max 1 g.cycle
  let phase := (t % c + c - g.base % c) % c
  let ends := (List.range n).map (fun i => (g.entries.take (i + 1)).foldl (fun s e => s + e.2) 0)
  match (List.range (n - 1)).find? (fun i => decide (phase < ends.getD i 0)) with
  | some i => (i, t - phase + min c (ends.getD i 0))
  | none => (n - 1, t + (c - phase))

/-- Time until the gate of class `c` closes: what is left of the current entry and of those that follow while the gate
stays open; none when it never closes, 0 when it is closed. `fuel` counts entries. -/
def gateLeft (g : GateList) (c : Nat) : Nat → Nat → Nat → Option Nat
  | 0, _, _ => none
  | fuel + 1, i, left =>
    if !bit (g.at i).1 c then some 0
    else (gateLeft g c fuel (i + 1) (g.at (i + 1)).2).map (fun r => left + r)

/-- Time until the gate of class `c` next opens after being closed. -/
def gateOpens (g : GateList) (c : Nat) : Nat → Nat → Nat → Bool → Option Nat
  | 0, _, _, _ => none
  | fuel + 1, i, left, wasClosed =>
    if bit (g.at i).1 c && wasClosed then some 0
    else (gateOpens g c fuel (i + 1) (g.at (i + 1)).2 (!bit (g.at i).1 c)).map (fun r => left + r)

/-- The counted length of a frame (R400). -/
def Dev.clen (d : Dev) (len : Nat) : Nat := len + d.fld R.ETH_OVERHEAD

/-- Whether a frame of class `c` may start under the gates: open, and over before the gate closes. -/
def Dev.gateFits (d : Dev) (u c len : Nat) : Bool :=
  if !d.gated u then true
  else
    let sp := d.sub u
    let need := ceilDiv (d.clen len * 8) (modeRate (d.ethMode (u / 4)))
    match gateLeft sp.gates c (sp.gates.entries.length + 1) sp.gix (sp.gend - d.fld R.ETH_TIME) with
    | none => true
    | some t => decide (need ≤ t)

/-! ### Eligibility and tags (R398 to R402) -/

/-- Tokens of a class shaper. -/
def Dev.tokens (d : Dev) (b c : Nat) : Int := (d.eth.tokens.getD b []).getD c 0

/-- Whether classes 0 to 6 of a bay are shaped: RATE as it stood at the last refill is not 0 (R402, R403). -/
def Dev.shaped (d : Dev) (b c : Nat) : Bool := (d.eth.rates.getD b []).getD c 0 != 0

/-- Whether the shaping of R401 lets bay `b` start a frame on subport `u`: always, unless the layout is SHARE_STRICT.
DESIGN CHOICE, log 62. -/
def Dev.shapeOk (d : Dev) (u b : Nat) : Bool := !d.lay.cur.strict || decide ((d.sub u).bayNext.getD b 0 ≤ d.now)

/-- The time a frame of `cl` counted bytes takes of a bay's twelfth of a subport of `rate` Gb/s, in ns (R401). -/
def shapeTime (cl rate : Nat) : Nat := ceilDiv (cl * 8 * 12) (max 1 rate)

/-- Whether a frame may start: gate, guard, shaper and the shaping of SHARE_STRICT (R398); a frame of the management ring
also needs that ring to run (R408). -/
def Dev.eligible (d : Dev) (u : Nat) (f : EthTx) : Bool :=
  d.gateFits u f.cls f.len && (f.bay == 12 || d.shapeOk u f.bay) &&
  (if f.bay = 12 then d.eth.txOn && decide (0 < d.eth.mgmtTok)
   else (f.cls != 7 && !d.shaped f.bay f.cls) || decide (0 < d.tokens f.bay f.cls))

/-- The head frame of a class of a bay. -/
def SubPort.head (p : SubPort) (b c : Nat) : Option EthTx := p.queue.find? (fun f => f.bay == b && f.cls == c)

/-- The eligible head frame of a class of a bay. -/
def Dev.ready (d : Dev) (u b c : Nat) : Option EthTx := ((d.sub u).head b c).filter (d.eligible u)

/-- max(V, F) of the classes of bay `b`: kept while the head stays eligible, taken when it becomes eligible, none else. -/
def Dev.newClsBases (d : Dev) (u b : Nat) : List (Option Nat) :=
  let p := d.sub u
  (List.range 7).map (fun c => match d.ready u b c with
    | none => none
    | some _ => some (((p.clsBase.getD b []).getD c none).getD (max (p.clsV.getD b 0) ((p.clsF.getD b []).getD c 0))))

/-- Bring the tags of a subport up to date (R399). -/
def retag (u : Nat) : M d0 Unit := do
  let d ← dev
  let ct := (List.range 12).map (fun b => d.newClsBases u b)
  modSub u (fun p => { p with
    clsBase := ct
    bayBase := (List.range 12).map (fun b =>
      if (ct.getD b []).all (fun t => t.isNone) then none
      else some ((p.bayBase.getD b none).getD (max p.bayV (p.bayF.getD b 0)))) })

/-- The least of a list of candidates by tag; equal tags are settled by the order, and the winner of a tie goes last. -/
def leastTag (order : List Nat) (tag : Nat → Option Nat) : Option (Nat × Nat × List Nat) :=
  let cands := order.filterMap (fun i => (tag i).map (fun t => (i, t)))
  match cands with
  | [] => none
  | c :: cs =>
    let m := cs.foldl (fun m x => if x.2 < m.2 then x else m) c
    some (m.1, m.2, if (cands.filter (fun x => x.2 == m.2)).length ≤ 1 then order else rotate order m.1)

/-- The class that bay `b` would serve next, with its tag: the counted length is that of a frame that starts now (R410). -/
def Dev.clsNext (d : Dev) (u b : Nat) : Option (Nat × Nat × List Nat) :=
  let p := d.sub u
  leastTag (p.clsOrder.getD b (List.range 7)) (fun c => match (p.clsBase.getD b []).getD c none, d.ready u b c with
    | some base, some f => some (base + d.clen f.len * 720720 / max 1 f.weight)
    | _, _ => none)

/-- A frame of the least length, padded with zeros before its FCS (R393). -/
def EthTx.padded (f : EthTx) : EthTx :=
  { f with len := max 64 f.len, bytes := f.bytes ++ zeros (if f.len < 64 then 60 - f.bytes.length else 0) }

/-- Hand a frame to a subport for transmission (R394). A discarded frame of the management ring frees its slot.
DESIGN CHOICE, log 62. -/
def ethSend (u : Nat) (f : EthTx) : M d0 Unit := do
  let d ← dev
  let f := f.padded
  if d.fld R.ETH_MAX_FRAME < f.len ∨ d.fld (R.ETH_SUB_STATE_LINK u) ≠ 2 ∨ !d.subOk u then
    bump (R.ETH_TX_DISCARD u) 1
    if f.slot.isSome then bump R.ETH_MGMT_TX_HEAD 1 else pure ()
  else
    let mac := beBytes 6 (d.fld (R.ETH_SUB_MAC u) % 2 ^ 48)
    let w := if f.bay < 12 then d.fld (R.ETH_CLS_WEIGHT f.bay f.cls) else 0
    modSub u (fun p => { p with queue := p.queue ++ [{ f with bytes := patch f.bytes 6 mac, weight := w }] })
    retag u

/-- A frame starts on subport `u`. One that a lowered ETH_MAX_FRAME no longer admits is discarded (R394, R410). -/
def ethStart (u : Nat) (f : EthTx) : M d0 Unit := do
  let d ← dev
  modSub u (fun p => { p with queue := p.queue.erase f })
  if d.fld R.ETH_MAX_FRAME < f.len then
    bump (R.ETH_TX_DISCARD u) 1
    if f.slot.isSome then bump R.ETH_MGMT_TX_HEAD 1 else pure ()
    retag u
    return
  emit (.eth u f)
  let rate := modeRate (d.ethMode (u / 4))
  if d.lay.cur.strict && decide (f.bay < 12) then
    modSub u (fun p => { p with
      bayNext := p.bayNext.set f.bay (max d.now (p.bayNext.getD f.bay 0) + shapeTime (d.clen f.len) rate) })
  else pure ()
  bump (R.ETH_TX_FRAMES u) 1
  let cl : Int := (d.clen f.len : Nat)
  let e := d.eth
  if f.bay = 12 then
    setEth { e with mgmtTok := e.mgmtTok - cl }
    match f.slot with
    | some k =>
      if f.stamp then
        pfWr (d.fld R.ETH_MGMT_TX_ADDR + k * 2 ^ bits (d.fld R.ETH_MGMT_RING_CFG) 8 4 + 8) (leBytes 8 (d.fld R.ETH_TIME))
      else pure ()
      bump R.ETH_MGMT_TX_HEAD 1
      pfEvent R.ETH_EVENTS R.ETH_IRQ 2 2
    | none => pure ()
  else if f.cls = 7 ∨ d.shaped f.bay f.cls then
    setEth { e with tokens := e.tokens.set f.bay ((e.tokens.getD f.bay []).set f.cls (d.tokens f.bay f.cls - cl)) }
  else pure ()
  retag u

/-- TRANSMIT_PICK (R398): subport `u` starts the next frame: urgent, then the bays by virtual finish time, then the
chosen bay's classes. -/
def execTransmitPick (u : Nat) (s : State) : Host.Outcome State Fault Refusal :=
  perform s do
    let d ← dev
    if !d.subOk u || d.fld (R.ETH_SUB_STATE_LINK u) != 2 || d.on (R.ETH_SUB_STATE_LPI_TX u) then return
    retag u
    let d ← dev
    let p := d.sub u
    let urgent (b : Nat) : Option EthTx := if b = 12 then (p.head 12 7).filter (d.eligible u) else d.ready u b 7
    match firstOf p.urgent (fun b => (urgent b).isSome) with
    | some b =>
      match urgent b with
      | some f =>
        modSub u (fun p => { p with urgent := rotate p.urgent b })
        ethStart u f
      | none => pure ()
    | none =>
      let bayTag (b : Nat) : Option Nat :=
        match p.bayBase.getD b none, d.clsNext u b with
        | some base, some c => (d.ready u b c.1).map (fun f => base + d.clen f.len * 720720)
        | _, _ => none
      match leastTag p.bayOrder bayTag with
      | none => pure ()
      | some (b, tag, order) =>
        match d.clsNext u b with
        | none => pure ()
        | some (c, ctag, corder) =>
          match d.ready u b c with
          | none => pure ()
          | some f =>
            modSub u (fun p => { p with
              bayOrder := order, bayF := p.bayF.set b tag, bayV := tag, bayBase := p.bayBase.set b none
              clsOrder := p.clsOrder.set b corder, clsF := p.clsF.set b ((p.clsF.getD b []).set c ctag)
              clsV := p.clsV.set b ctag, clsBase := p.clsBase.set b ((p.clsBase.getD b []).set c none) })
            ethStart u f

/-- SHAPER_REFILL (R402, R403): RATE × period / 8 bytes are added, capped at BURST; b = 12 is the management flow.
DESIGN CHOICE, log 48. -/
def execShaperRefill (b c : Nat) (s : State) : Host.Outcome State Fault Refusal :=
  perform s do
    let d ← dev
    let e := d.eth
    let add (rate : Nat) : Int := ((rate * d.fld R.ETH_REFILL / 80 : Nat) : Int)
    if b = 12 then setEth { e with mgmtTok := min 65536 (e.mgmtTok + add (d.fld R.ETH_MGMT_RATE)) }
    else if b < 12 ∧ c < 8 then
      let v := min ((d.fld (R.ETH_CLS_BURST b c) : Nat) : Int) (d.tokens b c + add (d.fld (R.ETH_CLS_RATE b c)))
      setEth { e with
        tokens := e.tokens.set b ((e.tokens.getD b []).set c v)
        rates := e.rates.set b ((e.rates.getD b []).set c (d.fld (R.ETH_CLS_RATE b c))) }
    else pure ()
    each ((List.range 16).filter d.subOk) retag

/-- GATE_ENTRY_END (R404): the next entry of the operating list is in force, whether its gates act or not.
DESIGN CHOICE, log 48. -/
def execGateEntryEnd (u : Nat) (s : State) : Host.Outcome State Fault Refusal :=
  perform s do
    let d ← dev
    if d.subOk u && !(d.sub u).gates.entries.isEmpty then
      modSub u (fun p => { p with gix := (p.gates.place p.gend).1, gend := (p.gates.place p.gend).2 })
      retag u
    else pure ()

/-- ETH_TIME has been set: every operating list stands where its base time and period put it (R404). -/
def syncGates : M d0 Unit := do
  let t := (← dev).fld R.ETH_TIME
  each (List.range 16) (fun u => do
    if ((← dev).sub u).gates.entries.isEmpty then pure ()
    else
      modSub u (fun p => { p with gix := (p.gates.place t).1, gend := (p.gates.place t).2 })
      retag u)

/-- The administrative list of a subport (R405). -/
def Dev.adminList (d : Dev) (u : Nat) : GateList :=
  { entries := (List.range (bits (d.fld (R.ETH_GCL_CTRL u)) 1 7)).map (fun e =>
      let v := d.fld (R.ETH_GCL u e)
      (bits v 0 8, bits v 8 32))
    cycle := d.fld (R.ETH_GCL_CYCLE u), base := d.fld (R.ETH_GCL_BASE u) }

/-- CONFIG_CHANGE (R405): the administrative list is copied, and takes effect at the first BASE + n × CYCLE that is at
least 1 µs away. -/
def execConfigChange (u : Nat) (s : State) : Host.Outcome State Fault Refusal :=
  perform s do
    let d ← dev
    if !d.pfOk || !d.subOk u then return
    let g := d.adminList u
    let t0 := d.fld R.ETH_TIME + 1000
    let T := if t0 ≤ g.base then g.base else g.base + ceilDiv (t0 - g.base) (max 1 g.cycle) * g.cycle
    modSub u (fun p => { p with pend := some (g, T) })
    wr ((R.ETH_GCL_STATUS u).sub 0 1) 1

/-- GCL_CHANGE_TIME (R405): the pending list becomes the operating list. -/
def execGclChangeTime (u : Nat) (s : State) : Host.Outcome State Fault Refusal :=
  perform s do
    match ((← dev).sub u).pend with
    | none => pure ()
    | some (g, T) =>
      modSub u (fun p => { p with gates := g, gix := (g.place T).1, gend := (g.place T).2, pend := none })
      wr ((R.ETH_GCL_STATUS u).sub 0 1) 0
      wr ((R.ETH_GCL_STATUS u).sub 1 7) g.entries.length
      retag u

/-! ### Low-power idle (R406, R407) -/

/-- LPI_ENTRY (R406): EN, a partner that advertised EEE with a wake time resolved, no frame queued, and no class 7 gate
that opens within Tw + IDLE. -/
def execLpiEntry (u : Nat) (s : State) : Host.Outcome State Fault Refusal :=
  perform s do
    let d ← dev
    let p := d.sub u
    let tw := d.fld (R.ETH_LPI_TW u)
    let idle := 1000 * bits (d.fld (R.ETH_LPI_CTRL u)) 8 8
    let soon := d.gated u && (match gateOpens p.gates 7 (p.gates.entries.length + 2) p.gix (p.gend - d.fld R.ETH_TIME) false with
      | some t => decide (t ≤ tw + idle)
      | none => false)
    if d.subOk u && d.fld (R.ETH_SUB_STATE_LINK u) == 2 && bit (d.fld (R.ETH_LPI_CTRL u)) 0 &&
        d.on (R.ETH_SUB_STATE_EEE_PEER u) && tw != 0 && p.queue.isEmpty && !soon && !d.on (R.ETH_SUB_STATE_LPI_TX u) then
      wr (R.ETH_SUB_STATE_LPI_TX u) 1
      emit (.ethIdle u true)
    else pure ()

/-- LPI_WAKE (R406). -/
def execLpiWake (u : Nat) (s : State) : Host.Outcome State Fault Refusal :=
  perform s do
    if (← dev).on (R.ETH_SUB_STATE_LPI_TX u) then
      wr (R.ETH_SUB_STATE_LPI_TX u) 0
      emit (.ethIdle u false)
    else pure ()

/-- RX_LOW_POWER_IDLE (R407): receive low-power idle follows the partner. -/
def execRxLowPowerIdle (u : Nat) (enter : Bool) (s : State) : Host.Outcome State Fault Refusal :=
  perform s do
    let d ← dev
    if d.subOk u && d.fld (R.ETH_SUB_STATE_LINK u) == 2 then wr (R.ETH_SUB_STATE_LPI_RX u) (b2n enter) else pure ()

/-- The partner has sent an EEE TLV, or ETH_LPI_TW_OWN has changed: the wake time is the larger of its own and the partner's
(R407). -/
def resolveTw (u : Nat) : M d0 Unit := do
  let d ← dev
  if d.on (R.ETH_SUB_STATE_EEE_PEER u) then wr (R.ETH_LPI_TW u) (min 65535 (max (d.fld (R.ETH_LPI_TW_OWN u)) (d.sub u).peerTw)) else pure ()

/-- The LLDP agent advertises ETH_LPI_TW_OWN on a subport that is up (R407). -/
def advertise (u : Nat) : M d0 Unit := do
  let d ← dev
  if d.fld (R.ETH_SUB_STATE_LINK u) = 2 then emit (.lldp u (d.fld (R.ETH_LPI_TW_OWN u))) else pure ()

/-! ### The management transmit ring and the subports' links (R408, R409) -/

/-- ETH_MGMT_TX_TAIL (R408): the physical function posts transmit slots; each frame joins the management flow of the
subport its header names. Slots that a set has posted are read with them, since what host memory holds comes with this command.
DESIGN CHOICE, log 62. -/
def execEthMgmtTxTail (value : Nat) (slots : List (List Byte)) (s : State) : Host.Outcome State Fault Refusal :=
  perform s do
    let d ← dev
    if !d.pfOk then return
    let cfg := d.fld R.ETH_MGMT_RING_CFG
    let log := bits cfg 0 5
    let tail := d.ctl.txNext
    wr R.ETH_MGMT_TX_TAIL value
    modCtl (fun c => { c with txNext := value % 2 ^ 32 })
    let e := d.eth
    setEth { e with txOn := true }
    let n := (value + 2 ^ 32 - tail) % 2 ^ 32
    each ((List.zip (List.range (min n (2 ^ log))) slots)) (fun x => do
      let slot := (tail + x.1) % 2 ^ log
      emit (.hostRead 0 (d.fld R.ETH_MGMT_TX_ADDR + slot * 2 ^ bits cfg 8 4) (2 ^ bits cfg 8 4))
      let len := le x.2 0 2
      ethSend (le x.2 3 1 % 16) { bay := 12, cls := 7, len := len + 4, bytes := slice x.2 0x20 len, weight := 0, slot := some slot,
                                  stamp := bit (le x.2 2 1) 0 })

/-- ETH_TIME_ADJ (R409): a signed number of ns is added to ETH_TIME at once. -/
def execEthTimeAdj (value : Nat) (s : State) : Host.Outcome State Fault Refusal :=
  perform s do
    if !(← dev).pfOk then return
    let v := value % 2 ^ 32
    bump R.ETH_TIME (if v < 2 ^ 31 then v else 2 ^ 64 - 2 ^ 32 + v)
    syncGates

/-- Set the link of a subport, with a fresh scheduler when it comes up (R399, R407). -/
def subLink (u : Nat) (up : Bool) : M d0 Unit := do
  wr (R.ETH_SUB_STATE_LINK u) (if up then 2 else 1)
  wr (R.ETH_SUB_STATE_EEE_PEER u) 0
  wr (R.ETH_SUB_STATE_LPI_TX u) 0
  wr (R.ETH_SUB_STATE_LPI_RX u) 0
  wr (R.ETH_LPI_TW u) 0
  modSub u (fun p => { SubPort.reset with queue := p.queue, gates := p.gates, gix := p.gix, gend := p.gend, pend := p.pend,
                                          bayNext := p.bayNext, urgent := p.urgent, bayOrder := p.bayOrder, clsOrder := p.clsOrder })
  emit (.ethUp u up)
  advertise u
  retag u
  pfEvent R.ETH_EVENTS R.ETH_IRQ 0 0

/-- SUBPORT_LINK_CHANGE (R409). -/
def execSubportLinkChange (u : Nat) (up : Bool) (s : State) : Host.Outcome State Fault Refusal :=
  perform s do
    let d ← dev
    if d.subOk u && d.fld (R.ETH_SUB_STATE_LINK u) != (if up then 2 else 1) then
      subLink u up
    else pure ()

/-- Bring the subports of a port to a MODE: those that exist are down until they come up again (R45, R391). -/
def setPortMode (p mode : Nat) : M d0 Unit := do
  wr (R.ETH_PORT_MODE.sub (2 * p) 2) mode
  each (List.range 4) (fun k => do
    let u := 4 * p + k
    wr (R.ETH_SUB_STATE u) 0
    wr (R.ETH_GCL_STATUS u) 0
    modSub u (fun _ => SubPort.reset)
    if subExists mode k then
      wr (R.ETH_SUB_STATE_LINK u) 1
      wr (R.ETH_SUB_STATE_RATE u) mode
    else pure ())
  pfEvent R.ETH_EVENTS R.ETH_IRQ 0 0

/-- Every tag and V of every subport to 0, and every order of an arbiter of several bays to its first (R21, R399). -/
def resetSchedulers : M d0 Unit :=
  each (List.range 16) (fun u => do
    modSub u (fun p => { SubPort.reset with queue := p.queue, gates := p.gates, gix := p.gix, gend := p.gend, pend := p.pend,
                                            peerTw := p.peerTw, bayNext := p.bayNext })
    retag u)

/-- Every order of the arbiters that serve several bays to its first, as a layout commit does (R21). -/
def resetEthOrders : M d0 Unit :=
  each (List.range 16) (fun u => modSub u (fun p => { p with
    urgent := SubPort.reset.urgent, bayOrder := SubPort.reset.bayOrder }))

end Sys2Proof.Machine
end

