-- ==== Sys2Proof/Machine/Transport.lean ====
section
/-! DEFINITION. The operations of the reliable transport that its commands share (09): serial numbers, carriage, the
requester's operations and packets, completions in MSN order, errors, the responder's classification, acknowledgements,
messages and tag matching. -/

namespace Sys2Proof.Machine

variable {d0 : Dev}

/-! ### Serial numbers (R270, R288) -/

/-- Whether a connection speaks RoCEv2. -/
def Conn.roce (c : Conn) : Bool := decide (3 ≤ c.path)

/-- PSNs are counted modulo 2^32, modulo 2^24 on RoCEv2. -/
def Conn.psnMod (c : Conn) : Nat := if c.roce then 2 ^ 24 else 2 ^ 32

/-- (b − a) modulo the PSN space. -/
def Conn.gap (c : Conn) (a b : Nat) : Nat := (b % c.psnMod + c.psnMod - a % c.psnMod) % c.psnMod

/-- Whether PSN `a` is before `b` (R270). -/
def Conn.before (c : Conn) (a b : Nat) : Bool := decide (1 ≤ c.gap a b) && decide (c.gap a b < c.psnMod / 2)

/-- A PSN `k` further on. -/
def Conn.psnAdd (c : Conn) (p k : Nat) : Nat := (p + k) % c.psnMod

/-- Packets of `len` bytes (R261, R263). -/
def Conn.packets (c : Conn) (len : Nat) : Nat := max 1 (ceilDiv len c.mtu)

/-- The bay a connection lives in (R251). -/
def connBay (y n : Nat) : Nat := y + n / 6144

/-! ### Carriage (R247 to R249, R431, R432) -/

/-- The base header of R259. -/
def baseHeader (p : WPkt) : List Byte :=
  [0x10] ++ beBytes 1 p.opc ++ beBytes 1 p.flags ++ beBytes 1 p.inc ++ beBytes 4 p.dstConn ++ beBytes 4 p.psn ++
    beBytes 2 p.src ++ beBytes 2 p.dst ++ beBytes 2 p.len ++ zeros 2 ++ beBytes 4 p.ts ++ beBytes 8 p.nonce

/-- Opcodes that answer (R247). -/
def wrtIsAnswer (opc : Nat) : Bool := opc == 0x08 || opc == 0x0B || opc == 0x10 || opc == 0x11

/-- The sum of the 16-bit words of a byte string, and the Internet checksum over it. PRESUMED, log 57. -/
def inetWords : List Byte → Nat
  | a :: b :: r => 256 * a.toNat + b.toNat + inetWords r
  | [a] => 256 * a.toNat
  | [] => 0
def inetFold (n : Nat) : Nat := n % 2 ^ 16 + n / 2 ^ 16
def inetCheck (bs : List Byte) : Nat := 0xFFFF - inetFold (inetFold (inetWords bs))

/-- Whether a path runs over IPv6. -/
def Conn.ip6 (c : Conn) : Bool := c.path == 2 || c.path == 4

/-- An IP address in network order. -/
def Conn.ipBytes (c : Conn) (a : Nat) : List Byte := beBytes (if c.ip6 then 16 else 4) a

/-- A UDP datagram with its IP header (R249): ECT(0), a UDP checksum of 0 on IPv4 and the computed one on IPv6. What the spec
leaves to the standards (identification, flow label, life) is free; the IPv4 header checksum is theirs. PRESUMED, log 57. -/
def Conn.datagram (c : Conn) (src port : Nat) (body : List Byte) (len : Nat) : List Byte :=
  let n := 8 + len
  let std (k m : Nat) : List Byte := fitBytes m (Config.standardResponse 2474 k (beBytes 2 c.sport))
  let addrs := c.ipBytes src ++ c.ipBytes c.peerIp
  let tos := 4 * (c.dscp % 64) + 2
  let udp := beBytes 2 c.sport ++ beBytes 2 port ++ beBytes 2 n
  if c.ip6 then
    let k := inetCheck (addrs ++ beBytes 4 n ++ [0, 0, 0, 17] ++ udp ++ [0, 0] ++ body)
    beBytes 4 (6 * 2 ^ 28 + tos * 2 ^ 20 + leNat (std 0 3) % 2 ^ 20) ++ beBytes 2 n ++ [17] ++ std 1 1 ++ addrs ++ udp ++
      beBytes 2 (if k = 0 then 0xFFFF else k) ++ body
  else
    let head (k : Nat) : List Byte :=
      [0x45] ++ beBytes 1 tos ++ beBytes 2 (20 + n) ++ std 0 2 ++ [0x40, 0] ++ std 1 1 ++ [17] ++ beBytes 2 k ++ addrs
    head (inetCheck (head 0)) ++ udp ++ [0, 0] ++ body

/-- A packet in RoCEv2 form without its ICRC: BTH, RETH or AETH, payload (R288); 0x81 is the opcode of a CNP.
PRESUMED, log 53. -/
def roceBytes (p : WPkt) : List Byte :=
  let first := bit p.flags 1
  let last := bit p.flags 2
  let total := be p.ext 8 8
  let off := be p.ext 16 8
  let of4 (f m l o : Nat) : Nat := if first && last then o else if first then f else if last then l else m
  let opc :=
    match p.opc with
    | 0x01 => of4 0x00 0x01 0x02 0x04
    | 0x05 => of4 0x06 0x07 0x08 0x0A
    | 0x07 => 0x0C
    | 0x08 => if off = 0 then (if total ≤ p.len then 0x10 else 0x0D) else if total ≤ off + p.len then 0x0F else 0x0E
    | 0x81 => 0x81
    | _ => 0x11
  let reth := beBytes 8 off ++ slice p.ext 24 4 ++ beBytes 4 total
  let more :=
    match p.opc with
    | 0x05 => if first then reth else []
    | 0x07 => reth
    | 0x08 => if opc = 0x0E then [] else [0] ++ slice p.ext 1 3
    | 0x81 => zeros 16
    | 0x01 => []
    | _ => p.ext
  let pad := (4 - p.len % 4) % 4
  beBytes 1 opc ++ beBytes 1 (128 * bits p.flags 4 1 + 16 * pad) ++ beBytes 2 0xFFFF ++ [0] ++ beBytes 3 p.dstConn ++
    beBytes 1 (128 * bits p.flags 0 1) ++ beBytes 3 p.psn ++ more ++ p.payload ++ zeros pad

/-- Put a WRT or RoCEv2 packet on its connection's path. A RoCEv2 packet has no tag and no encryption (R288). On UDP paths
the authenticated data covers the IP addresses and the destination port too, here behind the headers (R248).
DESIGN CHOICE, log 59. -/
def wrtCarry (y n : Nat) (p : WPkt) : M d0 Unit := do
  let d ← dev
  let c := d.conn y n
  emit (.wrt y n p)
  bump (R.TRN_TX_PKTS y) 1
  let heads := baseHeader p ++ p.ext
  let src := d.fld (R.ETH_LADDR y c.srcIp)
  let port := if c.roce then 4791 else d.fld (R.TRN_UDP_PORT y)
  let aad := if c.path = 0 then heads else heads ++ c.ipBytes src ++ c.ipBytes c.peerIp ++ beBytes 2 port
  let tagLen := if p.len = 0 then 12 else 16
  let sealed := match (d.yard y).keys with
    | some k => Config.gcmSeal (yardKey k false labelWlnk p.src p.dst (p.nonce / 2 ^ 48)) ([0] ++ beBytes 3 n ++ beBytes 8 p.nonce)
        aad p.payload
    | none => []
  if c.path = 0 then
    let b := connBay y n
    let _ ← inject y b (mkPkt 0x10 p.dst p.src b false [] (heads ++ fitBytes (p.len + tagLen) sealed))
  else
    let u := c.ethPort % 4 * 4 + bits c.ethPort 2 2
    let vlan := if bit c.vlan 15 then beBytes 2 0x8100 ++ beBytes 2 (c.vlan % 2 ^ 15) else []
    let ib := roceBytes p
    let inner := if c.roce then ib.length + 4 else heads.length + p.len + tagLen
    let body := if c.roce then ib ++ fitBytes 4 (Config.standardResponse 4791 c.path (c.ipBytes src ++ c.ipBytes c.peerIp ++ ib))
      else heads ++ fitBytes (p.len + tagLen) sealed
    let len := 14 + vlan.length + (if c.ip6 then 40 else 20) + 8 + inner + 4
    let cls := if p.opc = 0x19 then 7 else bits (d.fld (R.ETH_DSCP_MAP (c.dscp / 8))) (4 * (c.dscp % 8)) 3
    ethSend u
      { bay := connBay y n, cls := cls, len := len, weight := 0, slot := none, stamp := false,
        bytes := beBytes 6 c.nextHop ++ beBytes 6 (d.fld (R.ETH_SUB_MAC u)) ++ vlan ++ beBytes 2 (if c.ip6 then 0x86DD else 0x0800) ++
          c.datagram src port body inner }

/-- Make and send a packet of a connection; false when the yard can make no tag (R430, R432). -/
def wrtSend (y n opc flags psn : Nat) (ext payload : List Byte) : M d0 Bool := do
  let c := (← dev).conn y n
  let nonce ← if c.roce then pure (some 0) else takeWrtNonce y n
  match nonce with
  | none => return false
  | some v =>
    let d ← dev
    let p : WPkt :=
      { opc := opc, flags := flags, inc := c.inc, dstConn := c.peerConn, psn := psn % c.psnMod,
        src := d.addrOf (connBay y n), dst := c.peerAddr, len := payload.length, ts := d.now % 2 ^ 32, nonce := v, ext := ext,
        payload := payload }
    if wrtIsAnswer opc then pure () else modConn y n (fun c => { c with sentTs := (p.ts :: c.sentTs).take c.window })
    wrtCarry y n p
    return true

/-! ### Acknowledgements (R262, R274) -/

/-- The SACK bytes: bit j set when PSN ACK_PSN + 1 + j has been received. -/
def Conn.sackBytes (c : Conn) : List Byte :=
  leBytes 32 (c.marks.foldl (fun v p => let j := c.gap c.epsn p; if j < 256 then Nat.lor v (2 ^ j) else v) 0)

/-- Send an ACK or NAK with the connection's current ACK_PSN; RX_DELAY is the time since the packet whose TS it echoes
arrived. PRESUMED, log 53. -/
def sendAck (y n opc syndrome rnrTime nakPsn : Nat) : M d0 Unit := do
  let d ← dev
  let c := d.conn y n
  let ext :=
    if c.roce then beBytes 1 syndrome ++ beBytes 3 (c.rxMsn % 2 ^ 24)
    else beBytes 1 syndrome ++ beBytes 1 rnrTime ++ beBytes 2 (min 65535 c.ecn) ++ beBytes 4 nakPsn ++ beBytes 4 c.tsEcho ++
      beBytes 4 (d.now - c.rxAt) ++ c.sackBytes
  -- a RoCEv2 NAK names its PSN in the BTH
  let _ ← wrtSend y n opc 0 (if c.roce ∧ opc = 0x11 then nakPsn else c.epsn + c.psnMod - 1) ext []
  modConn y n (fun c => { c with ackDue := 0, ecn := 0, timerOn := false })

/-- An ACK. DESIGN CHOICE, log 49. -/
def ackNow (y n : Nat) : M d0 Unit := sendAck y n 0x10 0 0 0

/-- A CNP, the answer to a CE mark on a RoCEv2 connection (R288). PRESUMED, log 53. -/
def sendCnp (y n : Nat) : M d0 Unit := do let _ ← wrtSend y n 0x81 0 0 [] []

/-- The InfiniBand RNR timer code of the shortest time that is not less than 2^t µs (R288). PRESUMED, log 53. -/
def ibTimer (t : Nat) : Nat := [1, 1, 1, 1, 2, 4, 6, 8, 10, 12, 14, 16, 18, 20, 22, 24].getD t 24

/-! ### The requester (R263, R268, R279) -/

/-- An operation about to be queued. -/
def SendOp.mk' (opc len : Nat) (loc : Loc) (remote wkey imm : Nat) (entry : Option Nat) : SendOp :=
  { opc := opc, msn := 0, psn := 0, npsn := 0, len := len, loc := loc, remote := remote, wkey := wkey, imm := imm,
    operand := 0, compare := 0, handle := 0, entry := entry, rndv := none, solicit := false, got := [], started := false,
    done := false, code := none }

/-- Queue an operation behind the connection's others. -/
def enqueueOp (y n : Nat) (o : SendOp) : M d0 Unit := modConn y n (fun c => { c with ops := c.ops ++ [o] })

/-- A buffer from byte `k` on. -/
def Loc.from (l : Loc) (k : Nat) : Loc :=
  match l with
  | .seg p g o => .seg p g (o + k)
  | .host p va => .host p (va + k)
  | x => x

/-- Queue a READ. One that needs more PSNs than the window holds goes as several requests, of which the last ends the entry
or the rendezvous (R261, R273). DEDUCED, log 51. -/
def enqueueRead (y n : Nat) (o : SendOp) : M d0 Unit := do
  let c := (← dev).conn y n
  let part := c.window * c.mtu
  let k := max 1 (ceilDiv o.len part)
  each (List.range k) (fun i =>
    let last := i + 1 == k
    enqueueOp y n { o with
      len := min part (o.len - i * part), loc := o.loc.from (i * part), remote := o.remote + i * part, operand := o.len,
      entry := if last then o.entry else none, rndv := if last then o.rndv else none, tail := i != 0 })

/-- PSNs an operation takes (R261). -/
def Conn.span (c : Conn) (o : SendOp) : Nat :=
  if o.opc = 0x04 ∨ o.opc = 0x09 ∨ o.opc = 0x0A ∨ o.opc = 0x0E ∨ o.opc = 0x0F then 1 else c.packets o.len

/-- Whether an operation's answer is a response packet rather than an acknowledgement. -/
def SendOp.answered (o : SendOp) : Bool := o.opc == 0x07 || o.opc == 0x09 || o.opc == 0x0A || o.opc == 0x0E

/-- Set the outcome of the operations that satisfy `p` and have none. -/
def Conn.settle (c : Conn) (p : SendOp → Bool) (code : Nat) : Conn :=
  { c with ops := c.ops.map (fun o => if p o && o.code.isNone then { o with code := some code } else o) }

/-- The receive side of a rendezvous ends: its entry completes, in MSN order where an earlier message is still on its way
(R264), and the RNDV_FIN is queued (R284). -/
def rndvEnd (y n : Nat) (o : SendOp) (v : Rndv) (code : Nat) : M d0 Unit := do
  let final := if code = 0 ∧ o.operand < v.msgLen then cTagTruncated else code
  enqueueOp y n { SendOp.mk' 0x0F 0 (.inline []) 0 0 final none with handle := o.handle, operand := if code = 0 then o.operand else 0 }
  let d ← dev
  if v.ordered then
    modConn y n (fun c => { c with msgs := c.msgs.map (fun m => if m.msn = v.msn then { m with code := final, ready := true } else m) })
  else if (d.conn y n).doneMsns.contains v.msn then
    modConn y n (fun c => { c with
      doneMsns := c.doneMsns.erase v.msn
      msgs := c.msgs ++ [{ msn := v.msn, opc := 0x04, len := v.msgLen, tag := v.tag, imm := 0, solicit := v.solicit, sink := .entry v.ring v.n,
                           got := [v.msn], total := 1, code := final, ready := true }] })
  else
    let body := match (d.ring y v.ring).rq.live.find? (fun e => e.n == v.n) with
      | some e => bit (le e.bytes 0 1) 2
      | none => false
    complete y v.ring true v.n final (2 * b2n v.solicit + 4 * b2n body) n
      (if final = cTagTruncated then v.msgLen else if final = 0 then o.operand else 0) v.tag

/-- Post the completion of one operation. -/
def postOp (y n : Nat) (o : SendOp) (code : Nat) : M d0 Unit := do
  match o.rndv with
  | some v => rndvEnd y n o v code
  | none =>
    -- what ends an entry of several operations reports the failure of an earlier one first (R273, R312)
    let code := if o.tail ∧ o.compare ≠ 0 then o.compare else code
    match o.entry with
    | some e =>
      complete y n false e code 0 0
        (if code ≠ 0 then 0 else if o.opc = 0x04 ∨ o.opc = 0x07 ∨ o.opc = 0x0E then o.operand else o.len) 0
    | none =>
      if code = 0 then pure ()
      else modConn y n (fun c => match c.ops.find? (fun q => !q.done) with
        | none => c
        | some f => { c with ops := c.ops.map (fun q => if q = f ∧ q.tail then { q with compare := code } else q) })

/-- One step of posting: the first operation not yet posted, when its outcome is known (R279: in MSN order). -/
def flushOne (y n : Nat) : M d0 Bool := do
  let c := (← dev).conn y n
  match c.ops.find? (fun o => !o.done) with
  | none => return false
  | some o =>
    match o.code with
    | none => return false
    | some code =>
      modConn y n (fun c => { c with ops := c.ops.map (fun q => if q = o then { q with done := true } else q) })
      postOp y n o code
      return true

/-- Whether every packet of an operation that was sent has been acknowledged. -/
def Conn.opAcked (c : Conn) (o : SendOp) : Bool := !c.pkts.any (fun p => p.msn == o.msn) || !o.started

/-- Post what may be posted and forget what is over. -/
def flushOps (y n : Nat) : M d0 Unit := do
  upTo ((← dev).conn y n).ops.length (flushOne y n)
  modConn y n (fun c => { c with ops := c.ops.filter (fun o => !(o.done && c.opAcked o)) })

/-! ### Connection errors (R278, R315) -/

/-- What a connection loses as it leaves service: its responses leave the windows they read (R348), and a receive entry of
another ring that one of its messages was filling completes with `code`. DEDUCED, log 51. -/
def dropWork (y n code : Nat) : M d0 Unit := do
  let c := (← dev).conn y n
  each (c.rsps.filterMap (fun r => r.win)) (winLeave y)
  modConn y n (fun c => { c with
    ops := [], pkts := [], rsps := [], msgs := [], doneMsns := [], rnrs := [], early := [], back := [], rnrWait := false, timerOn := false })
  each c.msgs (fun m => match m.sink with
    | .entry r k => if r ≠ n then complete y r true k code 0 0 0 0 else pure ()
    | _ => pure ())

/-- A connection enters ERROR with a code: every outstanding and fetched descriptor completes with it. -/
def connError (y n code : Nat) : M d0 Unit := do
  let c := (← dev).conn y n
  if c.st ≠ 2 ∧ c.st ≠ 3 then return
  modConn y n (fun c => { c with st := 4, errCode := code })
  dropWork y n code
  wr (R.TRN_ERR y) (n + 2 ^ 24 * code)
  wr (R.TRN_IRQ_ERR y) 1
  let d ← dev
  if d.on (R.TRN_IRQ_ERR_EN y) then irqYard y (d.fld (R.TRN_IRQ_VECTOR y)) else pure ()
  match Tab.find d.lists (yk y c.matchList) with
  | some l => act (.list (yk y c.matchList) (some { l with posted := l.posted.filter (fun p => p.ring != n) }))
  | none => pure ()
  completeAll y n false code
  completeAll y n true code

/-- What connections in RESET leave: entries not started complete (R252). -/
def connReset (y n code : Nat) : M d0 Unit := do
  let d ← dev
  let c := d.conn y n
  match Tab.find d.lists (yk y c.matchList) with
  | some l => act (.list (yk y c.matchList) (some { l with posted := l.posted.filter (fun p => p.ring != n) }))
  | none => pure ()
  modConn y n (fun c => { c with st := 1, marks := [] })
  dropWork y n code
  completeAll y n false code
  completeAll y n true code

/-! ### Packets of an operation (R260, R263) -/

/-- The extension header of packet `i` of an operation; a READ_REQ is issued from its first lacking response on (R277). -/
def Conn.extOf (c : Conn) (o : SendOp) (i : Nat) : List Byte :=
  let off := i * c.mtu
  let head := beBytes 4 o.msn
  if o.opc = 0x01 ∨ o.opc = 0x02 ∨ o.opc = 0x03 then
    head ++ beBytes 4 o.imm ++ beBytes 8 o.len ++ beBytes 8 off ++ beBytes 8 o.remote
  else if o.opc = 0x04 then head ++ beBytes 4 o.handle ++ beBytes 8 o.operand ++ beBytes 8 0 ++ beBytes 8 o.remote
  else if o.opc = 0x07 ∨ o.opc = 0x0E then
    head ++ beBytes 4 o.handle ++ beBytes 8 (if o.opc = 0x07 then o.len - off else 0) ++ beBytes 8 (o.remote + off) ++ beBytes 4 o.wkey ++
      beBytes 4 0
  else if o.opc = 0x09 ∨ o.opc = 0x0A then
    head ++ beBytes 4 o.wkey ++ beBytes 8 o.remote ++ beBytes 8 o.operand ++ beBytes 8 (if o.opc = 0x0A then o.compare else 0)
  else if o.opc = 0x0F then head ++ beBytes 4 o.handle ++ beBytes 8 o.operand ++ beBytes 8 (o.imm % 256) ++ zeros 8
  else head ++ beBytes 4 o.imm ++ beBytes 8 o.len ++ beBytes 8 (o.remote + off) ++ beBytes 4 o.wkey ++ beBytes 4 0

/-- Payload bytes of packet `i`. -/
def Conn.payloadLen (c : Conn) (o : SendOp) (i : Nat) : Nat :=
  if o.opc = 0x04 ∨ o.answered ∨ o.opc = 0x0F then 0 else min c.mtu (o.len - i * c.mtu)

/-- The first response packet a READ lacks; the first of all when it holds every one and only its acknowledgement is missing. -/
def SendOp.firstLack (o : SendOp) : Nat := ((List.range o.npsn).find? (fun k => !o.got.contains k)).getD 0

/-- Send packet `i` of an operation; `retx` for a retransmission. False when nothing was sent. -/
def sendOpPkt (y n : Nat) (o : SendOp) (i : Nat) (retx ackreq : Bool) (h : HostSide) : M d0 Bool := do
  let c := (← dev).conn y n
  let i := if o.opc = 0x07 then o.firstLack else i
  let last := i + 1 == o.npsn || o.answered
  match ← getLoc y (connBay y n) o.loc (i * c.mtu) (c.payloadLen o i) (.conn n) h with
  | .wait => return false
  | .err code =>
    -- the packet cannot be made: the operation ends (R329) and takes no further PSN
    modConn y n (fun c => { c with ops := c.ops.map (fun q =>
      if q = o then { q with code := some (q.code.getD code), npsn := if retx then q.npsn else i, len := if retx then q.len else i * c.mtu } else q) })
    flushOps y n
    return false
  | .ok data =>
    let flags := b2n ackreq + 2 * b2n (i == 0 || o.answered) + 4 * b2n last + 8 * b2n retx + 16 * b2n (o.solicit && last)
    if ← wrtSend y n o.opc flags (o.psn + i) (c.extOf o i) data then
      return true
    else
      modConn y n (fun c => { c with ops := c.ops.map (fun q => if q = o then { q with code := some (q.code.getD cAuthFailed) } else q) })
      flushOps y n
      return false

/-- The operation and packet index that the next new PSN belongs to. -/
def Conn.nextNew (c : Conn) : Option (SendOp × Nat) :=
  match c.ops.getLast? with
  | none => none
  | some _ =>
    match c.ops.find? (fun o => o.started && decide (c.gap o.psn c.nextPsn < o.npsn) && !(o.answered)) with
    | some o => some (o, c.gap o.psn c.nextPsn)
    | none => (c.ops.find? (fun o => !o.started && o.code.isNone)).map (fun o => (o, 0))

/-- READ_REQs and atomics outstanding (R273). -/
def Conn.readsOut (c : Conn) : Nat := (c.ops.filter (fun o => o.started && o.opc == 0x07 && o.code.isNone)).length
def Conn.atomicsOut (c : Conn) : Nat := (c.ops.filter (fun o => o.started && (o.opc == 0x09 || o.opc == 0x0A) && o.code.isNone)).length

/-- Whether the limits of R273 let an operation's next packet go. -/
def Conn.mayStart (c : Conn) (o : SendOp) (span : Nat) : Bool :=
  decide (c.gap c.una c.nextPsn + span ≤ c.window) &&
  (o.opc != 0x07 || decide (c.readsOut < 16)) && (!(o.opc == 0x09 || o.opc == 0x0A) || decide (c.atomicsOut < 64))

/-- ACKREQ of a new packet: the last of its message, or one that leaves less than a quarter of the window free (R263). -/
def Conn.wantsAck (c : Conn) (last : Bool) (span : Nat) : Bool :=
  last || decide (c.window - (c.gap c.una c.nextPsn + span) < c.window / 4)

/-- The timer starts: a change of TRN_RTO_MIN or TRN_RTO_MAX is taken over (R276, R291). -/
def Dev.rtoStart (d : Dev) (y : Nat) (c : Conn) : Conn :=
  let lo := 1000 * d.fld (R.TRN_RTO_MIN y)
  let hi := d.fld (R.TRN_RTO_MAX y)
  { c with rto := if c.sampled || c.retries != 0 then max lo (min (1000 * hi) c.rto) else max lo hi }

/-- Send the next new packet of a connection. -/
def sendNew (y n : Nat) (h : HostSide) : M d0 Unit := do
  let d ← dev
  let c := d.conn y n
  if c.st ≠ 2 ∨ c.rnrWait ∨ d.cqFull y (d.ring y n).sq then return
  match c.nextNew with
  | none => pure ()
  | some (o, i) =>
    let npsn := c.span o
    let psnHere := if o.answered then npsn else 1
    if !c.mayStart o psnHere then return
    -- the buffer of a rendezvous is translated before its READ leaves; that of an entry was when the entry started (R268)
    match ← if o.opc = 0x07 ∧ o.wkey = 0xFFFFFFFF then reachLoc y (connBay y n) o.loc o.len true (.conn n) h else pure (LocRes.ok []) with
    | .wait => return
    | .err code =>
      modConn y n (fun c => c.settle (fun q => q == o) code)
      flushOps y n
      return
    | .ok _ => pure ()
    let o' := if o.started then o else { o with started := true, msn := c.txMsn, psn := c.nextPsn, npsn := npsn }
    let last := i + 1 == npsn || o.answered
    let ackreq := c.wantsAck last psnHere
    modConn y n (fun c => { c with ops := c.ops.map (fun q => if q = o then o' else q) })
    if ← sendOpPkt y n o' i false ackreq h then
      modConn y n (fun c => { (if c.pkts.any (fun p => p.sent) then c else d.rtoStart y c) with
        txMsn := if i = 0 then (c.txMsn + 1) % 2 ^ 32 else c.txMsn
        nextPsn := c.psnAdd c.nextPsn psnHere
        pkts := c.pkts ++ [{ psn := c.nextPsn, span := psnHere, msn := o'.msn, off := i, len := c.payloadLen o' i, first := i == 0,
                             last := last, ackreq := ackreq, solicit := o'.solicit && last, sent := true, due := false,
                             marked := false, lastTx := d.now, retx := false, body := [], payload := [] }] })
    else
      -- not sent: an operation that had not begun stays unbegun
      modConn y n (fun c => { c with ops := c.ops.map (fun q => if q = o' then o else q) })

/-! ### Ring packets over a WRT hop (R269) -/

/-- Queue a RING_LAP or RING_CTL packet on a plan connection; its PSN follows the last one queued. -/
def ringEnqueue (y n opc : Nat) (body payload : List Byte) : M d0 Unit := modConn y n (fun c =>
  let p := match c.pkts.getLast? with
    | some q => c.psnAdd q.psn 1
    | none => c.nextPsn
  { c with txMsn := (c.txMsn + 1) % 2 ^ 32,
           pkts := c.pkts ++ [{ psn := p, span := 1, msn := opc, off := 0, len := payload.length, first := true, last := true,
                                ackreq := true, solicit := false, sent := false, due := false, marked := false, lastTx := 0,
                                retx := false, body := body, payload := payload }] })

/-! ### The responder: classification and acceptance (R271 to R274) -/

/-- The classes of R271 that need more than a discard. -/
inductive RxClass where
  | drop
  | behind
  | new
deriving DecidableEq, Repr

/-- A WRT frame that came by Ethernet leaves its receive buffer (R397). -/
def ethConsume (y n : Nat) : M d0 Unit := do
  let d ← dev
  match d.eth.rx.find? (fun r => r.yard == some y && r.conn == n) with
  | none => pure ()
  | some r => setEth { d.eth with rx := d.eth.rx.erase r }

/-- Note the packet that an answer concerns, and when it arrived (R262). -/
def echo (y : Nat) (h : WrtHdr) : M d0 Unit := do
  let t := h.arrived.getD (← dev).now
  modConn y h.conn (fun c => { c with tsEcho := h.ts, rxAt := t })

/-- Classify a request-side packet for yard `y`. -/
def classify (y : Nat) (h : WrtHdr) : M d0 RxClass := do
  let d ← dev
  let n := h.conn
  let c := d.conn y n
  if !d.takes y || !d.present y || (d.yard y).resetting || d.ctl.warm then
    if !d.takes y || (d.yard y).resetting then idleDiscard else pure ()
    return .drop
  if !h.tagOk || (!c.roce && !d.keyed y) then
    if !c.roce then bump (R.TRN_AUTH_FAIL y) 1 else pure ()
    return .drop
  if c.st ≠ 2 ∧ c.st ≠ 3 then
    bump (R.TRN_SRC_DISCARD y) 1
    return .drop
  if !c.roce && h.inc ≠ c.inc then
    bump (R.TRN_STALE_DISCARD y) 1
    return .drop
  if (!c.roce && h.src ≠ c.peerAddr) || (c.path ≠ 0 && h.ip != c.peerIp) then
    bump (R.TRN_SRC_DISCARD y) 1
    return .drop
  if h.ce then
    bump (R.TRN_ECN_MARKS y) 1
    modConn y n (fun c => { c with ecn := min 65535 (c.ecn + 1) })
    if c.roce then sendCnp y n else pure ()
  let back := c.gap h.psn c.epsn
  if 1 ≤ back ∧ back ≤ c.psnMod / 2 then
    echo y h
    return .behind
  let fwd := c.gap c.epsn h.psn
  if c.roce ∧ fwd ≠ 0 then
    sendAck y n 0x11 0x60 0 c.epsn
    return .drop
  if fwd < c.window then
    echo y h
    if c.marks.contains (h.psn % c.psnMod) then
      bump (R.TRN_DUP_DISCARD y) 1
      modConn y n (fun c => { c with dups := c.dups + 1 })
      ackNow y n
      return .drop
    return .new
  bump (R.TRN_OOW_DISCARD y) 1
  return .drop

/-- EPSN advanced past every consecutive received PSN. -/
def Conn.advance (c : Conn) : Nat → Conn
  | 0 => c
  | k + 1 =>
    if c.marks.contains c.epsn then Conn.advance { c with epsn := c.psnAdd c.epsn 1, marks := c.marks.erase c.epsn } k
    else c

/-- Mark `span` PSNs from `psn` on as received. -/
def Conn.markRx (c : Conn) (psn span : Nat) : Conn :=
  let ps := (List.range span).map (fun i => c.psnAdd psn i)
  let c' := { c with marks := c.marks ++ ps.filter (fun p => !c.marks.contains p) }
  c'.advance c'.marks.length

/-- A packet answered RNR has come again. -/
def Conn.clearRnr (c : Conn) (psn : Nat) : Conn := { c with rnrs := c.rnrs.filter (fun e => e.2 != psn) }

/-- Accept a new packet: mark it, count it, and acknowledge as R274 asks; a gap below the highest PSN counts that the packet
leaves or that it fills. The COUNT in force is that of the coalescing time's start (R291). -/
def acceptPkt (y n psn span : Nat) (ackreq : Bool) : M d0 Unit := do
  let count := (← dev).fld (R.TRN_ACK_CTRL_COUNT y)
  let gap := !((← dev).conn y n).marks.isEmpty
  modConn y n (fun c => { (c.markRx psn span).clearRnr psn with
    ackDue := c.ackDue + 1, timerOn := true, ackCount := if c.timerOn then c.ackCount else count })
  bump (R.TRN_RX_PKTS y) 1
  let c := (← dev).conn y n
  if ackreq || decide (c.ackCount ≤ c.ackDue) || gap || !c.marks.isEmpty then ackNow y n else pure ()

/-- A behind-window packet is discarded and answered with an ACK (R272). DEDUCED, log 51. -/
def behindPkt (y n : Nat) : M d0 Unit := do
  bump (R.TRN_DUP_DISCARD y) 1
  modConn y n (fun c => { c with dups := c.dups + 1 })
  ackNow y n

/-- Refuse a request with a NAK: its PSNs count as received (R280). PRESUMED, log 53. -/
def nakPkt (y n psn span code : Nat) : M d0 Unit := do
  modConn y n (fun c => (c.markRx psn span).clearRnr psn)
  let c := (← dev).conn y n
  sendAck y n 0x11 (if c.roce then (if code = 0x61 then 0x61 else if code = cMemUncorrectable then 0x63 else 0x62) else code) 0 psn

/-- Send an RNR (R281). PRESUMED, log 53. -/
def rnrSend (y n psn : Nat) : M d0 Unit := do
  let d ← dev
  let time := if d.frozen y then 15 else d.fld ((R.TRN_RNR_CTRL y).sub 0 4)
  bump (R.TRN_RNR_SENT y) 1
  sendAck y n 0x11 (if (d.conn y n).roce then 0x20 + ibTimer time else 1) time psn

/-- Answer RNR: the packet is not accepted, nor any later one of its message (R281). DEDUCED, log 51. -/
def rnrPkt (y n psn msn : Nat) : M d0 Unit := do
  modConn y n (fun c => { c with rnrs := if c.rnrs.contains (msn, psn) then c.rnrs else c.rnrs ++ [(msn, psn)] })
  rnrSend y n psn

/-- Whether an RNR of the connection forbids this packet: a later one of the same message, or one of a later message that
needs a receive-ring entry or matching (R281). -/
def Conn.rnrBlocks (c : Conn) (msn psn : Nat) (needsEntry : Bool) : Bool :=
  c.rnrs.any (fun e =>
    if msn = e.1 then c.before e.2 psn else needsEntry && decide ((msn + 2 ^ 32 - e.1) % 2 ^ 32 < 2 ^ 31))

/-- A request packet with the time of its arrival, which it keeps while it waits (R262). -/
def Instr.arrivedAt (t : Nat) (i : Instr) : Instr :=
  let at_ (h : WrtHdr) : WrtHdr := { h with arrived := some (h.arrived.getD t) }
  match i with
  | .send y h msn len off pl host => .send y (at_ h) msn len off pl host
  | .sendImm y h msn imm len off pl host => .sendImm y (at_ h) msn imm len off pl host
  | .tsend y h msn len off tag pl host => .tsend y (at_ h) msn len off tag pl host
  | .rts y h msn hd len tag => .rts y (at_ h) msn hd len tag
  | .write y h msn len off k pl host => .write y (at_ h) msn len off k pl host
  | .writeImm y h msn imm len off k pl host => .writeImm y (at_ h) msn imm len off k pl host
  | .addwFp32 y h msn len off k pl host => .addwFp32 y (at_ h) msn len off k pl host
  | .addwBf16 y h msn len off k pl host => .addwBf16 y (at_ h) msn len off k pl host
  | .readReq y h msn hd len off k host => .readReq y (at_ h) msn hd len off k host
  | .fadd y h msn k off v host => .fadd y (at_ h) msn k off v host
  | .cswap y h msn k off v cmp host => .cswap y (at_ h) msn k off v cmp host
  | .flushRead y h msn off k host => .flushRead y (at_ h) msn off k host
  | x => x

/-- Keep a packet until every earlier message is known: its message's turn at the ring or the match list is not known
before (R264, R283). DEDUCED, log 51. -/
def holdEarly (y n psn msn : Nat) (self : Instr) : M d0 Unit := do
  let self := Instr.arrivedAt (← dev).now self
  modConn y n (fun c => if c.early.any (fun e => e.1 == psn) then c else { c with early := c.early ++ [(psn, msn, self)] })

/-- Whether message `msn` of the connection has been passed: it is over here (R264, R280). -/
def Conn.passed (c : Conn) (msn : Nat) : Bool :=
  let k := (c.rxMsn + 2 ^ 32 - msn % 2 ^ 32) % 2 ^ 32
  decide (1 ≤ k) && decide (k < 2 ^ 31)

/-! ### Messages (R264, R283 to R285) -/

/-- The code a message completes with, its length and its buffer known (R285). -/
def RxMsg.final (m : RxMsg) (buf : Nat) : Nat :=
  if m.code ≠ 0 then m.code
  else if buf < m.len then (if m.opc = 0x03 ∨ m.opc = 0x04 then cTagTruncated else cLocalLength) else 0

/-- Complete the receive entry of a message. -/
def finishMsg (y n : Nat) (m : RxMsg) : M d0 Unit := do
  match m.sink with
  | .entry r k =>
    let h := ((← dev).ring y r).rq
    match h.live.find? (fun e => e.n == k) with
    | none => pure ()
    | some e =>
      let tagged := opOf e.bytes == 0x21
      let buf := entryLen h.big true e.bytes
      let code := if m.opc = 0x06 then m.code else m.final buf
      let immv := m.opc == 0x02 || m.opc == 0x06
      modHalf y r true (fun h => { h with live := h.live.map (fun e => if e.n = k then { e with back := m.back } else e) })
      complete y r true k code (b2n immv + 2 * b2n m.solicit + 4 * b2n (bit (le e.bytes 0 1) 2 && m.opc != 0x06))
        (if tagged then n else if immv then m.imm else 0)
        (if code = cTagTruncated then m.len else if m.opc = 0x06 then m.len else if code = 0 ∨ code = cLocalLength then min buf m.len else 0) m.tag
  | .slot l _ =>
    match Tab.find (← dev).lists (yk y l) with
    | none => pure ()
    | some q => act (.list (yk y l) (some { q with unexp := q.unexp.map (fun u =>
        if u.conn = n ∧ u.msn = m.msn then { u with whole := true, solicit := m.solicit } else u) }))
  | _ => pure ()

/-- Whether every packet of a message is placed, or a NAK has ended it (R280). -/
def RxMsg.whole (m : RxMsg) : Bool := m.ready && (m.ended || decide (m.total ≤ m.got.length))

/-- Pass the message whose turn it is (R264: in MSN order). -/
def advanceOne (y n : Nat) : M d0 Bool := do
  let c := (← dev).conn y n
  if c.doneMsns.contains c.rxMsn then
    modConn y n (fun c => { c with doneMsns := c.doneMsns.erase c.rxMsn, rxMsn := (c.rxMsn + 1) % 2 ^ 32 })
    return true
  match c.msgs.find? (fun m => m.msn == c.rxMsn) with
  | none => return false
  | some m =>
    if !m.whole then return false
    modConn y n (fun c => { c with msgs := c.msgs.erase m, rxMsn := (c.rxMsn + 1) % 2 ^ 32 })
    finishMsg y n m
    return true

/-- Complete every message whose turn has come. -/
def advanceRx (y n : Nat) : M d0 Unit := do
  let c := (← dev).conn y n
  upTo (c.msgs.length + c.doneMsns.length) (advanceOne y n)

/-- A message of one packet that completes nothing here. -/
def msgDone (y n msn : Nat) : M d0 Unit := do
  modConn y n (fun c => { c with doneMsns := if c.doneMsns.contains msn then c.doneMsns else c.doneMsns ++ [msn] })
  advanceRx y n

/-- Whether every message of the connection before `msn` is known, so that `msn`'s turn at the ring and at the match
list is known (R283, R301). -/
def Conn.knownBefore (c : Conn) (msn : Nat) : Bool :=
  let k := (msn + 2 ^ 32 - c.rxMsn) % 2 ^ 32
  decide (k < 2 ^ 31) && ((c.msgs.filter (fun m => decide ((m.msn + 2 ^ 32 - c.rxMsn) % 2 ^ 32 < k))).length +
    (c.doneMsns.filter (fun m => decide ((m + 2 ^ 32 - c.rxMsn) % 2 ^ 32 < k))).length == k)

/-- The first fetched RECV of connection `n` that no message has taken (R301). -/
def Dev.freeRecv (d : Dev) (y n : Nat) : Option REntry :=
  let h := (d.ring y n).rq
  if d.cqFull y h then none
  else h.live.find? (fun e => opOf e.bytes == 0x20 && e.started && e.out.isNone &&
    !(d.conn y n).msgs.any (fun m => m.sink == .entry n e.n))

/-- Whether a posted entry matches tag `t` on connection `c` (R283). -/
def Posted.hits (p : Posted) (t c : Nat) : Bool := Nat.land (Nat.xor t p.tag) p.mask == 0 && (p.src == 0xFFFFFF || p.src == c)

/-- Slots of a match list's unexpected area. -/
def MatchList.slotCount (l : MatchList) : Nat := l.len / 16448

/-- The lowest free slot. -/
def MatchList.freeSlot (l : MatchList) : Option Nat :=
  (List.range (l.unexp.length + 1)).find? (fun k => decide (k < l.slotCount) && !l.unexp.any (fun u => u.slot == k))

/-- The tier and yard address of byte `o` of a slot. -/
def Dev.slotAt (d : Dev) (y : Nat) (l : MatchList) (k o len : Nat) : Option (Nat × Nat) :=
  d.segAt y l.pasid l.sg (l.off + k * 16448 + o) len

/-- Take an unexpected slot for a message: its 64-byte record is written, whose content the spec does not give. -/
def takeSlot (y n : Nat) (li : Nat) (l : MatchList) (k msn tag len : Nat) (rts : Option Nat) (solicit : Bool) : M d0 Unit := do
  match (← dev).slotAt y l k 0 64 with
  | some (t, a) =>
    act (.spoil ((← dev).addr y t a) 64)
    spoilForeign y t a 64
  | none => pure ()
  let u : Unexp := { conn := n, msn := msn, tag := tag, len := len, slot := k, rts := rts, whole := false, solicit := solicit, order := l.next }
  act (.list (yk y li) (some { l with unexp := l.unexp ++ [u], next := l.next + 1 }))

/-- The posted entry that a message with tag `t` of connection `n` takes: the earliest that matches (R283). -/
def MatchList.first (l : MatchList) (t n : Nat) : Option Posted := l.posted.find? (fun p => p.hits t n)

/-- A message takes a posted entry: the entry leaves the list, and stands in match order behind the messages before it. -/
def takePosted (y li : Nat) (l : MatchList) (p : Posted) : M d0 Unit := do
  act (.list (yk y li) (some { l with posted := l.posted.erase p, next := l.next + 1 }))
  takesMsg y p.ring p.n l.next

/-- Begin the read of a rendezvous that has matched (R284). DEDUCED, log 51. -/
def rndvStart (y n handle len tag msn : Nat) (p : Posted) (ordered solicit : Bool) : M d0 Unit :=
  enqueueRead y n { SendOp.mk' 0x07 (min len p.len) p.loc 0 0xFFFFFFFF 0 none with
    handle := handle
    rndv := some { ring := p.ring, n := p.n, msgLen := len, tag := tag, msn := msn, ordered := ordered, solicit := solicit } }

end Sys2Proof.Machine
end

