-- ==== Sys2Proof/Machine/RingCtl.lean ====
section
/-! DEFINITION. Communicators at run time: the packets of a ring, the seal circuit, verdicts, aborts, doubt and notices
(05: R131 to R133, R143 to R158, R163, R164). -/

namespace Sys2Proof.Machine

variable {d0 : Dev}

/-! ### Headers -/

/-- The ring header of a lap packet (R143). -/
def lapBytes (h : LapHdr) : List Byte :=
  leBytes 1 (if h.gather then 2 else 1) ++ leBytes 1 (b2n h.last + 2 * b2n h.zero + 4 * b2n h.scale) ++ beBytes 2 h.ringId ++
    leBytes 1 h.attempt ++ [0] ++ beBytes 2 h.opseq ++ beBytes 4 h.step ++ beBytes 2 h.seg ++ beBytes 2 h.substep ++
    beBytes 8 (h.chunk + 2 ^ 40 * h.pkt) ++ beBytes 2 h.zmask ++ [0, 0] ++ beBytes 4 h.crc

/-- The ring header of a control packet of KIND 3 to 6 (R143): SEG and SUBSTEP are 0. -/
def ctlBytes (h : CtlHdr) (kind note status landBuf : Nat) : List Byte :=
  leBytes 1 kind ++ leBytes 1 (8 * b2n h.back) ++ beBytes 2 h.ringId ++ leBytes 1 h.attempt ++ [0] ++ beBytes 2 h.opseq ++
    beBytes 4 h.step ++ zeros 4 ++ leBytes 1 (b2n h.check) ++ leBytes 1 h.code ++ beBytes 2 (h.origin % 4096 + 2 ^ 15 * b2n h.originValid) ++
    leBytes 1 h.cause ++ leBytes 1 h.verdict ++ leBytes 1 note ++ leBytes 1 status ++ beBytes 2 h.passed ++ beBytes 2 landBuf ++
    zeros 4

/-! ### Communicators -/

/-- State of a communicator (R156): 0 IDLE, 1 ACTIVE, 2 SEALING, 3 PREPARED, 4 STOPPED, 5 IN_DOUBT. -/
def Dev.commSt (d : Dev) (y c : Nat) : Nat := d.fld ((R.TRN_COMM_STATE y c).sub 0 3)

/-- ATTEMPT of a communicator (R132). -/
def Dev.attempt (d : Dev) (y c : Nat) : Nat := d.fld ((R.TRN_COMM_STATE y c).sub 16 8)

/-- Enter a state of R156. -/
def setCommSt (y c s : Nat) : M d0 Unit := wr ((R.TRN_COMM_STATE y c).sub 0 3) s

/-- The declaration of communicator `c` of the loaded plan. -/
def Dev.decl (d : Dev) (y c : Nat) : Option CommDecl := (d.yard y).plan.bind (fun p => p.comms[c]?)

/-- The communicator with RING_ID `r`. -/
def Dev.commAt (d : Dev) (y r : Nat) : Option Nat :=
  match (d.yard y).plan with
  | none => none
  | some p => (List.range p.comms.length).find? (fun c => ((p.comms[c]?).map (fun x => x.ringId)) == some r)

/-- Whether a yard takes in ring control, landing answers and signals: running, or frozen (R485). -/
def Dev.hears (d : Dev) (y : Nat) : Bool := d.present y && d.takes y && !(d.yard y).resetting && !d.ctl.warm && !d.sec.scanOn && !d.ctl.tripped

/-- Whether a packet for yard `y` is consumed; one that meets a bay that is not ASSIGNED, a fatal error or a yard reset is
discarded and counted (R378, R480). -/
def yardHears (y : Nat) : M d0 Bool := do
  let d ← dev
  if d.hears y then return true
  if !d.takes y || (d.yard y).resetting then idleDiscard else pure ()
  return false

/-- Whether the member is without a verdict for the current op: from the start of the iteration, also when a step has ended the
iteration in error meanwhile (R151). -/
def Dev.undecided (d : Dev) (y c : Nat) : Bool :=
  match (d.yard y).plan, d.comm y c with
  | some p, some x =>
    d.commSt y c != 0 || (((d.yard y).running || (d.yard y).failed) && x.verdict.isNone && decide (x.opseq < (p.ops c).length))
  | _, _ => false

/-- Threads whose active step is a ring step of communicator `c`. -/
def Dev.ringThreads (d : Dev) (y c : Nat) : List Nat :=
  (List.range (d.yard y).thrs.length).filter (fun t =>
    match d.activeStep y t with
    | none => false
    | some (_, st, _) => st.isRing && st.comm == c)

/-- Yard connection of plan connection `j` (R257). -/
def Dev.hopConn (d : Dev) (y j : Nat) : Nat := d.fld (R.TRN_PLAN_CONN_BASE y) + j

/-- Whether the hops of a communicator can carry packets: a WRT hop needs its connection READY (R257). -/
def Dev.hopsUp (d : Dev) (y : Nat) (k : CommDecl) : Bool :=
  (k.predHop == 0 || (d.conn y (d.hopConn y k.predConn)).st == 2) &&
  (k.succHop == 0 || (d.conn y (d.hopConn y k.succConn)).st == 2)

/-- Send a packet to the successor, or back to the predecessor: OK, or the code that stops the member (R257, R269,
R430). -/
def sendRing (y : Nat) (k : CommDecl) (back lap : Bool) (body payload : List Byte) : M d0 Nat := do
  let d ← dev
  let hop := if back then k.predHop else k.succHop
  if hop = 0 then
    let a := if back then k.predAddr else k.succAddr
    let ok ← inject y y (mkPkt (if lap then 0x20 else 0x21) a (d.addrOf y) y true body payload)
    return if ok then cOk else cAuthFailed
  else
    let n := d.hopConn y (if back then k.predConn else k.succConn)
    if (d.conn y n).st ≠ 2 then return cTargetUnavailable
    if !d.keyed y then return cAuthFailed
    ringEnqueue y n (if lap then 0x18 else 0x19) body payload
    return cOk

/-- A control header of the current op with nothing to report. -/
def Dev.ctlHdr (d : Dev) (y c : Nat) : CtlHdr :=
  { back := false, src := 0, nonce := 0, ringId := ((d.decl y c).map (fun k => k.ringId)).getD 0, attempt := d.attempt y c,
    opseq := ((d.comm y c).map (fun x => x.opseq)).getD 0 % 2 ^ 16, step := d.fld (R.PLN_STEP_COUNT y) % 2 ^ 32, check := false,
    code := 0, origin := 0, originValid := false, cause := 0, verdict := 0, passed := 0 }

/-- Send a control packet of KIND `kind` in one direction. -/
def sendCtl (y c kind : Nat) (h : CtlHdr) (back : Bool) : M d0 Nat := do
  match (← dev).decl y c with
  | none => return cOk
  | some k => sendRing y k back false (ctlBytes { h with back := back } kind 0 0 0) []

/-- Send it both ways. -/
def sendBoth (y c kind : Nat) (h : CtlHdr) : M d0 Unit := do
  let _ ← sendCtl y c kind h false
  let _ ← sendCtl y c kind h true

/-- Return landing-slot credits to the predecessor (R133). -/
def returnCredit (y c n : Nat) : M d0 Unit := if n = 0 then pure () else emit (.lapCredit y c n)

/-- A ring packet is discarded and counted (R148). DEDUCED, log 45. -/
def ringDiscard (y : Nat) : M d0 Unit := bump (R.TRN_COMM_DISCARDS y) 1

/-- What tells a lap packet from the others of its lap: sub-step with attempt and op, chunk, packet. -/
def lapKey (h : LapHdr) : Nat × Nat × Nat := (h.substep + 2 ^ 16 * (h.attempt + 2 ^ 8 * h.opseq), h.chunk, h.pkt)

/-- The received packet that a waiting packet is. -/
def LapPkt.key (q : LapPkt) : Nat × Nat × Nat := lapKey q.h

/-- The received packets that still hold a landing slot although their bytes are taken: those to be forwarded, and those with
landing writes that wait or are not answered (R140). -/
def Comm.heldKeys (x : Comm) : List (Nat × Nat × Nat) :=
  ((x.txq.filter (fun q => q.inSlot)).map LapPkt.key ++ x.landq.filterMap (fun w => w.key) ++ x.landKeys).eraseDups

/-- Landing slots in use. -/
def Comm.slotsUsed (x : Comm) : Nat := x.slots.length + x.heldKeys.length

/-- The op's lap work stops in the threads `ts` (R151): runs end, waiting packets are not sent, and the slots they held are
free. A slot whose landing write is under way stays until the answer. -/
def stopLapIn (y c : Nat) (ts : List Nat) : M d0 Unit := do
  each ts (fun t => do
    freeThread y t
    modActive y t (fun a => { a with runs := [], live := false, lap := none }))
  match (← dev).comm y c with
  | none => pure ()
  | some x =>
    let x' := { x with txq := [], landq := [] }
    returnCredit y c (x.heldKeys.length - x'.heldKeys.length)
    act (.comm (yk y c) (some x'))
  pumpRuns y

/-- The op's lap work stops. -/
def stopLap (y c : Nat) : M d0 Unit := do stopLapIn y c ((← dev).ringThreads y c)

/-! ### Notices (R157, R158) -/

/-- Send the notices that wait once every landing write is answered. -/
def flushNotes (y c : Nat) : M d0 Unit := do
  let d ← dev
  match d.comm y c, d.decl y c with
  | some x, some k =>
    if x.landOut ≠ 0 ∨ x.notes.isEmpty then return
    modComm y c (fun x => { x with notes := [] })
    each x.notes (fun b => do let _ ← inject y y (mkPkt 0x21 k.landGroup (d.addrOf y) y true b []))
  | _, _ => return

/-- A notice to the landing group: 1 PROVISIONAL, 2 COMMIT, 3 RETRACT. -/
def notice (y c note : Nat) (h : CtlHdr) : M d0 Unit := do
  match (← dev).decl y c with
  | none => pure ()
  | some k =>
    if k.landGroup = 0xFFFF then return
    let b := ctlBytes h 6 note (if note = 3 then cCollRetract else 0) k.landBuf
    modComm y c (fun x => { x with notes := x.notes ++ [b] })
    flushNotes y c

/-! ### Outcomes (R149, R153, R154, R164) -/

/-- Show the communicators in doubt (R163). -/
def showDoubt (y : Nat) : M d0 Unit := do
  let d ← dev
  let n := (((d.yard y).plan).map (fun p => p.comms.length)).getD 0
  let ds := (List.range n).filter (fun c => d.commSt y c == 5)
  wr (R.TRN_COMM_DOUBT_COUNT y) ds.length
  wr (R.TRN_COMM_DOUBT_FIRST y) (ds.headD 0)

/-- A member applies a verdict or a resolve at one instant: the outcome is recorded, the bank flip and the step counter
take effect with the ADVANCE seal, and the active ring steps of the op complete; with N = 1 the op is the step of the thread
`alone`, and the communicator stays ACTIVE while other threads have one (R131). -/
def applyVerdict (y c : Nat) (commit : Bool) (code origin : Nat) (valid : Bool) (cause : Nat) (resolved : Bool)
    (alone : Option Nat := none) : M d0 Unit := do
  let d ← dev
  match d.comm y c with
  | some x =>
    let h : CtlHdr := { d.ctlHdr y c with check := commit, code := code, origin := origin, originValid := valid, cause := cause,
                                            verdict := if commit then 1 else 2 }
    let ts := (d.ringThreads y c).filter (fun t => alone.all (fun a => a == t))
    let adv := ts.any (fun t => match d.activeStep y t with
      | some (_, st, _) => st.type == tSeal && bit st.flags 0
      | none => false)
    wr (R.TRN_COMM_LAST y c) (code % 256 + 2 ^ 8 * (cause % 256) + 2 ^ 16 * (origin % 4096) + 2 ^ 28 * b2n valid +
      2 ^ 29 * h.verdict + 2 ^ 31 * b2n resolved + 2 ^ 32 * h.opseq + 2 ^ 48 * (h.step % 2 ^ 16))
    stopLapIn y c ts
    setCommSt y c (if ts.length < (d.ringThreads y c).length then 1 else 0)
    wr ((R.TRN_COMM_STATE y c).sub 3 1) 0
    let att := d.attempt y c
    let keepAtt := if commit then 256 else (att + 1) % 256
    let stays (q : LapPkt) : Bool := q.h.attempt == keepAtt && q.h.opseq == 0
    let gone := (x.slots.filter (fun q => !stays q)).length
    each (List.range gone) (fun _ => ringDiscard y)
    returnCredit y c gone
    let dead : Option (Nat × Nat × Nat × Bool) := if commit then none else some (code, cause, origin, valid)
    modComm y c (fun x => { x with
      held := none, kept := none, keptByHost := false, abortCode := 0, abortOrigin := 0, abortCause := 0, fwdAbort := false, bwdAbort := false,
      check := true, code := 0, begun := [], early := false, refused := false, verdict := dead,
      opseq := if commit then x.opseq + 1 else 0, slots := x.slots.filter stays })
    settleWrites y c commit
    if commit then
      if adv then advanceStep y else pure ()
      bump (R.TRN_COMM_OPS y c) 1
    else wr ((R.TRN_COMM_STATE y c).sub 16 8) keepAtt
    showDoubt y
    each ts (fun t => stepDone y t (if commit then cOk else code) (if valid && !commit then some origin else none))
    notice y c (if commit then 2 else 3) h
  | none => return

/-- The coordinator decides (R148, R152): one verdict, both ways, applied here. -/
def decideOp (y c : Nat) (commit : Bool) (code origin : Nat) (valid : Bool) (cause : Nat) : M d0 Unit := do
  let h := (← dev).ctlHdr y c
  sendBoth y c 4 { h with check := commit, code := code, origin := origin, originValid := valid, cause := cause,
                          verdict := if commit then 1 else 2 }
  applyVerdict y c commit code origin valid cause false

/-- Add this member's contribution to a SEAL and forward it (R147, R151): OK, or the code that fails its SEAL step (R430). -/
def passSeal (y c : Nat) (h : CtlHdr) : M d0 Nat := do
  let d ← dev
  match d.comm y c, d.decl y c with
  | some x, some k =>
    let stopped := d.commSt y c == 4 || d.commSt y c == 5
    let h1 : CtlHdr :=
      if stopped then
        if h.code < x.abortCode then
          { h with check := false, code := x.abortCode, origin := x.abortOrigin, originValid := true, cause := x.abortCause }
        else { h with check := false }
      else if h.code < x.code then
        { h with check := h.check && x.check, code := x.code, origin := k.pos, originValid := true, cause := 0 }
      else { h with check := h.check && x.check }
    modComm y c (fun x => { x with held := none })
    let code ← sendCtl y c 3 { h1 with passed := h1.passed + 1 } false
    if !stopped && code == 0 then setCommSt y c 3 else pure ()
    return if stopped then cOk else code
  | _, _ => return cOk

/-- A member that is not the coordinator becomes STOPPED; a SEAL held by it leaves (R151). -/
def becomeStopped (y c : Nat) : M d0 Unit := do
  stopLap y c
  setCommSt y c 4
  match (← dev).comm y c with
  | none => pure ()
  | some x => match x.held with
    | none => pure ()
    | some h => let _ ← passSeal y c h

/-- The member originates an abort with a code and a cause (R151); the coordinator decides ABORT at once (R152). -/
def originateAbort (y c code cause : Nat) : M d0 Unit := do
  let d ← dev
  match d.decl y c with
  | none => return
  | some k =>
    if k.n < 2 ∨ d.commSt y c = 4 ∨ d.commSt y c = 5 ∨ !d.undecided y c then return
    if k.pos = 0 then
      stopLap y c
      decideOp y c false code 0 true cause
    else
      modComm y c (fun x => { x with abortCode := code, abortOrigin := k.pos, abortCause := cause, fwdAbort := true, bwdAbort := true })
      let h := d.ctlHdr y c
      sendBoth y c 5 { h with code := code, origin := k.pos, originValid := true, cause := cause }
      becomeStopped y c

/-- With N = 1 the ring step of thread `t` ends its own op, decided on its own result and the check result (R131, R150). -/
def endAlone (y t c code : Nat) : M d0 Unit := do
  match (← dev).comm y c with
  | none => return
  | some x =>
    let r := if code ≠ 0 then code else if x.check then 0 else x.code
    applyVerdict y c (r == 0) r 0 (r != 0) 0 false (some t)

/-- The active step of thread `t` fails with a local code; a member of a ring aborts the op (R151, R213). The step keeps its
local code (R153); the abort leaves before the end of the iteration is tested. -/
def localFail (y t code : Nat) : M d0 Unit := do
  let d ← dev
  match d.activeStep y t with
  | none => return
  | some (p, st, _) =>
    if !st.inOp then stepDone y t code none
    else if p.ringN st < 2 then
      if st.isRing then endAlone y t st.comm code else stepDone y t code none
    else
      if st.isRing then stopLap y st.comm else pure ()
      if d.commSt y st.comm = 0 ∧ st.isRing then setCommSt y st.comm 1 else pure ()
      stepEnd y t code none
      originateAbort y st.comm cCollAbortPeer code
      iterCheck y

/-- Pass a SEAL on; when it cannot be sent, the member's SEAL step fails (R430). -/
def sealOn (y c : Nat) (h : CtlHdr) : M d0 Unit := do
  let code ← passSeal y c h
  if code = 0 then return
  let d ← dev
  each ((d.ringThreads y c).filter (fun t => ((d.activeStep y t).map (fun e => e.2.1.type == tSeal)).getD false)) (fun t => localFail y t code)

/-- The iteration's ring work ends with the yard (R151, R156): due aborts leave, and every communicator is IDLE. -/
def abortAll (y cause : Nat) : M d0 Unit := do
  let d ← dev
  let n := (((d.yard y).plan).map (fun p => p.comms.length)).getD 0
  each (List.range n) (fun c => do
    let d ← dev
    match d.decl y c with
    | none => pure ()
    | some k =>
      let h := d.ctlHdr y c
      if 2 ≤ k.n ∧ d.commSt y c ≠ 4 ∧ d.commSt y c ≠ 5 ∧ d.undecided y c then
        sendBoth y c (if k.pos = 0 then 4 else 5) { h with
          code := cCollAbortPeer, origin := k.pos, originValid := true, cause := cause, verdict := if k.pos = 0 then 2 else 0 }
      else pure ()
      stopLap y c
      settleWrites y c false
      setCommSt y c 0)
  showDoubt y

/-! ### The rows of the seal circuit -/

/-- Whether a ring packet belongs to the current op (R132). -/
def Dev.currentOp (d : Dev) (y c : Nat) (back : Bool) (src ringStep opseq attempt : Nat) : Bool :=
  match d.decl y c, d.comm y c with
  | some k, some x =>
    src == (if back then k.succAddr else k.predAddr) && ringStep == d.fld (R.PLN_STEP_COUNT y) % 2 ^ 32 &&
      opseq == x.opseq % 2 ^ 16 && attempt == d.attempt y c
  | _, _ => false

/-- Judge a ring packet by the hop it came over: by its tag on a W-link; over a WRT hop the connection judges it as it judges
any request, and a new one is accepted (R250, R252, R269, R271, R272). A frozen yard answers a lap packet with RNR (R485).
A yard that holds no key set verifies no tag (R430). True when the packet is to be acted on. -/
def hopTake (y : Nat) (wrt : Option WrtHdr) (tagOk lap : Bool) : M d0 Bool := do
  match wrt with
  | none => return tagOk && (← dev).keyed y
  | some h =>
    ethConsume y h.conn
    match ← classify y { h with tagOk := h.tagOk && tagOk } with
    | .drop => return false
    | .behind =>
      behindPkt y h.conn
      return false
    | .new =>
      if lap && (← dev).frozen y then
        rnrSend y h.conn h.psn
        return false
      acceptPkt y h.conn h.psn 1 h.ackreq
      return true

/-- Whether a ring packet came over the hop that the declaration names (R129). -/
def Dev.hopIs (d : Dev) (y : Nat) (k : CommDecl) (back : Bool) (wrt : Option WrtHdr) : Bool :=
  let hop := if back then k.succHop else k.predHop
  match wrt with
  | none => hop == 0
  | some w => hop != 0 && w.conn == d.hopConn y (if back then k.succConn else k.predConn)

/-- Take in a control packet: authenticate it, find its communicator, and discard what does not belong to the current op
(R132, R144, R364, R433). DEDUCED, log 23. -/
def takeCtl (y : Nat) (h : CtlHdr) (tagOk : Bool) (f : Nat → CommDecl → Comm → M d0 Unit) : M d0 Unit := do
  if !(← yardHears y) then return
  if !(← hopTake y h.wrt tagOk false) then return
  let fresh ← if h.wrt.isNone then replayOk y y h.src h.nonce else pure true
  if !fresh then return
  let d ← dev
  match d.commAt y h.ringId with
  | none => ringDiscard y
  | some c =>
    match d.decl y c, d.comm y c with
    | some k, some x =>
      if !d.hopIs y k h.back h.wrt then
        ringDiscard y
        return
      if !d.currentOp y c h.back h.src h.step h.opseq h.attempt then ringDiscard y
      else f c k x
    | _, _ => ringDiscard y

/-- SEAL_PACKET (R147, R148): at the coordinator the returned SEAL decides; elsewhere it is passed on once the SEAL step
has started, and held until then. -/
def execSealPacket (y : Nat) (h : CtlHdr) (tagOk : Bool) (s : State) : Host.Outcome State Fault Refusal :=
  perform s (takeCtl y h tagOk (fun c k x => do
    let st := (← dev).commSt y c
    if k.pos = 0 ∨ h.back ∨ !(← dev).undecided y c then ringDiscard y
    else if st = 2 ∨ st = 4 ∨ st = 5 then sealOn y c h
    else if st ≤ 1 ∧ x.held.isNone then modComm y c (fun x => { x with held := some h })
    else ringDiscard y))

/-- SEAL_RETURN (R148): COMMIT when CHECK is 1 and PASSED equals N, otherwise ABORT with the packet's code and origin. -/
def execSealReturn (y : Nat) (h : CtlHdr) (tagOk : Bool) (s : State) : Host.Outcome State Fault Refusal :=
  perform s (takeCtl y h tagOk (fun c k x => do
    if k.pos ≠ 0 ∨ h.back ∨ (← dev).commSt y c ≠ 2 ∨ x.kept.isSome then ringDiscard y
    else if h.check && h.passed == k.n then decideOp y c true 0 0 false 0
    else decideOp y c false h.code h.origin h.originValid h.cause))

/-- VERDICT (R148, R149, R153): the first copy is applied and forwarded in its direction of travel. In a frozen yard it is
kept (R485). -/
def execVerdict (y : Nat) (h : CtlHdr) (tagOk : Bool) (s : State) : Host.Outcome State Fault Refusal :=
  perform s (takeCtl y h tagOk (fun c k x => do
    if k.pos = 0 ∨ !(h.verdict = 1 ∨ h.verdict = 2) ∨ !(← dev).undecided y c ∨ x.kept.isSome then ringDiscard y
    else
      if (← dev).frozen y then modComm y c (fun x => { x with kept := some h })
      else applyVerdict y c (h.verdict == 1) h.code h.origin h.originValid h.cause false
      let _ ← sendCtl y c 4 h h.back))

/-- ABORT (R151, R152): a member without a verdict stops and forwards it, once in each direction; the coordinator decides
on the first it receives. -/
def execAbort (y : Nat) (h : CtlHdr) (tagOk : Bool) (s : State) : Host.Outcome State Fault Refusal :=
  perform s (takeCtl y h tagOk (fun c k x => do
    if !(← dev).undecided y c ∨ (k.pos = 0 ∧ x.kept.isSome) then ringDiscard y
    else if k.pos = 0 then
      stopLap y c
      decideOp y c false h.code h.origin h.originValid h.cause
    else if (if h.back then x.bwdAbort else x.fwdAbort) then ringDiscard y
    else
      modComm y c (fun x => { x with
        abortCode := max x.abortCode h.code, abortOrigin := if x.abortCode < h.code then h.origin else x.abortOrigin,
        abortCause := if x.abortCode < h.code then h.cause else x.abortCause,
        fwdAbort := x.fwdAbort || !h.back, bwdAbort := x.bwdAbort || h.back })
      let _ ← sendCtl y c 5 h h.back
      let st := (← dev).commSt y c
      if st ≠ 4 ∧ st ≠ 5 then becomeStopped y c else pure ()))

/-- TRN_COMM_RESOLVE (R154, R163, R164). A frozen yard keeps the outcome for its resume, as it keeps a verdict (R187, R485).
DEDUCED, log 23. -/
def trnCommResolveDo (y value : Nat) : M d0 Unit :=
  do
    let d ← dev
    let c := bits value 0 10
    let kind := bits value 12 2
    if !(← cmdReach y) then return
    if (d.decl y c).isNone ∨ d.commSt y c ≠ 5 ∨ !(kind = 1 ∨ kind = 2) ∨ ((d.comm y c).bind (fun x => x.kept)).isSome then
      wr (R.TRN_COMM_DOUBT_RESOLVE_ERR y) 1
    else if d.frozen y then
      let h := { d.ctlHdr y c with code := if kind = 1 then 0 else cCollAbortPeer, verdict := kind }
      modComm y c (fun x => { x with kept := some h, keptByHost := true })
    else if kind = 1 then applyVerdict y c true 0 0 false 0 true
    else applyVerdict y c false cCollAbortPeer 0 false 0 true

@[inherit_doc trnCommResolveDo] def execTrnCommResolve (y value : Nat) (s : State) : Host.Outcome State Fault Refusal :=
  perform s (coreTake y (.trnCommResolve y value) none (trnCommResolveDo y value))

/-- STEP_WATCHDOG_EXPIRY (R107, R151, R152, R154). DEDUCED, log 23. -/
def execStepWatchdogExpiry (y t : Nat) (s : State) : Host.Outcome State Fault Refusal :=
  perform s do
    let d ← dev
    match d.activeStep y t with
    | none => return
    | some (p, st, a) =>
      if !d.live y || a.code.isSome || st.wd == 0xFFFF then return
      if !st.isRing then localFail y t cCollTimeout
      else if p.ringN st < 2 then endAlone y t st.comm cCollTimeout
      else
        let c := st.comm
        match d.commSt y c with
        | 5 => return
        | 4 =>
          setCommSt y c 5
          showDoubt y
          if d.on (R.TRN_COMM_IRQ_DOUBT_EN y) then irqYard y (d.fld (R.TRN_COMM_IRQ_VECTOR y)) else pure ()
        | _ => originateAbort y c cCollTimeout 0

end Sys2Proof.Machine
end

