-- ==== Sys2Proof/Machine/LapForm.lean ====
section
/-! DEFINITION. What travels round a ring: packets of a chunk with zero-skip, maps and values of sparse chunks, the
crossover, and the demand tables of a lap (05, 07: R136, R142, R145, R190, R199 to R206). -/

namespace Sys2Proof.Machine

variable {d0 : Dev}

/-! ### Packets (R136, R142) -/

/-- The 256-byte blocks of a packet's content. -/
def zeroBlocks (bs : List Byte) : List (List Byte) := chunksOf 17 256 bs

/-- Whether every byte is 0. -/
def allZero (bs : List Byte) : Bool := bs.all (fun b => b == 0)

/-- ZMASK of a packet's content. -/
def zmaskOf (bs : List Byte) : Nat :=
  (List.zip (List.range 16) (zeroBlocks bs)).foldl (fun n e => if allZero e.2 then n + 2 ^ e.1 else n) 0

/-- What of the content is sent. -/
def sentOf (bs : List Byte) : List Byte := ((zeroBlocks bs).filter (fun b => !allZero b)).flatten

/-- Rebuild `n` bytes of content from block `i` on; none when the payload does not match. -/
def rebuild (zmask : Nat) (fuel i n : Nat) (payload : List Byte) : Option (List Byte) :=
  match fuel with
  | 0 => none
  | k + 1 =>
    if n = 0 then if payload.isEmpty then some [] else none
    else
      let m := min 256 n
      if bit zmask i then (rebuild zmask k (i + 1) (n - m) payload).map (fun r => zeros m ++ r)
      else if payload.length < m then none
      else (rebuild zmask k (i + 1) (n - m) (payload.drop m)).map (fun r => payload.take m ++ r)

/-- The content of a received packet of `n` bytes. -/
def LapPkt.content (q : LapPkt) (n : Nat) : Option (List Byte) :=
  if q.h.zero then if q.data.isEmpty then some (zeros n) else none else rebuild q.h.zmask 18 0 n q.data

/-- The marks of `n` blocks in a map, bit order as in R195. -/
def marksOf (map : List Byte) (n : Nat) : List Bool := (List.range n).map (fun b => bit ((map.getD (b / 8) 0).toNat) (b % 8))

/-- A map of marks. -/
def mapOf (marks : List Bool) : List Byte :=
  (chunksOf (marks.length + 1) 8 marks).map (fun g =>
    BitVec.ofNat 8 ((List.zip (List.range 8) g).foldl (fun n e => if e.2 then n + 2 ^ e.1 else n) 0))

/-- Marked blocks. -/
def countMarks (marks : List Bool) : Nat := (marks.filter id).length

/-- Pieces of at most 4,096 bytes. -/
def pieces (bs : List Byte) : List (List Byte) := chunksOf (bs.length / 4096 + 2) 4096 bs

/-- The packets of a chunk: map, element and scale bytes, packed in packets with zero-skip; a sparse chunk with no block
marked is one map packet (R199). `h` gives the fields all packets share, `crc` what the LAST one carries. -/
def chunkPackets (h : LapHdr) (crc : Nat) (sparse : Bool) (map elems scales : List Byte) : List LapPkt :=
  let parts : List (Bool × List Byte) :=
    if sparse && allZero map then [(false, zeros (min 4096 map.length))]
    else (pieces map ++ pieces elems).map (fun b => (false, b)) ++ (pieces scales).map (fun b => (true, b))
  (List.zip (List.range parts.length) parts).map (fun e =>
    let last := e.1 + 1 == parts.length
    let z := allZero e.2.2
    { h := { h with last := last, zero := z, scale := e.2.1, pkt := e.1, zmask := zmaskOf e.2.2,
                    crc := if last then crc else 0 },
      data := sentOf e.2.2, inSlot := false })

/-- Bytes of the map, element and scale areas of a chunk of `u` units; those of a sparse chunk follow from its map. -/
def chunkLens (f : Option Fmt) (sparse : Bool) (u : Nat) (map : List Byte) : Nat × Nat × Nat :=
  if sparse then
    let n := countMarks (marksOf map (16 * u))
    (2 * u, n * elemBytes f 32, n * scaleBytes f 32)
  else (0, elemBytes f (512 * u), scaleBytes f (512 * u))

/-! ### Blocks and units -/

/-- The `i`-th group of `n` bytes. -/
def grp (bs : List Byte) (n i : Nat) : List Byte := slice bs (n * i) n

/-- Put the groups of `src` at the marked places, in order, and those of `base` at the others. -/
def weave (n : Nat) (marks : List Bool) (i j : Nat) (src base : List Byte) : List Byte :=
  match marks with
  | [] => []
  | true :: ms => grp src n j ++ weave n ms (i + 1) (j + 1) src base
  | false :: ms => grp base n i ++ weave n ms (i + 1) j src base

/-- The groups of `bs` at the marked places. -/
def pickGroups (n : Nat) (marks : List Bool) (i : Nat) (bs : List Byte) : List Byte :=
  match marks with
  | [] => []
  | true :: ms => grp bs n i ++ pickGroups n ms (i + 1) bs
  | false :: ms => pickGroups n ms (i + 1) bs

/-- A sparse chunk's values laid out over all its blocks, absent ones as 0x00. -/
def expand (n : Nat) (marks : List Bool) (vals : List Byte) : List Byte := weave n marks 0 0 vals (zeros (n * marks.length))

/-- Indices of the marked places, from `i` on. -/
def markIx (marks : List Bool) (i : Nat) : List Nat :=
  match marks with
  | [] => []
  | m :: ms => if m then i :: markIx ms (i + 1) else markIx ms (i + 1)

/-- CROSSOVER of a step (R104). -/
def Step.crossover (st : Step) : Nat := if st.sp 0x6A 2 = 0 then 26214 else st.sp 0x6A 2

/-- The outgoing form of a sparse chunk (R201): map and bytes. -/
def outForm (st : Step) (f : Option Fmt) (marks : List Bool) (elems scales : List Byte) : List Byte × List Byte × List Byte :=
  if countMarks marks * 65536 > st.crossover * marks.length then
    (mapOf (marks.map (fun _ => true)), expand (elemBytes f 32) marks elems, expand (scaleBytes f 32) marks scales)
  else (mapOf marks, elems, scales)

/-! ### Reading pieces of a range at issue -/

/-- Read pieces (offset and length) of the range at `q` for a step's issue. Host memory is read as one range. -/
def readPieces (y b : Nat) (q : Place) (ps : List (Nat × Nat)) (who : Waiter) (h : HostSide) : M d0 (LocRes × List (List Byte)) := do
  match q with
  | .mem t a =>
    let rs ← gather ps (fun p => readMem y t (a + p.1) p.2)
    if rs.any (fun r => r.isNone) then return (.err cMemUncorrectable, [])
    return (.ok [], rs.filterMap id)
  | .host s v =>
    let n := ps.foldl (fun m p => max m (p.1 + p.2)) 0
    if n = 0 then return (.ok [], ps.map (fun _ => []))
    match ← hostSide y b s v n false who h with
    | .ok bs => return (.ok [], ps.map (fun p => slice bs p.1 p.2))
    | x => return (x, [])

/-! ### Demand tables of a lap (R205, R206, R208) -/

/-- An entry of a demand table: first unit, units, KEEP, bitmap offset and bytes, ABSENT. -/
structure DemandEnt where
  first : Nat
  units : Nat
  keep : Bool
  off : Nat
  len : Nat
  absent : Bool

/-- The entries of the demand table at offset `o` of TABLES. -/
def Plan.demandEnts (p : Plan) (o : Nat) : List DemandEnt :=
  (List.range (le p.tables o 4)).map (fun i =>
    let e := o + 64 + 16 * i
    let fk := le p.tables e 8
    let m := le p.tables (e + 12) 4
    { first := bits fk 0 50 / 512, units := le p.tables (e + 8) 4, keep := bit fk 63, off := bits m 0 28, len := bits m 28 3 + 1,
      absent := bit m 31 })

/-- Where the demand reference of a table of TABLES starts (R205, R226): buffer, and byte offset in it. -/
def Plan.demandRef (p : Plan) (o : Nat) (env : List Nat) : Nat × Nat :=
  (le p.tables (o + 4) 2, le p.tables (o + 8) 8 + 64 * le p.tables (o + 16) 4 * levelIx env (le p.tables (o + 6) 1))

/-- The place of a demand reference. -/
def Dev.demandPlace (d : Dev) (y : Nat) (p : Plan) (o : Nat) (env : List Nat) : Option Place :=
  let r := p.demandRef o env
  (p.bufs[p.bank (d.odd y) r.1]?).bind (fun b => d.bufPlace y b r.2)

end Sys2Proof.Machine
end

