-- ==== Sys2Proof/Machine/Lap.lean ====
section
/-! DEFINITION. The laps of a ring op, the fused update and the seal step (05 to 07: R133 to R148, R151, R153, R172 to
R178, R199 to R208, R212, R233). -/

namespace Sys2Proof.Machine

variable {d0 : Dev}

/-! ### The lap of a thread -/

/-- A lap in progress: plan, record, active step, lap work, declaration, communicator. -/
structure LapCtx where
  p : Plan
  st : Step
  a : Active
  L : LapSt
  k : CommDecl
  x : Comm
deriving DecidableEq, Repr

/-- The lap of thread `t`. -/
def Dev.lapCtx (d : Dev) (y t : Nat) : Option LapCtx :=
  match d.activeStep y t with
  | none => none
  | some (p, st, a) =>
    match a.lap, p.decl st, d.comm y st.comm with
    | some L, some k, some x => some { p := p, st := st, a := a, L := L, k := k, x := x }
    | _, _, _ => none

/-- Members of its ring. -/
def LapCtx.n (z : LapCtx) : Nat := z.p.ringN z.st

/-- Segment of run index `r` at position `pos` (R137, R140). -/
def segOf (gather : Bool) (N pos r : Nat) : Nat := if gather then (pos + N - r) % N else (pos + 2 * N - r - 1) % N

/-- Segment of run index `r`. -/
def LapCtx.seg (z : LapCtx) (r : Nat) : Nat := segOf z.L.gather z.n z.k.pos r

/-- Units of chunk `c` of run index `r`. -/
def LapCtx.units (z : LapCtx) (r c : Nat) : Nat := z.p.chunkUnits z.st (z.seg r) c

/-- First element of chunk `c` of run index `r`. -/
def LapCtx.elem0 (z : LapCtx) (r c : Nat) : Nat := z.p.stepSegFirst z.st (z.seg r) + 512 * z.p.perChunk z.st * c

/-- Chunks of run index `r`. -/
def LapCtx.chunks (z : LapCtx) (r : Nat) : Nat := z.p.chunks z.st (z.seg r)

/-- Wire format. -/
def LapCtx.fmt (z : LapCtx) : Option Fmt := z.p.wire z.st

/-- Whether chunks travel as map and values. -/
def LapCtx.sparse (z : LapCtx) : Bool := z.st.wireForm == 1

/-- Change the lap work of a thread. -/
def modLap (y t : Nat) (f : LapSt → LapSt) : M d0 Unit := modActive y t (fun a => { a with lap := a.lap.map f })

/-- A chunk has been finished. -/
def chunkDone (y t : Nat) : M d0 Unit := modLap y t (fun L => { L with left := L.left - 1 })

/-- What the packets of a chunk of the current op have in common. -/
def Dev.lapHdr (d : Dev) (y : Nat) (z : LapCtx) (r c : Nat) : LapHdr :=
  { gather := z.L.gather, last := false, zero := false, scale := false, src := d.addrOf y, ringId := z.k.ringId,
    attempt := d.attempt y z.st.comm, opseq := z.x.opseq % 2 ^ 16, step := d.fld (R.PLN_STEP_COUNT y) % 2 ^ 32,
    seg := z.seg r, substep := r, chunk := c, pkt := 0, zmask := 0, crc := 0 }

/-- Queue the packets of a chunk for the successor. DEDUCED, log 45. -/
def sendChunk (y : Nat) (z : LapCtx) (r c : Nat) (map elems scales : List Byte) : M d0 Unit := do
  let crc := if z.L.gather then crc32c (map ++ elems ++ scales) else 0
  let ps := chunkPackets ((← dev).lapHdr y z r c) crc z.sparse map elems scales
  modComm y z.st.comm (fun x => { x with txq := x.txq ++ ps })

/-! ### Landing writes (R146, R218, R233, R366) -/

/-- LAND packets unanswered toward an accelerator address. -/
def Dev.unanswered (d : Dev) (a : Nat) : Nat :=
  d.yards.foldl (fun n e => n + (e.2.landReqs.filter (fun q => q.2.dst == a)).length) 0

/-- A landing target refuses a lap-2 write. -/
def landRefused (y c : Nat) : M d0 Unit :=
  modComm y c (fun x => { x with check := false, code := max x.code cTargetUnavailable, refused := true })

/-- Change a landing buffer. -/
def modLand (y a buf : Nat) (f : LandBuf → LandBuf) : M d0 Unit :=
  modYard y (fun r => { r with lands := r.lands.map (fun b => if b.src == a && b.buf == buf then f b else b) })

/-- The body of a LAND packet (R366). -/
def landBody (buf epoch kind seq off ans entry : Nat) : List Byte :=
  beBytes 2 buf ++ leBytes 1 epoch ++ leBytes 1 kind ++ beBytes 4 seq ++ beBytes 8 off ++ beBytes 4 ans ++ beBytes 4 entry

/-- Emit a LAND packet with the next ANS_ID; false when it cannot be tagged. -/
def landSend (y b : Nat) (o : LandOwner) (a buf epoch kind seq off entry : Nat) (bytes : List Byte) : M d0 Bool := do
  let d ← dev
  let id := (d.yard y).ansNext
  if ← injectOne y b (mkPkt 0x30 a (d.addrOf b) b true (landBody buf epoch kind seq off id entry) bytes) then
    modYard y (fun r => { r with ansNext := (id + 1) % 2 ^ 32, landReqs := Tab.put r.landReqs id { owner := o, dst := a, buf := buf } })
    modLand y a buf (fun b => { b with out := b.out + 1 })
    return true
  else return false

/-- A lap-2 write of communicator `c` at byte `off` of the landing buffer of target `a`; `key` names the received packet that
keeps its slot while the write waits (R140). DEDUCED, log 45. -/
def landAt (y c a off : Nat) (bytes : List Byte) (key : Option (Nat × Nat × Nat)) : M d0 Nat := do
  let d ← dev
  match d.decl y c with
  | none => return cOk
  | some k =>
    match (d.yard y).land a k.landBuf with
    | none => landRefused y c; return cOk
    | some b =>
      if b.kind ≠ 0 ∨ b.closing ∨ b.length < off + bytes.length then
        landRefused y c
        return cOk
      if 512 ≤ d.unanswered a then
        modComm y c (fun x => { x with landq := x.landq ++ [{ target := a, off := off, bytes := bytes, key := key }] })
        return cOk
      if ← landSend y y (.lap c key) a k.landBuf 0 0 0 off 0 bytes then
        modComm y c (fun x => { x with landOut := x.landOut + 1, landKeys := x.landKeys ++ key.toList })
        return cOk
      else return cAuthFailed

/-- The targets of a landing group: a group of another yard has none (R370). -/
def landTargets (y g : Nat) : M d0 (List Nat) := do
  match (← dev).group g with
  | none => return [g]
  | some e =>
    if le e 2 1 ≠ y then
      bump R.FAB_GROUP_DISCARD 1
      return []
    return (List.range (le e 3 1)).map (fun i => le e (0x80 + 2 * i) 2)

/-- The first code that is not OK. -/
def worse (a b : Nat) : Nat := if a = 0 then b else a

/-- Bits of an element of the wire format. -/
def wireBits (f : Option Fmt) : Nat := (f.map Fmt.bits).getD 8

/-- Bytes whose elements stand `s` bits above a byte boundary, cut at the bytes of the target, the first of them `at_`, with the
parts of bytes in `edge` at hand: the whole bytes, where they start, and the parts that still lack their other bits (R63,
R233). -/
def cutBits (s at_ : Nat) (edge : List (Nat × Nat × Bool)) (bytes : List Byte) : Nat × List Byte × List (Nat × Nat × Bool) :=
  if s = 0 then (at_, bytes, edge)
  else
    let n := bytes.length
    let v := 2 ^ s * leNat bytes
    let lo := edge.find? (fun e => e.1 == at_ && !e.2.2)
    let hi := edge.find? (fun e => e.1 == at_ + n && e.2.2)
    let whole := leBytes (n + 1) (v + (lo.map (fun e => e.2.1)).getD 0 + 2 ^ (8 * n + s) * (hi.map (fun e => e.2.1)).getD 0)
    let body := (if lo.isSome then whole else whole.drop 1).take (n - 1 + b2n lo.isSome + b2n hi.isSome)
    (if lo.isSome then at_ else at_ + 1, body,
      edge.filter (fun e => some e != lo && some e != hi) ++
        (if lo.isSome then [] else [(at_, v / 2 ^ s % 2 ^ (8 - s), true)]) ++
        (if hi.isSome then [] else [(at_ + n, v / 2 ^ (8 * n), false)]))

/-- Write bytes at byte `off` of a landing buffer's elements, or of its scale bytes, at each target `ts`: OK, or the code that
fails the step. No LAND packet carries more than 4,096 bytes (R218). -/
def landPut (y : Nat) (z : LapCtx) (ts : List Nat) (scale : Bool) (off : Nat) (bytes : List Byte) (key : Option (Nat × Nat × Nat)) : M d0 Nat := do
  let ps := pieces bytes
  let rs ← gather ts (fun a => do
    match ((← dev).yard y).land a z.k.landBuf with
    | none => landRefused y z.st.comm; return cOk
    | some b =>
      if (z.fmt.map Fmt.isMx).getD false && b.scaleOff == 2 ^ 64 - 1 then
        landRefused y z.st.comm
        return cOk
      let qs ← gather (List.zip (List.range ps.length) ps) (fun p =>
        landAt y z.st.comm a ((if scale then b.scaleOff else 0) + off + 4096 * p.1) p.2 key)
      return qs.foldl worse cOk)
  return rs.foldl worse cOk

/-- Write bytes of a GATHER chunk to the landing group; `e` is the chunk's first element in the step. A byte that holds elements
of two packets is written with the second of them. -/
def landWrite (y t : Nat) (z : LapCtx) (e off : Nat) (scale : Bool) (bytes : List Byte) (key : Option (Nat × Nat × Nat)) : M d0 Nat := do
  if z.k.landGroup = 0xFFFF ∨ bytes.isEmpty then return cOk
  let ix := z.st.baseIx z.a.env + e
  let ts ← landTargets y z.k.landGroup
  if scale then landPut y z ts true (ix / 32 + off) bytes key
  else
    let start := wireBits z.fmt * ix
    let cut := cutBits (start % 8) (start / 8 + off) ((((← dev).lapCtx y t).map (fun w => w.L.edge)).getD []) bytes
    modActive y t (fun a => { a with lap := a.lap.map (fun L => { L with edge := cut.2.2 }) })
    landPut y z ts false cut.1 cut.2.1 key

/-- The bytes that hold elements outside what the lap writes are written at its end; the bits of those elements are free values,
since no landing packet carries part of a byte. DESIGN CHOICE, log 44. -/
def landEdges (y t : Nat) (z : LapCtx) : M d0 Unit := do
  let s := wireBits z.fmt * z.st.baseIx z.a.env % 8
  modActive y t (fun a => { a with lap := a.lap.map (fun L => { L with edge := [] }) })
  let ts ← landTargets y z.k.landGroup
  each z.L.edge (fun e => do
    let v ← fresh
    let _ ← landPut y z ts false e.1 (leBytes 1 (if e.2.2 then 2 ^ s * e.2.1 + v % 2 ^ s else e.2.1 + 2 ^ s * (v % 2 ^ (8 - s)))) none)

/-! ### Placing a chunk (R138, R140, R208) -/

/-- The pages of host memory that `n` bytes of the OUT stream from byte `off` of a chunk's elements or scale bytes on meet;
`e` is the chunk's first element in the step. -/
def Dev.outPages (d : Dev) (y : Nat) (z : LapCtx) (e off n : Nat) (scale : Bool) : List (Nat × Nat) :=
  if n = 0 ∨ !z.st.isLocal 3 then []
  else match d.streamAt y z.p z.st z.a.env 3 with
    | none => []
    | some (q, sq) =>
      match if scale then sq.add (scaleBytes z.fmt e + off) else q.add (elemBytes z.fmt e + off) with
      | .mem _ _ => []
      | .host p va => (List.range ((va + n - 1) / 4096 - va / 4096 + 1)).map (fun i => (p, va / 4096 + i))

/-- Stall a lap at the first of the pages that its writes hold no translation of, which is requested (R140, R340, R343): true when
there is one. -/
def lapStalls (y t : Nat) (z : LapCtx) (ps : List (Nat × Nat)) : M d0 Bool := do
  let d ← dev
  match ps.find? (fun q => !z.L.pages.contains q || d.invalidating y q.1 (4096 * q.2) 1) with
  | none => return false
  | some q =>
    modActive y t (fun a => { a with lap := a.lap.map (fun L => { L with stall := some q }) })
    if d.canMaster y then emit (.atsRequest (y + 1) q.1 q.2) else pure ()
    return true

/-- Cut bytes at `off` of an area into those of the units that `keep` admits. -/
def splitUnits (ub : Nat) (keep : Nat → Bool) (fuel off : Nat) (bytes : List Byte) : List (Nat × List Byte) :=
  match fuel with
  | 0 => []
  | f + 1 =>
    if bytes.isEmpty then []
    else
      let n := ub * (off / ub + 1) - off
      let rest := splitUnits ub keep f (off + n) (bytes.drop n)
      if keep (off / ub) then (off, bytes.take n) :: rest else rest

/-- Write bytes of a lap to its OUT range: those of lap 2 are noted for the verdict, and all go beneath any veil that lap 2 of a
failed run of the op has left (R16). -/
def lapWrite (y c : Nat) (second : Bool) (q : Place) (bytes : List Byte) : M d0 Bool := do
  match q with
  | .mem t a =>
    if second then noteWrite y t a bytes.length c else pure ()
    let ok ← putMem true y t a a (a + bytes.length) bytes
    spoilBittern y t a bytes.length
    return ok
  | .host _ _ => writePlace y q bytes

/-- Write element or scale bytes at `off` of chunk `c` of run index `r` to the OUT range and, on lap 2, to the landing
group: OK, or the code that fails the step. `key` names the received packet they come from. -/
def placeBytes (y t : Nat) (z : LapCtx) (r c off : Nat) (scale : Bool) (bytes : List Byte) (key : Option (Nat × Nat × Nat)) : M d0 Nat := do
  let d ← dev
  let e := z.elem0 r c
  let ub := if scale then scaleBytes z.fmt 512 else unitBytes z.fmt
  let parts :=
    if z.L.gather && !z.L.skip.isEmpty then
      splitUnits ub (fun u => !z.L.skip.any (fun s => inRange (e / 512 + u) s.1 s.2)) (bytes.length + 1) off bytes
    else [(off, bytes)]
  let rs ← gather parts (fun w => do
    let local_ ←
      if z.st.isLocal 3 then
        match d.streamAt y z.p z.st z.a.env 3 with
        | none => pure cLocalProtection
        | some (q, sq) =>
          let at_ := if scale then sq.add (scaleBytes z.fmt e + w.1) else q.add (elemBytes z.fmt e + w.1)
          if ← lapWrite y z.st.comm z.L.gather at_ w.2 then pure cOk
          else pure (if at_.inHost then cHostLost else cMemUncorrectable)
      else pure cOk
    if local_ ≠ 0 ∨ !z.L.gather then return local_
    landWrite y t z e w.1 scale w.2 key)
  return rs.foldl worse cOk

/-- Write a whole chunk, in pieces of 4,096 bytes; a code that is not OK fails the step. DEDUCED, log 43. -/
def placeChunk (y t : Nat) (z : LapCtx) (r c : Nat) (elems scales : List Byte) : M d0 Unit := do
  let put (scale : Bool) (bs : List Byte) : M d0 Nat := do
    let ps := pieces bs
    let rs ← gather (List.zip (List.range ps.length) ps) (fun e => placeBytes y t z r c (4096 * e.1) scale e.2 none)
    return rs.foldl worse cOk
  let a ← put false elems
  let b ← put true scales
  let code := worse a b
  if code ≠ 0 then localFail y t code else pure ()

/-! ### Lap 1: chunks through the program (R138, R200, R201, R207) -/

/-- Bytes at least `n` long: what an ST with a condition left unwritten is unspecified. DESIGN CHOICE, log 44. -/
def padFree (n : Nat) (bs : List Byte) : M d0 (List Byte) := do
  if n ≤ bs.length then return bs
  return bs ++ leBytes (n - bs.length) (← fresh)

/-- A REDUCE chunk has its bytes: of the whole chunk, of its computed blocks (WIRE 1) or of its computed units (WIRE 2).
It goes to the successor, or to OUT at the owner. -/
def chunkOut (y t r c : Nat) (elems scales : List Byte) : M d0 Unit := do
  match (← dev).lapCtx y t with
  | none => return
  | some z =>
    let f := z.fmt
    let u := z.units r c
    let m := z.L.mark
    chunkDone y t
    if z.sparse then
      let es ← padFree (countMarks m * elemBytes f 32) elems
      let sc ← padFree (countMarks m * scaleBytes f 32) scales
      if r + 2 ≤ z.n then
        let o := outForm z.st f m es sc
        sendChunk y z r c o.1 o.2.1 o.2.2
      else placeChunk y t z r c (expand (elemBytes f 32) m es) (expand (scaleBytes f 32) m sc)
    else
      let (es, sc) ←
        if z.st.wireForm = 2 then do
          let es ← padFree (countMarks m * unitBytes f) elems
          let sc ← padFree (countMarks m * scaleBytes f 512) scales
          pure (weave (unitBytes f) m 0 0 es z.L.baseE, weave (scaleBytes f 512) m 0 0 sc z.L.baseS)
        else do
          let es ← padFree (elemBytes f (512 * u)) elems
          let sc ← padFree (scaleBytes f (512 * u)) scales
          pure (es, sc)
      if r + 2 ≤ z.n then sendChunk y z r c [] es sc else placeChunk y t z r c es sc

/-- Begin chunk `c` of run index `r`, with the chunk received, or with +0 in sub-step 0. -/
def beginChunk (y t : Nat) (z : LapCtx) (r c : Nat) (map elems scales : List Byte) : M d0 Unit := do
  let d ← dev
  match z.p.prog z.st with
  | none => chunkOut y t r c elems scales
  | some g =>
    let f := z.fmt
    let u := z.units r c
    let e := z.elem0 r c
    let first := r == 0
    let elems := if first && !z.sparse then zeros (elemBytes f (512 * u)) else elems
    let scales := if first && !z.sparse then zeros (scaleBytes f (512 * u)) else scales
    let base : RunSpec :=
      { prog := g, beats := 0, period := 1, base := z.st.baseIx z.a.env, pos := e, elems := [], key := d.keyOf y z.p z.st,
        weight := z.p.weightOf z.st, scalars := [], ins := [], dst := .chunk, chunk := some { r := r, c := c } }
    let ks := List.range g.inFmts.length
    match z.st.wireForm with
    | 1 =>
      let inMarks := if first then List.replicate (16 * u) false else marksOf map (16 * u)
      let own := (List.range (16 * u)).map (fun b =>
        let i := e / 32 + b
        bit ((z.L.sel.getD (i / 8) 0).toNat) (i % 8))
      let m := List.zipWith (fun a b => a || b) inMarks own
      modLap y t (fun L => { L with mark := m, baseE := [], baseS := [] })
      let ix := markIx m 0
      if ix.isEmpty then chunkOut y t r c [] []
      else
        let wide := expand (elemBytes f 32) inMarks elems
        let wideS := expand (scaleBytes f 32) inMarks scales
        let ins := ks.filterMap (fun k =>
          if (z.st.ref k).src = 3 then some (Src.given (pickGroups (elemBytes f 32) m 0 wide) (pickGroups (scaleBytes f 32) m 0 wideS))
          else (d.refPlace y z.p z.st z.a.env k).map (fun q =>
            Src.picked (q.add (64 + 64 * ceilDiv z.st.count 16384)) (ix.map (fun b => own.getD b false))))
        modActive y t (fun a => { a with runs := [{ base with
          prog := { g with lanes := 32 }, beats := ix.length, elems := ix.map (fun b => e + 32 * b), ins := ins }] })
    | 2 =>
      let m := (List.range u).map (fun i => !z.L.skip.any (fun s => inRange (e / 512 + i) s.1 s.2))
      modLap y t (fun L => { L with mark := m, baseE := elems, baseS := scales })
      let ix := markIx m 0
      if ix.isEmpty then chunkOut y t r c [] []
      else
        let steps := 512 / max 1 g.lanes
        let ins := ks.filterMap (fun k =>
          if (z.st.ref k).src = 3 then
            some (Src.given (pickGroups (unitBytes f) m 0 elems) (pickGroups (scaleBytes f 512) m 0 scales))
          else (d.streamAt y z.p z.st z.a.env k).map (fun q => Src.at q.1 q.2 false))
        modActive y t (fun a => { a with runs := [{ base with
          beats := ix.length * steps,
          elems := ix.flatMap (fun i => (List.range steps).map (fun j => e + 512 * i + g.lanes * j)), ins := ins }] })
    | _ =>
      modLap y t (fun L => { L with mark := [], baseE := [], baseS := [] })
      let beats := 512 * u / max 1 g.lanes
      let ins := ks.filterMap (fun k =>
        let fk := g.inFmts[k]?
        if (z.st.ref k).src = 3 then some (Src.given elems scales)
        else (d.streamAt y z.p z.st z.a.env k).map (fun q =>
          Src.at (q.1.add (elemBytes fk e)) (q.2.add (scaleBytes fk e)) false))
      modActive y t (fun a => { a with runs := [{ base with
        beats := beats, period := if z.st.period = 0 then beats else z.st.period, ins := ins }] })
    pumpThread y t

/-! ### Receiving (R132, R140, R145, R146, R202, R212) -/

/-- A received GATHER chunk is whole: its CRC is compared, and a sparse one is rebuilt and written (R203, R204). -/
def gatherWhole (y t : Nat) (z : LapCtx) (r c crc : Nat) (map elems scales : List Byte) : M d0 Unit := do
  if crc32c (map ++ elems ++ scales) ≠ crc then
    modComm y z.st.comm (fun x => { x with check := false, code := cCollCheck })
  else pure ()
  chunkDone y t
  if z.sparse then
    let m := marksOf map (16 * z.units r c)
    placeChunk y t z r c (expand (elemBytes z.fmt 32) m elems) (expand (scaleBytes z.fmt 32) m scales)
  else pure ()

/-- Take the next packet a sub-step needs out of its slot; the slot is free once its writes and its forwarding are done
(R140). DEDUCED, log 45. -/
def absorbOne (y t : Nat) : M d0 Bool := do
  let d ← dev
  match d.lapCtx y t with
  | none => return false
  | some z =>
    let c := z.st.comm
    if z.L.stall.isSome then return false
    let wanted (q : LapPkt) : Bool :=
      q.h.gather == z.L.gather && q.h.attempt == d.attempt y c && q.inSlot &&
        (match z.L.rx[q.h.substep]? with
         | none => false
         | some w => !w.whole && q.h.chunk == w.c && q.h.pkt == w.p && q.h.seg == z.seg (q.h.substep + 1))
    match z.x.slots.find? wanted with
    | none => return false
    | some q =>
      match z.L.rx[q.h.substep]? with
      | none => return false
      | some w =>
        let r := q.h.substep + 1
        let u := z.units r w.c
        let none_ := z.sparse && w.p == 0 && q.h.zero && q.h.last
        let (nm, ne, ns) := chunkLens z.fmt z.sparse u (if none_ then zeros (2 * u) else w.map)
        let mp := if none_ then 1 else ceilDiv nm 4096
        let ep := ceilDiv ne 4096
        let sp := ceilDiv ns 4096
        let area := if q.h.pkt < mp then 0 else if q.h.pkt < mp + ep then 1 else 2
        let off := 4096 * (q.h.pkt - (if area = 0 then 0 else if area = 1 then mp else mp + ep))
        let n := if none_ then nm else min 4096 ((if area = 0 then nm else if area = 1 then ne else ns) - off)
        match q.content n with
        | none =>
          originateAbort y c cCollAbortPeer cCollCheck
          return false
        | some bs =>
          let map := if area = 0 then w.map ++ bs else w.map
          let (_, ne', ns') := chunkLens z.fmt z.sparse u map
          let total := mp + (if area = 0 && map.length == nm then ceilDiv ne' 4096 + ceilDiv ns' 4096 else ep + sp)
          let mapDone := area ≠ 0 ∨ map.length = nm
          let isLast := q.h.pkt + 1 = total ∧ mapDone
          if n = 0 ∨ q.h.scale ≠ (area == 2) ∨ q.h.last ≠ decide isLast then
            originateAbort y c cCollAbortPeer cCollCheck
            return false
          let ps := if !z.L.gather then []
            else if !z.sparse then d.outPages y z (z.elem0 r w.c) off bs.length (area == 2)
            else if q.h.last then
              d.outPages y z (z.elem0 r w.c) 0 (u * unitBytes z.fmt) false ++ d.outPages y z (z.elem0 r w.c) 0 (u * scaleBytes z.fmt 512) true
            else []
          if ← lapStalls y t z ps then return false
          let elems := if area = 1 then w.elems ++ bs else w.elems
          let scales := if area = 2 then w.scales ++ bs else w.scales
          let w' : RxPos :=
            if q.h.last then
              if z.L.gather then { c := w.c + 1, p := 0, whole := false, map := [], elems := [], scales := [] }
              else { w with whole := true, map := map, elems := elems, scales := scales }
            else { w with p := w.p + 1, map := map, elems := elems, scales := scales }
          modLap y t (fun L => { L with rx := L.rx.set q.h.substep w' })
          let onward := z.L.gather && decide (r + 2 ≤ z.n)
          modComm y c (fun x => { x with
            slots := x.slots.erase q,
            txq := if onward then x.txq ++ [{ q with h := { q.h with src := d.addrOf y, substep := r } }] else x.txq })
          let key := lapKey { q.h with substep := r }
          let code ← if z.L.gather && !z.sparse then placeBytes y t z r w.c off (area == 2) bs (some key) else pure 0
          let waits := (((← dev).comm y c).map (fun x => x.heldKeys.contains key)).getD false
          if waits then pure () else returnCredit y c 1
          if z.L.gather then
            if code ≠ 0 then localFail y t code else pure ()
            if q.h.last && ((← dev).lapCtx y t).isSome then gatherWhole y t z r w.c q.h.crc map elems scales else pure ()
          else pure ()
          return true

/-! ### Sending and starting -/

/-- Send the next packet that credit allows: what holds a slot first; an owner's own lap-2 packet leaves the last credit
for forwarding (R133, R141: the pipelining is free). -/
def sendOne (y t : Nat) : M d0 Bool := do
  match (← dev).lapCtx y t with
  | none => return false
  | some z =>
    let c := z.st.comm
    if z.x.credits = 0 then return false
    let next := match z.x.txq.find? (fun q => q.inSlot) with
      | some q => some q
      | none => if z.L.gather && decide (2 ≤ z.k.slots) && decide (z.x.credits < 2) then none else z.x.txq.head?
    match next with
    | none => return false
    | some q =>
      let code ← sendRing y z.k false true (lapBytes q.h) q.data
      if code ≠ 0 then
        localFail y t code
        return false
      modComm y c (fun x => { x with txq := x.txq.erase q, credits := x.credits - 1 })
      let waits := (((← dev).comm y c).map (fun x => x.heldKeys.contains q.key)).getD false
      if q.inSlot && !waits then returnCredit y c 1 else pure ()
      return true

/-- Start the next chunk: one run of the step is under way at a time. DESIGN CHOICE, log 15. -/
def startChunk (y t : Nat) : M d0 Bool := do
  match (← dev).lapCtx y t with
  | none => return false
  | some z =>
    if z.a.live || !z.a.runs.isEmpty then return false
    if z.L.gather then
      if !z.L.ownDone || z.chunks 0 ≤ z.L.own || !z.x.txq.isEmpty || z.L.stall.isSome then return false
      let c := z.L.own
      let f := z.fmt
      let u := z.units 0 c
      let off := z.p.perChunk z.st * c
      let es := slice z.L.ownElems (off * unitBytes f) (u * unitBytes f)
      let sc := slice z.L.ownScales (off * scaleBytes f 512) (u * scaleBytes f 512)
      let d ← dev
      if ← lapStalls y t z (d.outPages y z (z.elem0 0 c) 0 es.length false ++ d.outPages y z (z.elem0 0 c) 0 sc.length true) then return false
      modLap y t (fun L => { L with own := c + 1 })
      chunkDone y t
      if 2 ≤ z.n then
        if z.sparse then
          let m := (List.range (16 * u)).map (fun b =>
            !(allZero (grp es (elemBytes f 32) b) && allZero (grp sc (scaleBytes f 32) b)))
          let o := outForm z.st f m (pickGroups (elemBytes f 32) m 0 es) (pickGroups (scaleBytes f 32) m 0 sc)
          sendChunk y z 0 c o.1 o.2.1 o.2.2
        else sendChunk y z 0 c [] es sc
      else pure ()
      placeChunk y t z 0 c es sc
      return true
    else
      match (List.range z.L.rx.length).find? (fun i => ((z.L.rx[i]?).map (fun w => w.whole)).getD false) with
      | some i =>
        match z.L.rx[i]? with
        | none => return false
        | some w =>
          modLap y t (fun L => { L with rx := L.rx.set i { c := w.c + 1, p := 0, whole := false, map := [], elems := [], scales := [] } })
          beginChunk y t z (i + 1) w.c w.map w.elems w.scales
          return true
      | none =>
        if z.chunks 0 ≤ z.L.own || !z.x.txq.isEmpty then return false
        modLap y t (fun L => { L with own := z.L.own + 1 })
        beginChunk y t z 0 z.L.own [] [] []
        return true

/-- Whether every GATHER_LAP of the communicator's current op has begun (R158). -/
def Dev.gathersBegun (d : Dev) (y c : Nat) : Bool :=
  match (d.yard y).plan, d.comm y c with
  | some p, some x => (((p.ops c)[x.opseq]?).getD []).all (fun i => x.begun.contains i || ((p.steps[i]?).map (fun st => st.type)).getD 0 != tGather)
  | _, _ => false

/-- The lap is over when every chunk is finished, every packet sent and every landing write answered. With the op's last
GATHER_LAP all of its lap-2 writes are placed, and the PROVISIONAL notice leaves, once (R158). -/
def lapEnd (y t : Nat) : M d0 Unit := do
  match (← dev).lapCtx y t with
  | none => return
  | some z =>
    if z.L.left ≠ 0 ∨ !z.x.txq.isEmpty ∨ z.a.live ∨ !z.a.runs.isEmpty ∨ z.x.landOut ≠ 0 ∨ !z.x.landq.isEmpty then return
    if !z.L.edge.isEmpty then
      landEdges y t z
      match (← dev).comm y z.st.comm with
      | none => return
      | some x => if x.landOut ≠ 0 ∨ !x.landq.isEmpty then return
    let c := z.st.comm
    if z.L.gather && z.x.early && !z.x.refused && z.k.landGroup != 0xFFFF && (← dev).gathersBegun y c then
      wr ((R.TRN_COMM_STATE y c).sub 3 1) 1
      modComm y c (fun x => { x with early := false })
      let h := (← dev).ctlHdr y c
      notice y c 1 { h with check := z.x.check, code := z.x.code }
    else pure ()
    modActive y t (fun a => { a with lap := none })
    setCode y t 0

/-- Do all that can be done for the lap of thread `t`. -/
def lapKick (y t : Nat) : M d0 Unit := do
  let d ← dev
  if !d.live y then return
  match d.lapCtx y t with
  | none => return
  | some z =>
    upTo (z.x.slots.length + z.x.txq.length + 1100 * (z.L.left + 1)) (do
      if ← absorbOne y t then return true
      if ← startChunk y t then return true
      sendOne y t)
    lapEnd y t

/-- A run of a lap step has ended: a chunk of lap 1, or the owner's converted segment. -/
def lapRunDone (y t : Nat) (r : RunSpec) (elems scales : List Byte) : M d0 Unit := do
  match r.chunk with
  | some k => chunkOut y t k.r k.c elems scales
  | none => modLap y t (fun L => { L with ownDone := true, ownElems := elems, ownScales := scales })
  lapKick y t

/-! ### Ring steps start (R131, R132, R151, R153, R257) -/

/-- Whether a lap packet's place exists in a lap of step `st` at position `pos` (R132). -/
def Plan.lapFits (p : Plan) (st : Step) (pos : Nat) (h : LapHdr) : Bool :=
  let N := p.ringN st
  let j := segOf h.gather N pos (h.substep + 1)
  let f := p.wire st
  let u := p.chunkUnits st j h.chunk
  let most := ceilDiv (if st.wireForm = 1 then 2 * u else 0) 4096 + ceilDiv (elemBytes f (512 * u)) 4096 + ceilDiv (scaleBytes f (512 * u)) 4096
  (st.type == (if h.gather then tGather else tReduce)) && decide (h.substep + 1 < N) && h.seg == j &&
    decide (h.chunk < p.chunks st j) && decide (h.pkt < most)

/-- Whether some lap of the communicator's current op has a place for a lap packet. -/
def Dev.lapShape (d : Dev) (y c : Nat) (h : LapHdr) : Bool :=
  match (d.yard y).plan, d.decl y c, d.comm y c with
  | some p, some k, some x =>
    (((p.ops c)[x.opseq]?).getD []).any (fun i => ((p.steps[i]?).map (fun st => p.lapFits st k.pos h)).getD false)
  | _, _, _ => false

/-- Whether the lap in progress still needs a lap packet. -/
def LapCtx.needs (z : LapCtx) (h : LapHdr) : Bool :=
  z.L.gather == h.gather && z.p.lapFits z.st z.k.pos h &&
    (match z.L.rx[h.substep]? with
     | none => false
     | some w => decide (w.c < h.chunk) || (w.c == h.chunk && !w.whole && decide (w.p ≤ h.pkt)))

/-- Packets held in slots that are the same packet of their lap as `h`. -/
def Comm.copies (x : Comm) (h : LapHdr) : Nat := x.slots.countP (fun q => q.h.gather == h.gather && lapKey q.h == lapKey h)

/-- How many laps of the current op are still to take such a packet: those in progress that need it, and those that have not
begun their work, being later steps or active ones that wait for host memory or stand STOPPED (R132). -/
def Dev.lapRoom (d : Dev) (y c : Nat) (h : LapHdr) : Nat :=
  match (d.yard y).plan, d.decl y c, d.comm y c with
  | some p, some k, some x =>
    let waits (i : Nat) : Bool := (d.ringThreads y c).any (fun t =>
      match d.active y t with
      | none => false
      | some a => a.step == i && a.lap.isNone && a.code.isNone)
    (d.ringThreads y c).countP (fun t => ((d.lapCtx y t).map (fun z => z.needs h)).getD false) +
      (((p.ops c)[x.opseq]?).getD []).countP (fun i =>
        (!x.begun.contains i || waits i) && ((p.steps[i]?).map (fun st => p.lapFits st k.pos h)).getD false)
  | _, _, _ => 0

/-- Start a ring step, or take one up again that waits for host memory: what `beginStep` gives, with the communicator's
declaration, when there is work to do. -/
def beginRing (y t type : Nat) : M d0 (Option (Plan × Step × List Nat × Bool × CommDecl)) := do
  match ← beginStep y t type with
  | none => return none
  | some (p, st, env, fresh) =>
    let d ← dev
    let c := st.comm
    match p.decl st, d.comm y c with
    | some k, some x =>
      if fresh then
        match x.verdict with
        | some v =>
          if 2 ≤ k.n then
            stepDone y t v.1 (if v.2.2.2 then some v.2.2.1 else none)
            return none
          else pure ()
        | none => pure ()
        let ix := ((d.active y t).map (fun a => a.step)).getD 0
        modComm y c (fun x => { x with begun := ix :: x.begun, early := x.early || (type == tGather && bit st.flags 1) })
        if d.commSt y c = 0 then setCommSt y c 1 else pure ()
        let s := (← dev).commSt y c
        if s = 4 ∨ s = 5 then return none
        let now ← dev
        let bad := x.slots.filter (fun q => q.h.attempt == d.attempt y c && (!d.lapShape y c q.h || decide (now.lapRoom y c q.h < x.copies q.h)))
        if !bad.isEmpty then
          modComm y c (fun x => { x with slots := x.slots.filter (fun q => !bad.contains q) })
          each bad (fun _ => ringDiscard y)
          returnCredit y c bad.length
          originateAbort y c cCollAbortPeer cCollCheck
          return none
        if 2 ≤ k.n ∧ !(← dev).hopsUp y k then
          localFail y t cTargetUnavailable
          return none
        return some (p, st, env, fresh, k)
      else if d.commSt y c = 1 then return some (p, st, env, fresh, k)
      else return none
    | _, _ => return none

/-- The lap work of a step that starts. -/
def Plan.lapStart (p : Plan) (st : Step) (gather : Bool) (sel : List Byte) (skip : List (Nat × Nat)) : LapSt :=
  let N := p.ringN st
  { gather := gather, own := 0, ownDone := false, ownElems := [], ownScales := [],
    rx := List.replicate (N - 1) { c := 0, p := 0, whole := false, map := [], elems := [], scales := [] },
    left := (List.range N).foldl (fun n j => n + p.chunks st j) 0, sel := sel, skip := skip, mark := [], baseE := [], baseS := [] }

/-- Begin the lap work of a step. -/
def lapBegin (y t : Nat) (L : LapSt) : M d0 Unit := do
  modActive y t (fun a => { a with lap := some L })
  lapKick y t

/-- REDUCE_LAP (R138). Its issue reads the header and the map of a selected set (R212), or the bitmaps of a demand table
(R206); when these wait for host memory, the command tries again. -/
def execReduceLap (y t : Nat) (host : HostSide) (s : State) : Host.Outcome State Fault Refusal :=
  perform s do
    match ← beginRing y t tReduce with
    | none => return
    | some (p, st, env, _, _) =>
      let d ← dev
      match st.wireForm with
      | 1 =>
        match (List.range 3).find? (fun k => st.selIn k && (st.ref k).buf != 0xFFFF) with
        | none => localFail y t cLocalProtection
        | some k =>
          match d.refPlace y p st env k with
          | none => localFail y t cLocalProtection
          | some q =>
            match ← readPlace y (y + t) q (64 + 64 * ceilDiv st.count 16384) (.ctx 48 t) host with
            | .wait => return
            | .err code => localFail y t code
            | .ok bs =>
              if le bs 0 8 ≠ st.count ∨ le bs 0x30 8 ≠ d.fld (R.PLN_STEP_COUNT y) then localFail y t cLocalProtection
              else lapBegin y t (p.lapStart st false (bs.drop 64) [])
      | 2 =>
        let o := st.sp 0x6C 4
        let es := p.demandEnts o
        match d.demandPlace y p o env with
        | none => localFail y t cLocalProtection
        | some q =>
          match ← readPieces y (y + t) q (es.map (fun e => if e.absent then (0, 0) else (e.off, e.len))) (.ctx 48 t) host with
          | (.wait, _) => return
          | (.err code, _) => localFail y t code
          | (.ok _, maps) =>
            let skip := (List.zip es maps).filterMap (fun e => if e.1.absent || allZero e.2 then some (e.1.first, e.1.units) else none)
            lapBegin y t (p.lapStart st false [] skip)
      | _ => lapBegin y t (p.lapStart st false [] [])

/-- GATHER_LAP (R140). The owner's segment goes through the program in one run, or is read when there is none. -/
def execGatherLap (y t : Nat) (host : HostSide) (s : State) : Host.Outcome State Fault Refusal :=
  perform s do
    match ← beginRing y t tGather with
    | none => return
    | some (p, st, env, _, k) =>
      let d ← dev
      let skip := if st.wireForm = 2 then (p.demandEnts (st.sp 0x6C 4)).filterMap (fun e => if e.keep then none else some (e.first, e.units)) else []
      let L := p.lapStart st true [] skip
      let n := 512 * p.stepSegUnits st k.pos
      let first := p.stepSegFirst st k.pos
      let e := if p.ownIn st then 0 else first
      match d.streamAt y p st env 0 with
      | none => localFail y t cLocalProtection
      | some (q, sq) =>
        match p.prog st with
        | some g =>
          if n = 0 then lapBegin y t { L with ownDone := true }
          else
            let f := g.inFmts[0]?
            let r := d.wholeRun y p st env g first n [] [.at (q.add (elemBytes f e)) (sq.add (scaleBytes f e)) false] .chunk
            modActive y t (fun a => { a with lap := some L, runs := [r] })
            pumpThread y t
            lapKick y t
        | none =>
          match ← readPlace y (y + t) (q.add e) n (.ctx 48 t) host with
          | .wait => return
          | .err code => localFail y t code
          | .ok bs => lapBegin y t { L with ownDone := true, ownElems := bs }

/-- SEAL (R113, R147): the coordinator sends the SEAL; another member passes on the one it holds, or waits for it. -/
def execSeal (y t : Nat) (s : State) : Host.Outcome State Fault Refusal :=
  perform s do
    match (← dev).issue y t tSeal with
    | none => return
    | some i =>
      let r := (← dev).yard y
      let allOver := (List.range r.thrs.length).all (fun j => j == t || ((r.thrs[j]?).map Thr.over).getD true)
      if bit i.st.flags 0 && !allOver then return
      match ← beginRing y t tSeal with
      | none => return
      | some (_, st, _, _, k) =>
        let c := st.comm
        match (← dev).comm y c with
        | none => return
        | some x =>
          if k.n < 2 then endAlone y t c 0
          else if k.pos = 0 then
            let h := (← dev).ctlHdr y c
            let code ← sendCtl y c 3 { h with check := x.check, code := x.code, origin := k.pos, originValid := x.code != 0, passed := 1 } false
            if code ≠ 0 then localFail y t code else setCommSt y c 2
          else
            match x.held with
            | some h => sealOn y c h
            | none => setCommSt y c 2

/-- UPDATE (R172 to R178): the scalar record is read once; one run covers this member's segment. The scalars of a record that
another agent has written during the iteration are free values (R179). DESIGN CHOICE, log 44. -/
def execUpdate (y t : Nat) (s : State) : Host.Outcome State Fault Refusal :=
  perform s do
    match ← beginRing y t tUpdate with
    | none => return
    | some (p, st, env, starts, k) =>
      let d ← dev
      if !starts then return
      let sc := d.fld (R.PLN_STEP_COUNT y)
      match (p.bufs[st.sp 0x68 2]?).bind (fun b => d.bufPlace y b (32 * (sc % 128))), p.prog st with
      | some q, some g =>
        match ← readPlace y (y + t) q 32 (.ctx 48 t) { xl := .hit, data := [], bad := false } with
        | .wait => return
        | .err code => localFail y t code
        | .ok rec =>
          if le rec 0 8 ≠ sc ∨ !zeroAt rec 0x18 8 then localFail y t cLocalProtection
          else
            let n := 512 * p.stepSegUnits st k.pos
            if n / max 1 g.lanes = 0 then setCode y t 0
            else
              let scalars ←
                if (d.yard y).recHit.contains (st.sp 0x68 2) then
                  gather (List.range 4) (fun _ => do return Fmt.decodeElem .fp32 ((← fresh) % 2 ^ 32))
                else pure ((List.range 4).map (fun i => Fmt.decodeElem .fp32 (le rec (8 + 4 * i) 4)))
              let ins := (List.range g.inFmts.length).filterMap (fun j => (d.streamAt y p st env j).map (fun q =>
                Src.at q.1 q.2 (st.period != 0 && j + 1 == g.inFmts.length)))
              let dst := match g.outFmt, d.streamAt y p st env 3 with
                | some _, some q => Dst.at q.1 q.2
                | _, _ => Dst.none
              queueRuns y t [d.wholeRun y p st env g (p.stepSegFirst st k.pos) n scalars ins dst]
      | _, _ => localFail y t cLocalProtection

/-! ### Lap packets and credits -/

/-- Whether a lap packet is the next of its kind for the lap in progress. -/
def LapCtx.fits (z : LapCtx) (h : LapHdr) : Bool := z.needs h && z.x.copies h == 0

/-- Whether a lap of the op is still to take the packet, which is then held; a packet that repeats one already taken is taken by
none (R132). -/
def Dev.fitsLater (d : Dev) (y c : Nat) (h : LapHdr) : Bool :=
  match d.comm y c with
  | some x => decide (x.copies h < d.lapRoom y c h)
  | none => false

/-- Where the bytes of a lap-2 packet go, when the step's OUT lies in host memory. -/
def Dev.lapHost (d : Dev) (y t : Nat) (h : LapHdr) : Option (Nat × Nat) :=
  match d.lapCtx y t with
  | none => none
  | some z =>
    if !h.gather || !z.st.isLocal 3 then none
    else match d.streamAt y z.p z.st z.a.env 3 with
      | some (.host p va, _) => some (p, va + elemBytes z.fmt (z.elem0 (h.substep + 1) h.chunk) + 4096 * h.pkt)
      | _ => none

/-- A lap holds the translations of more pages, and goes on when it waited for one of them. -/
def lapGrant (y t : Nat) (ps : List (Nat × Nat)) : M d0 Unit := do
  modLap y t (fun L => { L with
    pages := L.pages ++ ps.filter (fun q => !L.pages.contains q)
    stall := L.stall.filter (fun q => !ps.contains q) })
  lapKick y t

/-- A page has been served: the laps that wait at it go on (R343). -/
def wakeLaps (y : Nat) (q : Nat × Nat) : M d0 Unit := do
  each (List.range ((← dev).yard y).thrs.length) (fun t => do
    if (((← dev).lapCtx y t).bind (fun z => z.L.stall)) = some q then lapGrant y t [q] else pure ())

/-- The laps of a yard that wait for a translation try what a translation request has brought (R340, R343, R345). -/
def retryLaps (y : Nat) (xl : Xlat) : M d0 Unit := do
  each (List.range ((← dev).yard y).thrs.length) (fun t => do
    match ((← dev).lapCtx y t).bind (fun z => z.L.stall) with
    | none => pure ()
    | some q =>
      if ((← dev).yard y).faults.any (fun f => f.pasid == q.1 && f.page == q.2) then pure ()
      else match ← hostReach y y q.1 (4096 * q.2) 1 true (.ctx 48 t) { xl := xl, data := [], bad := false } with
        | .ok _ => lapGrant y t [q]
        | .wait => pure ()
        | .err code => localFail y t code)

/-- The translations that the laps of a yard hold and `p` names are dropped (R340). -/
def dropPages (y : Nat) (p : Nat × Nat → Bool) : M d0 Unit := do
  each (List.range ((← dev).yard y).thrs.length) (fun t => modLap y t (fun L => { L with pages := L.pages.filter (fun q => !p q) }))

/-- A lap whose packet is held goes on, unless its lap-2 write waits for a page of host memory (R343). -/
def lapGo (y t : Nat) (h : LapHdr) (host : HostSide) : M d0 Unit := do
  match (← dev).lapHost y t h with
  | none => lapKick y t
  | some q =>
    match ← hostReach y y q.1 q.2 4096 true (.ctx 48 t) host with
    | .ok _ => lapGrant y t ((List.range ((q.2 + 4095) / 4096 - q.2 / 4096 + 1)).map (fun i => (q.1, q.2 / 4096 + i)))
    | .wait => modLap y t (fun L => { L with stall := some (q.1, q.2 / 4096 + host.page) })
    | .err code => localFail y t code

/-- LAP_PACKET (R132, R133, R144): held in a slot, discarded and counted, or the cause of an abort.
DEDUCED, log 45. -/
def execLapPacket (y : Nat) (h : LapHdr) (payload : List Byte) (tagOk : Bool) (s : State) (host : HostSide := HostSide.there) :
    Host.Outcome State Fault Refusal :=
  perform s do
    if !(← yardHears y) then return
    let good := tagOk && (h.wrt.map (fun w => w.tagOk)).getD ((← dev).keyed y)
    let taken ← hopTake y h.wrt tagOk true
    let d ← dev
    match d.commAt y h.ringId with
    | none => if taken then ringDiscard y else pure ()
    | some c =>
      match d.decl y c, d.comm y c with
      | some k, some x =>
        if !good then
          originateAbort y c cCollAbortPeer cAuthFailed
          if h.wrt.isNone then returnCredit y c 1 else pure ()
          return
        if !taken then return
        if !d.hopIs y k false h.wrt then
          ringDiscard y
          return
        if k.slots ≤ x.slotsUsed then
          ringDiscard y
          return
        let cur := d.currentOp y c false h.src h.step h.opseq h.attempt
        let early := d.currentOp y c false h.src h.step h.opseq ((h.attempt + 255) % 256)
        let hold : M s.dev Unit := modComm y c (fun x => { x with slots := x.slots ++ [{ h := h, data := payload, inSlot := true }] })
        if early then hold
        else if !cur then
          ringDiscard y
          returnCredit y c 1
        else
          let t := (d.ringThreads y c).find? (fun t => ((d.lapCtx y t).map (fun z => z.fits h)).getD false)
          match t with
          | some t =>
            hold
            lapGo y t h host
          | none =>
            if d.fitsLater y c h then hold
            else
              originateAbort y c cCollAbortPeer cCollCheck
              ringDiscard y
              returnCredit y c 1
      | _, _ => if taken then ringDiscard y else pure ()

/-- LAP_CREDIT_RETURN (R133): credits come back, never more than SLOTS. -/
def execLapCreditReturn (y c n : Nat) (s : State) : Host.Outcome State Fault Refusal :=
  perform s do
    let d ← dev
    match d.decl y c with
    | none => return
    | some k =>
      modComm y c (fun x => { x with credits := min k.slots (x.credits + n) })
      each (d.ringThreads y c) (lapKick y)

/-- STEP_COMPLETE (R91, R131, R151): a step whose work is over completes with its code. -/
def execStepComplete (y t : Nat) (s : State) : Host.Outcome State Fault Refusal :=
  perform s do
    let d ← dev
    match d.activeStep y t with
    | none => return
    | some (p, st, a) =>
      match a.code with
      | none => return
      | some code =>
        if !d.live y || a.live || !a.runs.isEmpty then return
        if st.isRing && decide (p.ringN st < 2) then endAlone y t st.comm code
        else if code ≠ 0 then localFail y t code
        else stepDone y t 0 a.origin

end Sys2Proof.Machine
end

