-- ==== Sys2Proof/Machine/Fatal.lean ====
section
/-! DEFINITION. Error records and yard-fatal errors (15: R462, R463, R465). -/

namespace Sys2Proof.Machine

variable {d0 : Dev}

/-- Device core 1 writes a record and raises the DEV interrupt (R465). DEDUCED, log 37. -/
def logErr (cls src bay code detail : Nat) : M d0 Unit := do
  let d ← dev
  let i := d.fld R.DEV_ERRLOG_HEAD % 64
  wr (R.DEV_ERRLOG i) (d.now % 2 ^ 64 + 2 ^ 64 * (cls % 256) + 2 ^ 72 * (src % 256) + 2 ^ 80 * (bay % 256) + 2 ^ 88 * (code % 256) +
    2 ^ 96 * (detail % 2 ^ 32))
  bump R.DEV_ERRLOG_HEAD 1
  pfEvent R.DEV_EVENTS R.DEV_IRQ 0 0

/-- Every active step of a yard completes with INTERNAL; a ring step's op is aborted (R151, R463). A frozen yard's steps keep
their codes. -/
def failSteps (y : Nat) : M d0 Unit := together y do
  each (List.range ((← dev).yard y).thrs.length) (fun t => do
    if ((← dev).active y t).isSome then
      freeThread y t
      modActive y t (fun a => { a with runs := [], live := false, stream := none })
      if (← dev).frozen y then modActive y t (fun a => { a with code := some (a.code.getD cInternal) })
      else localFail y t cInternal
    else pure ())

/-- A yard-fatal error (R463). -/
def yardFatal (y src detail : Nat) : M d0 Unit := do
  let d ← dev
  if !d.isYard y ∨ (d.yard y).fatal then return
  failSteps y
  modYard y (fun r => { r with fatal := true })
  each (d.baysOf y) (fun b => if d.fld ((R.DEV_CORE_STATE b).sub 0 2) = 3 then pure () else setCore b 0)
  logErr 3 src y cInternal detail

end Sys2Proof.Machine
end

