-- ==== Sys2Proof/Machine/PanUnit.lean ====
section
/-! DEFINITION. The pans at work: operands arrive, beats execute, and the two test registers (03: R59, R81 to R83, R86 to
R90; R159). -/

namespace Sys2Proof.Machine

variable {d0 : Dev}

/-! ### The end of a run -/

/-- What the first `beat` beats of a run have written holds unspecified contents (R83). DESIGN CHOICE, log 44. -/
def spoilRun (y : Nat) (r : RunSpec) (beat : Nat) : M d0 Unit := do
  let d ← dev
  let spoil (q : Place) (n : Nat) : M d0 Unit :=
    match q with
    | .mem t a => if n = 0 then pure () else act (.spoil (d.addr y t a) n)
    | .host _ _ => pure ()
  match r.dst with
  | .at q sq =>
    spoil q (elemBytes r.prog.outFmt (r.outElem beat))
    spoil sq (scaleBytes r.prog.outFmt (r.outElem beat))
  | _ => pure ()

/-- The run in context `(i, x)` has ended with an error: its step takes the code (R83, R86). DESIGN CHOICE, log 44. -/
def runFail (y t i x code : Nat) : M d0 Unit := do
  let c := (← dev).ctx i x
  match c.spec with
  | some r => if code = cMemUncorrectable then spoilRun y r c.beat else pure ()
  | none => pure ()
  freeCtx i x
  modActive y t (fun a => { a with live := false })
  match (← dev).activeStep y t with
  | none => return
  | some (_, st, _) => if st.isRing then localFail y t code else setCode y t code
  pumpRuns y

/-- The run in context `(i, x)` has executed its last beat: RUN to DONE, and the step takes the result, DONE to FREE (R86). -/
def runDone (y t i x : Nat) (r : RunSpec) (elems scales : List Byte) : M d0 Unit := do
  bump (R.PAN_RUNS y) 1
  modCtx i x (fun c => { c with st := .done })
  freeCtx i x
  modActive y t (fun a => { a with live := false })
  match r.dst with
  | .chunk => lapRunDone y t r elems scales
  | _ =>
    match (← dev).active y t with
    | some a => if a.runs.isEmpty then setCode y t 0 else pure ()
    | none => pure ()
  pumpRuns y

/-- Whether a beat of a run writes to its output stream: an ST whose COND holds (R81). DEDUCED, log 14. -/
def RunSpec.writes (r : RunSpec) (beat : Nat) : Bool :=
  r.prog.code.any (fun i => i.opc == 0x02 && i.active (r.beatAt beat))

/-! ### PAN_BEAT and CONTEXT_READY -/

/-- The READY contexts of a pan, in the order that settles its ties. -/
def Pan.readyOnes (p : Pan) : List Nat := p.order.filter (fun x => (p.ctxs.getD x Ctx.empty).st == .ready)

/-- The finish tag of a context. -/
def Pan.tag (p : Pan) (x : Nat) : Nat := (p.ctxs.getD x Ctx.empty).f

/-- The context a pan chooses: the smallest finish tag among the READY ones, ties by the rotating order (R59, R159). -/
def Pan.choose (p : Pan) : Option Nat :=
  match p.readyOnes with
  | [] => none
  | x :: xs => some (xs.foldl (fun b z => if p.tag z < p.tag b then z else b) x)

/-- The rotating order once `x` has been chosen: it changes only when a tie was settled (R19). -/
def Pan.orderAfter (p : Pan) (x : Nat) : List Nat :=
  if p.readyOnes.any (fun z => z != x && p.tag z == p.tag x) then rotate p.order x else p.order

/-- PAN_BEAT (R81). A pan that has failed waits for its spare (R466). The chosen context passes through RUN; with beats left it
is READY again when the next beat's operands are there, and waits for them otherwise (R86). `bad` says that a word of the
chosen context cannot be corrected in the context store, which is a yard-fatal error (R462). A context whose output page is
being invalidated waits for a new translation (R340). -/
def execPanBeat (b k : Nat) (s : State) (bad : Bool := false) : Host.Outcome State Fault Refusal :=
  perform s do
    let d ← dev
    let i := 4 * b + k
    match d.yardOf b, (d.pan i).choose with
    | some y, some x =>
      if !d.live y || !d.panWorks i then return
      if bad then
        yardFatal y 5 (8 * i + x)
        return
      let c := d.ctx i x
      match c.spec with
      | none => return
      | some r =>
        let held := match r.dst with
          | .at (.host q v) _ => r.writes c.beat && d.invalidating y q (v + elemBytes r.prog.outFmt (r.outElem c.beat)) (elemBytes r.prog.outFmt r.prog.lanes)
          | _ => false
        if held then
          modCtx i x (fun c => { c with st := .wait, ops := [], ahead := none })
          return
        let o := beatRun r.prog (r.beatAt c.beat) (r.values c.ops) (r.regsAt c.beat c.regs)
        let f := c.f + 720720 / max 1 r.weight
        modPan i (fun p => { p with v := f, order := p.orderAfter x })
        modCtx i x (fun c => { c with st := .run })
        bump (R.PAN_BEATS y) 1
        bump (R.PAN_LP_BEATS y (i - 4 * y)) 1
        wr (R.PAN_LP_STATE_RUNCTX y (i - 4 * y)) x
        raiseFlags y o.flags
        let ok ← match o.out with
          | some w => writeBeat y r c.beat w
          | none => pure true
        if !ok then
          modCtx i x (fun c => { c with f := f })
          runFail y c.thread i x (match r.dst with
            | .at q _ => if q.inHost then cHostLost else cMemUncorrectable
            | _ => cMemUncorrectable)
        else
          let keep := r.dst == .chunk
          let elems := match o.out with
            | some w => if keep then c.elems ++ w.1 else []
            | none => c.elems
          let scales := match o.out with
            | some w => if keep then c.scales ++ w.2 else []
            | none => c.scales
          modCtx i x (fun c => { c with beat := c.beat + 1, regs := o.regs, elems := elems, scales := scales, f := f })
          if r.beats ≤ c.beat + 1 then runDone y c.thread i x r elems scales
          else modCtx i x (fun c => { c with
            st := if c.ahead.isSome then .ready else .wait, ops := c.ahead.getD [], ahead := none })
    | _, _ => return

/-- CONTEXT_READY (R86): the operands of the next beat are there, and room for its output; or the read fails and the run
ends (R83), or a translation or page is still missing and the context goes on waiting. In a READY context they are those of
the beat after the next, fetched ahead (R83). DEDUCED, log 45. -/
def execContextReady (b k x : Nat) (host : List HostSide) (uc : Option Nat) (s : State) : Host.Outcome State Fault Refusal :=
  perform s do
    let d ← dev
    let i := 4 * b + k
    let c := d.ctx i x
    match d.yardOf b, c.spec with
    | some y, some r =>
      let early := c.st == .ready && c.ahead.isNone && decide (c.beat + 1 < r.beats)
      if !d.live y || !(c.st == .wait || early) then return
      let beat := if early then c.beat + 1 else c.beat
      let (res, ops, rest) ← fetchOps y b (.ctx i x) r beat uc (List.range r.prog.inFmts.length) host
      match res with
      | .wait => return
      | .err code => runFail y c.thread i x code
      | .ok _ =>
        let room ← match r.dst with
          | .at (.host q v) _ =>
            if r.writes beat then
              match rest with
              | [] => pure LocRes.wait
              | h :: _ =>
                let off := elemBytes r.prog.outFmt (r.outElem beat)
                hostSide y b q (v + off) (elemBytes r.prog.outFmt r.prog.lanes) true (.ctx i x) h
            else pure (LocRes.ok [])
          | _ => pure (LocRes.ok [])
        match room with
        | .wait => return
        | .err code => runFail y c.thread i x code
        | .ok _ =>
          let v := (d.pan i).v
          modCtx i x (fun c =>
            if early then { c with ahead := some ops } else { c with st := .ready, ops := ops, f := max c.f v })
    | _, _ => return

/-! ### The tests (R89, R90) -/

/-- PAN_KAT_CMD: the draw test starts on the inputs as they stand. DESIGN CHOICE, log 47. -/
def panKatCmdDo (y value : Nat) : M d0 Unit :=
  do
    let d ← dev
    if !(← cmdReach y) || !bit value 0 || (d.yard y).kat.isSome then return
    let key := d.fld (R.PAN_KAT_KEY y)
    let lo := d.fld (R.PAN_KAT_CTR_LO y)
    let hi := d.fld (R.PAN_KAT_CTR_HI y)
    wr ((R.PAN_KAT_STATUS y).sub 0 1) 0
    modYard y (fun r => { r with kat := some (philox (bits lo 0 32) (bits lo 32 32) (bits hi 0 32) (bits hi 32 32) (bits key 0 32) (bits key 32 32)) })

@[inherit_doc panKatCmdDo] def execPanKatCmd (y value : Nat) (s : State) : Host.Outcome State Fault Refusal :=
  perform s (coreTake y (.panKatCmd y value) none (panKatCmdDo y value))

/-- PAN_CVT_CMD: the conversion test starts on the inputs as they stand. An MX format gives BAD_FMT and 0.
DESIGN CHOICE, log 47. -/
def panCvtCmdDo (y value : Nat) : M d0 Unit :=
  do
    let d ← dev
    if !(← cmdReach y) || !bit value 0 || (d.yard y).cvt.isSome then return
    let res : Nat × Nat :=
      match Fmt.ofCode (d.fld (R.PAN_CVT_CTRL_FMT y)), Rnd.ofCode (d.fld (R.PAN_CVT_CTRL_RND y)) with
      | some f, some r =>
        if f.isMx then (0, 3)
        else
          let v := (Fmt.decodeElem .fp32 (d.fld (R.PAN_CVT_IN y))).exact
          let o := roundTo f r (d.on (R.PAN_CVT_CTRL_SAT y)) (d.fld (R.PAN_CVT_U y)) v
          (f.encodeElem o.1, 1 + 16 * o.2)
      | _, _ => (0, 3)
    wr (R.PAN_CVT_STATUS_DONE y) 0
    modYard y (fun r => { r with cvt := some res })

@[inherit_doc panCvtCmdDo] def execPanCvtCmd (y value : Nat) (s : State) : Host.Outcome State Fault Refusal :=
  perform s (coreTake y (.panCvtCmd y value) none (panCvtCmdDo y value))

/-- PAN_TEST_DONE: the result stands in the registers and DONE is set. -/
def execPanTestDone (y : Nat) (draw : Bool) (s : State) : Host.Outcome State Fault Refusal :=
  perform s do
    let d ← dev
    let r := d.yard y
    if !d.present y then return
    if draw then
      match r.kat with
      | none => return
      | some w =>
        wr (R.PAN_KAT_OUT_LO y) (w.getD 0 0 + 2 ^ 32 * w.getD 1 0)
        wr (R.PAN_KAT_OUT_HI y) (w.getD 2 0 + 2 ^ 32 * w.getD 3 0)
        wr ((R.PAN_KAT_STATUS y).sub 0 1) 1
        modYard y (fun r => { r with kat := none })
    else
      match r.cvt with
      | none => return
      | some w =>
        wr (R.PAN_CVT_OUT y) w.1
        wr (R.PAN_CVT_STATUS y) w.2
        modYard y (fun r => { r with cvt := none })

end Sys2Proof.Machine
end

