-- ==== Sys2Proof/Machine/Layout.lean ====
section
/-! DEFINITION. The layout image (02): its checks, staging and commit. -/

namespace Sys2Proof.Machine

variable {d0 : Dev}

/-! ### Reading an image (R34, R35) -/

/-- The section table entry of section type `t`: OFFSET and LENGTH of the first entry that names it. -/
def sectAt (img : List Byte) (t : Nat) : Option (Nat × Nat) :=
  ((List.range 8).find? (fun i => le img (0x40 + 16 * i) 2 == t)).map (fun i =>
    (le img (0x44 + 16 * i) 4, le img (0x48 + 16 * i) 4))

/-- Bytes of a section. -/
def sectionBytes (img : List Byte) (t : Nat) : List Byte :=
  match sectAt img t with
  | some (o, n) => slice img o n
  | none => []

/-- Stated length of a section (R35, R371). -/
def sectionLen (t : Nat) : Nat :=
  match t with
  | 1 => 64
  | 2 => 192
  | 3 => 16
  | 4 => 16
  | 5 => routeBytes
  | 6 => 64
  | 7 => 64
  | _ => 16

/-- The layout an image describes. S is the largest whole GiB not above 1/12 of the enabled ports' capacity (R31). -/
def Layout.parse (img : List Byte) : Layout :=
  let g := sectionBytes img 1
  let li := sectionBytes img 2
  let fi := sectionBytes img 4
  let mask := le fi 0 2
  let ports := ((List.range 16).filter (fun q => bit mask q)).length
  { n := le g 0 1, enable := le g 2 2, conf := le g 4 2, strict := bit (le img 0x26 2) 0
    addr := (List.range 12).map (fun b => le g (8 + 2 * b) 2)
    links := (List.range 48).map (fun l => { role := le li (4 * l) 1, reversal := bit (le li (4 * l + 1) 1) 0, peer := le li (4 * l + 2) 2 })
    eth := (List.range 4).map (fun p => le (sectionBytes img 3) p 1)
    portMask := mask, granule := le fi 2 1, portCap := le fi 4 2, share := ports * le fi 4 2 / 12
    spare := (List.range 48).map (fun j => le (sectionBytes img 7) j 1)
    mbx := sectionBytes img 6, routes := sectionBytes img 5 }

/-- A refusal of R38: check code, section type, byte offset, detail word. -/
structure Refuse where
  code : Nat
  sect : Nat
  off : Nat
  detail : Nat
deriving DecidableEq, Repr

/-- The first failure of a list of checks. DEDUCED, log 17. -/
def firstFail (cs : List (Option Refuse)) : Option Refuse := cs.findSome? id

/-- The failure when `bad` holds. -/
def failIf (bad : Bool) (code sect off detail : Nat) : Option Refuse :=
  if bad then some { code := code, sect := sect, off := off, detail := detail } else none

/-- A word that names no single item (R513). -/
def noItem : Nat := 0xFFFFFFFF

/-! ### The checks of R38 -/

/-- Check 0x02: the header and the section table (R34, R37). For an overlap, and for a section that ends past SIGNED_LEN, the
OFFSET field of the entry is reported, of the later entry of the two. DESIGN CHOICE, log 18. -/
def check02 (img : List Byte) : Option Refuse :=
  let signed := le img 8 4
  let entry (i : Nat) : Option Refuse :=
    let o := le img (0x44 + 16 * i) 4
    let n := le img (0x48 + 16 * i) 4
    failIf (o % 64 != 0 || decide (o < 0xC0) || decide (signed < o + n) ||
      (List.range i).any (fun j =>
        let p := le img (0x44 + 16 * j) 4
        let m := le img (0x48 + 16 * j) 4
        n != 0 && m != 0 && decide (o < p + m) && decide (p < o + n))) 2 0 (0x44 + 16 * i) 0
  firstFail
    ([failIf (le img 0 4 != 0x594C5647) 2 0 0 0, failIf (le img 4 2 != 0x100) 2 0 4 0, failIf (le img 6 2 != 0xC0) 2 0 6 0,
      failIf (le img 0xC 4 != signed + 16608 || decide (4194304 < le img 0xC 4)) 2 0 0xC 0,
      failIf (le img 0x24 2 != 8) 2 0 0x24 0] ++ (List.range 8).map entry)

/-- Reserved bytes and bits of section `t` at offset `o` (R35). DEDUCED, log 17. -/
def reservedBad (img : List Byte) (t o : Nat) : Option Nat :=
  match t with
  | 1 => (firstNonzero img (o + 1) 1).or ((firstNonzero img (o + 6) 2).or (firstNonzero img (o + 0x20) 32))
  | 2 => ((List.range 48).find? (fun l => decide (2 ≤ le img (o + 4 * l + 1) 1))).map (fun l => o + 4 * l + 1)
  | 3 => firstNonzero img (o + 4) 12
  | 4 => (firstNonzero img (o + 3) 1).or (firstNonzero img (o + 6) 10)
  | 6 => ((List.range 64).find? (fun k => decide (2 ≤ k % 4) && decide (32 ≤ le img (o + k) 1))).map (fun k => o + k)
  | 7 => firstNonzero img (o + 0x30) 16
  | 8 => firstNonzero img (o + 1) 15
  | _ => none

/-- Check 0x08: each section type once, VERSION, length, reserved bytes. DESIGN CHOICE, log 18. -/
def check08 (img : List Byte) : Option Refuse :=
  let typ (i : Nat) : Nat := le img (0x40 + 16 * i) 2
  let entry (i : Nat) : Option Refuse :=
    let t := typ i
    let a := 0x40 + 16 * i
    firstFail [failIf (t == 0 || decide (8 < t) || (List.range i).any (fun j => typ j == t)) 8 t a t,
      failIf (le img (a + 2) 2 != 1) 8 t (a + 2) t, failIf (le img (a + 8) 4 != sectionLen t) 8 t (a + 8) t,
      (firstNonzero img (a + 12) 4).map (fun o => { code := 8, sect := t, off := o, detail := t })]
  let reserved (t : Nat) : Option Refuse :=
    match sectAt img t with
    | none => none
    | some (o, _) => (reservedBad img t o).map (fun x => { code := 8, sect := t, off := x, detail := t })
  firstFail
    ([failIf (decide (2 ≤ le img 0x26 2)) 8 0 0x26 0, (firstNonzero img 0x29 23).map (fun o => { code := 8, sect := 0, off := o, detail := 0 })]
      ++ (List.range 8).map entry ++ (List.range 8).map (fun k => reserved (k + 1)))

/-- Checks 0x09 and 0x0A: the yards and the fabric addresses. -/
def check09 (img : List Byte) (c : Layout) : Option Refuse :=
  let o := ((sectAt img 1).getD (0, 0)).1
  let counts : List Nat := [1, 2, 3, 4, 6, 12]
  firstFail ([failIf (!counts.contains c.n) 9 1 o noItem] ++
    (List.range 16).map (fun i => failIf (decide (c.n ≤ i) && bit c.enable i) 9 1 (o + 2) i) ++
    (List.range 16).map (fun i => failIf (decide (c.n ≤ i) && bit c.conf i) 9 1 (o + 4) i) ++
    (List.range 16).map (fun i => failIf (bit c.conf i && !bit c.enable i) 9 1 (o + 4) i) ++
    (List.range 12).map (fun b => failIf (c.addr.getD b 0 == 0xFFFF || (c.addr.take b).contains (c.addr.getD b 0)) 0xA 1 (o + 8 + 2 * b) b))

/-- Checks 0x0B and 0x0C: link roles and Ethernet modes. -/
def check0B (img : List Byte) (c : Layout) : Option Refuse :=
  let o := ((sectAt img 2).getD (0, 0)).1
  let e := ((sectAt img 3).getD (0, 0)).1
  firstFail ((List.zip (List.range 48) c.links).map (fun x =>
      firstFail [failIf (decide (2 < x.2.role)) 0xB 2 (o + 4 * x.1) x.1, failIf (c.addr.contains x.2.peer) 0xB 2 (o + 4 * x.1 + 2) x.1]) ++
    (List.zip (List.range 4) c.eth).map (fun x => failIf (decide (3 < x.2)) 0xC 3 (e + x.1) x.1))

/-- Check 0x0D: the far interleave against the devices present. DESIGN CHOICE, log 18. -/
def check0D (d : Dev) (img : List Byte) (c : Layout) : Option Refuse :=
  let o := ((sectAt img 4).getD (0, 0)).1
  firstFail ([failIf (c.portMask == 0) 0xD 4 o noItem] ++
    (List.range 16).map (fun q => failIf (bit c.portMask q &&
      !(d.on (R.MEM_FAR_PORT_LINK_UP q) && d.fld (R.MEM_FAR_PORT_CAP q) == c.portCap)) 0xD 4 (o + 4) q) ++
    [failIf (decide (3 < c.granule)) 0xD 4 (o + 2) noItem])

/-- Identity codes of R449. -/
def idDefined (i : Nat) : Bool :=
  i == 1 || (decide (0x10 ≤ i) && decide (i < 0x1C)) || (decide (0x20 ≤ i) && decide (i < 0x2C)) || i == 0x30 || i == 0x31 ||
  i == 0x40 || i == 0x50

/-- The yard index that an identity belongs to. -/
def idYard (i per : Nat) : Option Nat :=
  if 0x10 ≤ i ∧ i < 0x1C then some ((i - 0x10) / per) else if 0x20 ≤ i ∧ i < 0x2C then some ((i - 0x20) / per) else none

/-- Check 0x0F: the mailbox bindings (R451). The field reported is the byte at fault: of two ends that are equal or belong to
two yards END_B, of two channels with one bell the later one's. DESIGN CHOICE, log 18. -/
def check0F (img : List Byte) (c : Layout) : Option Refuse :=
  let o := ((sectAt img 6).getD (0, 0)).1
  let per := 12 / max 1 c.n
  let at' (ch k : Nat) : Nat := le c.mbx (4 * ch + k) 1
  let bells (ch : Nat) : List (Nat × Nat) := if at' ch 0 = 0 ∧ at' ch 1 = 0 then [] else [(at' ch 0, at' ch 2 % 32), (at' ch 1, at' ch 3 % 32)]
  let badYard (i : Nat) : Bool := decide (0x10 ≤ i) && decide (i < 0x1C) && !((i - 0x10) % per == 0 && bit c.enable ((i - 0x10) / per))
  let taken (ch : Nat) (x : Nat × Nat) : Bool := (List.range ch).any (fun k => (bells k).contains x)
  let bad (ch : Nat) : List (Option Refuse) :=
    let a := at' ch 0; let b := at' ch 1
    let f (p : Bool) (k : Nat) : Option Refuse := failIf p 0xF 6 (o + 4 * ch + k) ch
    if a = 0 ∧ b = 0 then [f (at' ch 2 != 0) 2, f (at' ch 3 != 0) 3]
    else [f (!idDefined a || badYard a) 0, f (!idDefined b || badYard b || a == b) 1,
      f (match idYard a per, idYard b per with
        | some x, some y => x != y
        | _, _ => false) 1,
      f (taken ch (a, at' ch 2 % 32)) 2, f (taken ch (b, at' ch 3 % 32)) 3]
  firstFail ((List.range 16).flatMap bad)

/-- Checks 0x10 and 0x11: the spare map and the transit share. -/
def check10 (d : Dev) (img : List Byte) (c : Layout) : Option Refuse :=
  let o := ((sectAt img 7).getD (0, 0)).1
  let t := ((sectAt img 8).getD (0, 0)).1
  let failed := d.fld R.DEV_PAN_FAILED
  let share := le img t 1
  firstFail ((List.zip (List.range 48) c.spare).map (fun x =>
      let b := x.1 / 4
      failIf (!((decide (4 * b ≤ x.2) && decide (x.2 < 4 * b + 4)) || x.2 == 48 + b / 3) || (c.spare.take x.1).contains x.2 ||
        bit failed x.2) 0x10 7 (o + x.1) x.1) ++
    [failIf (share == 0 || decide (8 < share)) 0x11 8 t 0])

/-- The bays an image touches (R39), `share` and `share'` the transit shares of the committed layout and the image. -/
def touches (cur new : Layout) (share share' : Nat) (b : Nat) : Bool :=
  if cur.n = 0 then true
  else if cur.n ≠ new.n ∨ cur.strict ≠ new.strict ∨ cur.eth ≠ new.eth ∨ cur.portMask ≠ new.portMask ∨
      cur.granule ≠ new.granule ∨ cur.portCap ≠ new.portCap ∨ cur.routes ≠ new.routes ∨ share ≠ share' then true
  else
    let per := 12 / max 1 cur.n
    let y := b / per
    bit cur.enable y != bit new.enable y || bit cur.conf y != bit new.conf y || cur.addr.getD b 0 != new.addr.getD b 0 ||
    slice' cur.links b != slice' new.links b || slice' cur.spare b != slice' new.spare b ||
    (List.range 16).any (fun ch =>
      let o := slice cur.mbx (4 * ch) 4
      let e := slice new.mbx (4 * ch) 4
      o != e && [le o 0 1, le o 1 1, le e 0 1, le e 1 1].any (fun i => i == 0x20 + b || i == 0x10 + y * per))
where
  /-- The four entries of bay `b`. -/
  slice' {α : Type} (xs : List α) (b : Nat) : List α := (xs.drop (4 * b)).take 4

/-- The mask of touched bays that are neither UNASSIGNED nor RAKED (check 0x12). -/
def busyMask (d : Dev) (img : List Byte) : Nat :=
  let c := Layout.parse img
  (List.range 12).foldl (fun m b =>
    if touches d.lay.cur c (d.fld R.FAB_TRANSIT % 16) (le (sectionBytes img 8) 0 1) b && !(d.bayState b == 0 || d.bayState b == 3)
    then m + 2 ^ b else m) 0

/-- Check 0x12. -/
def check12 (d : Dev) (img : List Byte) : Option Refuse := failIf (busyMask d img != 0) 0x12 0 0 (busyMask d img)

/-- The checks of R38 in order; the first failure. Check 0x01 compares IMAGE_LEN with what LAY_STAGE_LEN holds at the check.
DEDUCED, log 17; DESIGN CHOICE, log 18. -/
def checkImage (d : Dev) (img : List Byte) : Option Refuse :=
  let signed := img.take (le img 8 4)
  let slot := le img 0x28 1
  let sigs := le img 8 4
  let c := Layout.parse img
  let life := d.fld R.SEC_STATUS_LIFECYCLE
  let key := (d.sec.opKeys.getD slot none)
  let rsa := match key with
    | some k => Config.rsaVerify k.1 signed (slice img sigs 384)
    | none => false
  let slh := match key with
    | some k => Config.slhVerify k.2 signed (slice img (sigs + 384) 16224)
    | none => false
  let seq := d.fld R.LAY_SEQ
  firstFail [failIf d.lay.fetchErr 1 0 0 0,
    failIf (le img 0xC 4 != d.fld R.LAY_STAGE_LEN || img.length != le img 0xC 4) 1 0 0xC 0,
    check02 img, failIf (!rsa) 3 0 0 slot, failIf (!slh) 4 0 0 slot, failIf (life == 0 || life == 5) 5 0 0 life,
    failIf (le img 0x18 8 != 0 && le img 0x18 8 != Config.serial) 6 0 0x18 0, failIf (decide (le img 0x10 8 ≤ seq)) 7 0 0x10 (seq % 2 ^ 32),
    check08 img, check09 img c, check0B img c, check0D d img c,
    (routeBad c.routes c.links c.addr).map (fun x => { code := 0xE, sect := 5, off := ((sectAt img 5).getD (0, 0)).1 + x.2, detail := x.1 }),
    check0F img c, check10 d img c, check12 d img]

/-! ### Staging (R41 to R43) -/

/-- Staging state (R41): 0 EMPTY, 1 FETCHING, 2 STAGED, 3 CHECKING, 4 VALID, 5 REFUSED, 6 COMMITTING. -/
def setStage (v : Nat) : M d0 Unit := wr R.LAY_STATUS_STAGE v

/-- A command is ignored. -/
def layErr : M d0 Unit := wr R.LAY_STATUS_CMD_ERR 1

/-- Report a refusal and enter REFUSED (R38, R513). -/
def layRefuse (r : Refuse) : M d0 Unit := do
  wr R.LAY_REPORT_CODE (r.code + 2 ^ 16 * r.sect)
  wr R.LAY_REPORT_OFFSET r.off
  wr R.LAY_REPORT_DETAIL r.detail
  setStage 5

/-- FETCH (R42): LAY_STAGE_ADDR is used as written, its low bits too. DESIGN CHOICE, log 18. -/
def execFetch (s : State) : Host.Outcome State Fault Refusal :=
  perform s do
    let d ← dev
    if !d.pfOk then return
    let st := d.fld R.LAY_STATUS_STAGE
    if st = 0 ∨ st = 2 ∨ st = 4 ∨ st = 5 then
      act (.lay { d.lay with asked := d.fld R.LAY_STAGE_LEN, staged := [], fetchErr := false, commitAfter := false, discarding := false })
      setStage 1
      emit (.hostRead 0 (d.fld R.LAY_STAGE_ADDR) (d.fld R.LAY_STAGE_LEN))
    else layErr

/-- The fetch in progress ends with no image: a host error, a host reset or a link that goes down refuses with code 0x01,
unless DISCARD has arrived (R41, R42). -/
def layFetchLost : M d0 Unit := do
  let d ← dev
  if d.fld R.LAY_STATUS_STAGE ≠ 1 then return
  if d.lay.discarding then
    act (.lay { d.lay with staged := [], discarding := false })
    setStage 0
  else
    act (.lay { d.lay with fetchErr := true })
    layRefuse { code := 1, sect := 0, off := 0, detail := 0 }

/-- LAYOUT_FETCH_DONE (R41, R42): the staged image is what the length that FETCH found takes of the data. -/
def execLayoutFetchDone (data : Option (List Byte)) (s : State) : Host.Outcome State Fault Refusal :=
  perform s do
    let d ← dev
    if d.fld R.LAY_STATUS_STAGE ≠ 1 then return
    match d.lay.discarding, d.pfFetched data with
    | false, some bs =>
      act (.lay { d.lay with staged := bs.take d.lay.asked })
      setStage 2
    | _, _ => layFetchLost

/-- VALIDATE (R41). -/
def execValidate (s : State) : Host.Outcome State Fault Refusal :=
  perform s do
    let d ← dev
    if !d.pfOk then return
    let st := d.fld R.LAY_STATUS_STAGE
    if st = 2 ∨ st = 4 ∨ st = 5 then
      act (.lay { d.lay with commitAfter := false })
      setStage 3
    else layErr

/-- LAYOUT_CHECK_DONE (R38, R41): device core 0 ends the check. A passed check leaves the LAY_REPORT registers as the last
failure wrote them. DESIGN CHOICE, log 18. -/
def execLayoutCheckDone (s : State) : Host.Outcome State Fault Refusal :=
  perform s do
    let d ← dev
    if d.fld R.LAY_STATUS_STAGE ≠ 3 then return
    match checkImage d d.lay.staged with
    | some r => layRefuse r
    | none =>
      wrWords R.LAY_STAGED_MEASURE 12 (sha (d.lay.staged.take (le d.lay.staged 8 4)))
      setStage (if d.lay.commitAfter then 6 else 4)

/-- DISCARD (R41). -/
def execDiscard (s : State) : Host.Outcome State Fault Refusal :=
  perform s do
    let d ← dev
    if !d.pfOk then return
    match d.fld R.LAY_STATUS_STAGE with
    | 0 => pure ()
    | 1 => act (.lay { d.lay with discarding := true })
    | 2 | 4 | 5 =>
      act (.lay { d.lay with staged := [], fetchErr := false })
      setStage 0
    | _ => layErr

/-- LAY_COMMIT (R41, R43): the value must be the low half of the staged SEQ. A device-fatal error admits no commit
(R464). -/
def execLayCommit (value : Nat) (s : State) : Host.Outcome State Fault Refusal :=
  perform s do
    let d ← dev
    if !d.pfOk then return
    let st := d.fld R.LAY_STATUS_STAGE
    if value ≠ le d.lay.staged 0x10 4 ∨ d.on (R.DEV_STATUS.sub 0 1) then layErr
    else if st = 2 then
      act (.lay { d.lay with commitAfter := true })
      setStage 3
    else if st = 4 then setStage 6
    else layErr

/-! ### The commit (R44) -/

/-- The registers of the function of yard `y` at their reset values (the Reset columns of its blocks). -/
def initYardRegs (y : Nat) : M d0 Unit := do
  act (.dropRegs (yb y) (yb (y + 1)))
  let d ← dev
  let n := (d.baysOf y).length
  let set (f : Fld) (v : Nat) : M d0 Unit := wr f v
  set (R.PAN_ID y) 0x008F4001
  set (R.PAN_FORMATS y) 0x3FFF
  set (R.PAN_COUNT y) (4 * n)
  set (R.PLN_ID y) 0x08400100
  set (R.DRV_ID y) 0x00100001
  set (R.DRV_COUNT y) n
  set (R.DRV_CTRL y) 0x14
  set (R.TRN_ID y) 0x00010001
  set (R.TRN_CONN_COUNT y) (6144 * n)
  set (R.TRN_PLAN_CONN_BASE y) (6144 * n)
  set (R.TRN_UDP_PORT y) 0xF000
  set (R.TRN_RTO_MIN y) 8
  set (R.TRN_RTO_MAX y) 100000
  set (R.TRN_ACK_CTRL y) 0x1408
  set (R.TRN_RNR_CTRL y) 4
  set (R.TRN_QUARANTINE y) 1000
  set (R.TRN_MATCH_FREE y) (32768 * n)
  each (List.range 4) (fun p => do
    set (R.TRN_CC_RATE_MIN y p) 1000
    set (R.TRN_CC_AI y p) 2000
    set (R.TRN_CC_PERIOD y p) 10
    set (R.TRN_CC_MD y p) 32
    set (R.TRN_CC_TARGET y p) 10000)
  set (R.YRD_ID y) 0x00010001
  set (R.YRD_STATE_CONF y) (b2n (d.conf y))
  set (R.YRD_STATE_BAYS y) n
  set (R.YRD_STATE_LOWEST y) y
  set (R.XLT_ID y) 0x00080001
  set (R.XLT_CTX_COUNT y) (4096 * n)
  set (R.XLT_FAULT_CTRL y) 0x03006414
  set (R.XLT_POOL_LOFT y) (d.capacity y 0)
  set (R.XLT_POOL_NEAR y) (d.capacity y 1)
  set (R.XLT_POOL_FAR y) (d.capacity y 2)
  set (R.YRD_FRZ_PART_LOG y) 30
  each (List.range (4 * n)) (fun j => do
    let p := d.fld ((R.DEV_PAN_MAP (y + j / 4)).sub (8 * (j % 4)) 8)
    set (R.PAN_LP_STATE_PHYS y j) p
    set (R.PAN_LP_STATE_ON_SPARE y j) (b2n (decide (48 ≤ p) && decide (p < 52))))

/-- The physical pan now serving logical pan `j`; 0xFF when it is LOST. -/
def panMap (j : Nat) : Fld := (R.DEV_PAN_MAP (j / 4)).sub (8 * (j % 4)) 8

/-- Apply the spare map at a commit: the RWL copy always, the map in force for each triad whose entries change (R469).
DESIGN CHOICE, log 18. -/
def applySpare (old new : List Nat) (first : Bool) : M d0 Unit := do
  each (List.range 48) (fun j => wr ((R.DEV_SPARE_MAP (j / 4)).sub (8 * (j % 4)) 8) (new.getD j j))
  each (List.range 4) (fun t => do
    if first || ((old.drop (12 * t)).take 12) != ((new.drop (12 * t)).take 12) then
      each ((List.range 12).map (fun k => 12 * t + k)) (fun j => wr (panMap j) (new.getD j j))
      match ((List.range 12).map (fun k => 12 * t + k)).find? (fun j => new.getD j j == 48 + t) with
      | some j => wr (R.DEV_SPARE_USE.sub (8 * t) 8) (0x80 + j)
      | none => wr (R.DEV_SPARE_USE.sub (8 * t) 8) 0
    else pure ())

/-- Clear a mailbox channel: both message blocks, and the bell bits its binding names (R456). -/
def clearChan (c : Nat) : M d0 Unit := do
  let b := (← dev).fld (R.MBX_BIND c)
  let clr (t : Tab Nat) (id k : Nat) : Tab Nat :=
    let v := Tab.num t id
    if bit v k then Tab.setNum t id (v - 2 ^ k) else t
  modCtl (fun x => { x with
    chans := x.chans.set c { ab := MsgBlk.reset, ba := MsgBlk.reset }
    replies := x.replies.filter (fun e => e.2.1 != c)
    bell := clr (clr x.bell (bits b 0 8) (bits b 16 5)) (bits b 8 8) (bits b 24 5) })

/-- Apply the mailbox bindings (R37, R456). -/
def applyBindings (new : List Byte) : M d0 Unit :=
  each (List.range 16) (fun c => do
    let v := le new (4 * c) 4
    if (← rd (R.MBX_BIND c)) ≠ v then
      clearChan c
      wr (R.MBX_BIND c) v
    else pure ())

/-- Give a link the role of the new layout (R45, R362). Packets that wait for it, or that the far end has not acknowledged,
are routed again when they are of untouched bays or in transit: their traffic is not lost; those of touched bays are
discarded. DESIGN CHOICE, log 18. -/
def applyRole (hit : Nat → Bool) (old new : LinkCfg) (l : Nat) : M d0 Unit := do
  if old.role = new.role then return
  downNotice l
  let k := (← dev).link l
  let sent := (k.unacked.flatMap (fun f => f.pkts)).map (Pkt.takenBack true)
  let waiting := (sent ++ k.queue.map (Pkt.takenBack false)).filter (fun p => p.vc != 7)
  let kept := waiting.filter (fun p => p.transit || !hit p.bay)
  each (waiting.filter (fun p => !(p.transit || !hit p.bay))) freeInput
  bump R.FAB_DEAD_DISCARD (waiting.length - kept.length)
  let d ← dev
  act (.fab (d.fab.held ++ kept) d.fab.draining d.fab.sampleSeq)
  if new.role = 0 then
    wr ((R.FAB_PORT_STATE l).sub 0 5) 0
    modLink l (fun _ => Link.reset)
    wr (R.FAB_PORT_PEER l) 0
  else
    modLink l (fun k => { k with queue := [], unacked := [] })
    wr (R.FAB_PORT_STATE_REVERSED l) 0
    enterTrain l

/-- Take over the far interleave (R31, R355). -/
def applyFar (c : Layout) : M d0 Unit := do
  wr R.MEM_FAR_CFG (c.portMask + 2 ^ 16 * c.granule)
  wr R.MEM_FAR_BAY_SHARE c.share
  each (List.range 16) (fun q => do
    wr (R.MEM_FAR_PORT_ENABLED q) (b2n (bit c.portMask q))
    let cap ← rd (R.MEM_FAR_PORT_CAP q)
    wr (R.MEM_FAR_PORT_CAP_MATCH q) (b2n (cap == c.portCap)))

/-- Bay and function states of the touched bays (R32, R294), and the state of the yards they now form. -/
def applyBays (hit : Nat → Bool) (seq : Nat) : M d0 Unit := do
  each (List.range 12) (fun b => do
    if !hit b then return
    let d ← dev
    wr (R.LAY_BAY_STATE.sub (2 * b) 2) (if (d.yardOf b).isSome then 3 else 0)
    wr (R.BAY_FN_STATE_STATE b) (if d.isYard b then 1 else 0)
    if d.isYard b then
      act (.yard b { Yard.empty with touchSeq := seq })
      initYardRegs b
    else act (.dropRegs (yb b) (yb (b + 1))))
  let d ← dev
  each d.yardList (fun y => if (d.baysOf y).any hit && !hit y then modYard y (fun r => { r with touchSeq := seq }) else pure ())

/-- Every effect of a commit, at one instant (R44): the image's ROUTES become the active table (R37), and the orders of the
arbiters that serve several bays start again (R21). DESIGN CHOICE, log 18. -/
def applyLayout (img : List Byte) : M d0 Unit := do
  let d ← dev
  let old := d.lay.cur
  let new := Layout.parse img
  let share := le (sectionBytes img 8) 0 1
  let hit := touches old new (d.fld R.FAB_TRANSIT % 16) share
  let seq := le img 0x10 8
  act (.lay { d.lay with cur := new, staged := [], commitAfter := false, active := new.routes })
  applySpare old.spare new.spare (old.n == 0)
  applyBindings new.mbx
  wr R.FAB_TRANSIT share
  applyFar new
  each (List.range 12) (fun b => wr (R.FAB_BAY_ADDR b) (new.addr.getD b 0))
  each (List.range 4) (fun p => wr (R.ETH_PORT_MODE.sub (2 * p) 2) (new.eth.getD p 0))
  each (List.range 4) (fun p => if old.eth.getD p 0 = new.eth.getD p 0 then pure () else setPortMode p (new.eth.getD p 0))
  showActive
  each (List.range 48) (fun l => applyRole hit (old.links.getD l { role := 0, reversal := false, peer := 0 })
    (new.links.getD l { role := 0, reversal := false, peer := 0 }) l)
  wr R.LAY_CURRENT (new.n + 2 ^ 4 * (new.enable % 4096) +
    2 ^ 16 * ((List.range 12).foldl (fun m b => if bit new.conf (b / (12 / max 1 new.n)) then m + 2 ^ b else m) 0) + 2 ^ 28 * b2n new.strict)
  applyBays hit seq
  showRing
  if (List.range 12).all hit then resetSchedulers else pure ()
  resetEthOrders
  resetLinkOrders
  wr R.LAY_SEQ seq
  bump R.LAY_COMMIT_COUNT 1
  wrWords R.LAY_MEASURE 12 (sha (img.take (le img 8 4)))
  wr R.LAY_STATUS_COMMITTED 1
  setStage 0
  recheckGrants
  reroute

/-- LAYOUT_COMMIT_APPLY (R44): check 0x12 is repeated and the image applied in the same cycle. -/
def execLayoutCommitApply (s : State) : Host.Outcome State Fault Refusal :=
  perform s do
    let d ← dev
    if d.fld R.LAY_STATUS_STAGE ≠ 6 then return
    match check12 d d.lay.staged with
    | some r => layRefuse r
    | none => applyLayout d.lay.staged

end Sys2Proof.Machine
end

