-- ==== Sys2Proof/Machine/PlanImage.lean ====
section
/-! DEFINITION. The plan image (04: R96 to R104, R129) and the checks 0x01 to 0x06 of R117. -/

namespace Sys2Proof.Machine

/-! ### Sections -/

/-- Entry of section `t` in the section table: offset and length. -/
def planSection (img : List Byte) (t : Nat) : Nat × Nat :=
  match (List.range 6).find? (fun i => le img (0x20 + 16 * i) 2 == t) with
  | some i => (le img (0x24 + 16 * i) 4, le img (0x28 + 16 * i) 4)
  | none => (0, 0)

/-- Where section `t` starts. -/
def secAt (img : List Byte) (t : Nat) : Nat := (planSection img t).1

/-- Type of the section that holds offset `o`, 0 for the header. -/
def secOf (img : List Byte) (o : Nat) : Nat :=
  ((List.range 6).find? (fun i =>
    let s := planSection img (i + 1)
    inRange o s.1 s.2)).elim 0 (fun i => i + 1)

/-- The offset of step record `s`. -/
def stepAt (img : List Byte) (s : Nat) : Nat := secAt img 5 + 96 + 128 * s

/-- The program blocks of a section: their offsets, and the offset at which the walk fails (R97). -/
def blockWalk (img : List Byte) (fuel at_ stop : Nat) : List Nat × Option Nat :=
  match fuel with
  | 0 => ([], none)
  | k + 1 =>
    if stop ≤ at_ then ([], none)
    else if stop < at_ + 16 then ([], some at_)
    else if stop < at_ + 16 + 8 * le img (at_ + 2) 1 then ([], some (at_ + 2))
    else
      let r := blockWalk img k (at_ + 16 + 8 * le img (at_ + 2) 1) stop
      (at_ :: r.1, r.2)

/-- The walk over the PROGRAMS section. -/
def planBlocks (img : List Byte) : List Nat × Option Nat :=
  let s := planSection img 4
  blockWalk img (s.2 / 16 + 1) s.1 (s.1 + s.2)

/-! ### Reading the image -/

/-- A buffer entry (R99). -/
def Buf.read (img : List Byte) (o : Nat) : Buf :=
  { kind := le img o 1, tier := le img (o + 1) 1, seg := le img (o + 2) 1, pasid := le img (o + 4) 4 % 2 ^ 20,
    off := le img (o + 8) 8, len := le img (o + 0x10) 8, addr := 0 }

/-- A communicator declaration (R129). -/
def CommDecl.read (img : List Byte) (o : Nat) : CommDecl :=
  { ringId := le img o 2, n := le img (o + 2) 2, pos := le img (o + 4) 2, predHop := le img (o + 6) 1, succHop := le img (o + 7) 1,
    predAddr := le img (o + 8) 2, succAddr := le img (o + 0xA) 2, predConn := le img (o + 0xC) 2, succConn := le img (o + 0xE) 2,
    slots := le img (o + 0x10) 2, landGroup := le img (o + 0x12) 2, landBuf := le img (o + 0x14) 2, weight := le img (o + 0x16) 1 }

/-- An operand reference (R102). -/
def OpRef.read (img : List Byte) (o : Nat) : OpRef :=
  { buf := le img o 2, level := le img (o + 2) 1, src := le img (o + 3) 1, stride := le img (o + 4) 4, off := le img (o + 8) 8 }

/-- A step record (R101). -/
def Step.read (img : List Byte) (o : Nat) : Step :=
  { type := le img o 1, flags := le img (o + 1) 1, wd := le img (o + 2) 2, prog := le img (o + 4) 2, comm := le img (o + 6) 2,
    seed := le img (o + 8) 1, stream := le img (o + 9) 1, baseLevel := le img (o + 0xA) 1, period := le img (o + 0xC) 4,
    count := le img (o + 0x10) 8, base := le img (o + 0x18) 8, in0 := OpRef.read img (o + 0x20), in1 := OpRef.read img (o + 0x30),
    in2 := OpRef.read img (o + 0x40), out := OpRef.read img (o + 0x50), pans := le img (o + 0x60) 8, spec := slice img (o + 0x68) 24 }

/-- The plan an image describes; the checks decide whether it is one. -/
def Plan.parse (img : List Byte) : Plan :=
  let r := secAt img 1
  let b := planSection img 2
  let c := planSection img 3
  let s := planSection img 5
  let t := planSection img 6
  { image := img, member := le img 0x1C 2, watchdog := le img 0x1E 2,
    threads := (List.range (le img 0xE 1)).map (fun i => (le img (s.1 + 8 * i) 4, le img (s.1 + 8 * i + 4) 4)),
    panMask := le img r 8, contexts := le img (r + 8) 1, seedMask := le img (r + 9) 1, conns := le img (r + 0xC) 4,
    loft := le img (r + 0x10) 8, near := le img (r + 0x18) 8, far := le img (r + 0x20) 8, slots := le img (r + 0x28) 4,
    eventMask := le img (r + 0x30) 8,
    bufs := (List.range (b.2 / 32)).map (fun i => Buf.read img (b.1 + 32 * i)),
    comms := (List.range (c.2 / 64)).map (fun i => CommDecl.read img (c.1 + 64 * i)),
    progs := (planBlocks img).1.filterMap (fun o =>
      match Prog.read (slice img o (16 + 8 * le img (o + 2) 1)) with
      | .ok p => some p
      | .bad _ _ _ => none),
    steps := (List.range ((s.2 - 96) / 128)).map (fun i => Step.read img (stepAt img i)), tables := slice img t.1 t.2 }

/-! ### Checks 0x02 to 0x06 -/

/-- A failure of check `code` at offset `off`. DESIGN CHOICE, log 46. -/
def planFail (img : List Byte) (bad : Bool) (code off detail : Nat) : Option Refuse := failIf bad code (secOf img off) off detail

/-- Check 0x02: header and section placement (R96). -/
def plan02 (img : List Byte) : Option Refuse :=
  let n := le img 8 4
  let entry (i : Nat) : Option Refuse :=
    let o := le img (0x24 + 16 * i) 4
    let m := le img (0x28 + 16 * i) 4
    failIf (o % 64 != 0 || decide (o < 0x80) || decide (n < o + m) ||
      (List.range i).any (fun j =>
        let p := le img (0x24 + 16 * j) 4
        let q := le img (0x28 + 16 * j) 4
        m != 0 && q != 0 && decide (o < p + q) && decide (p < o + m))) 2 0 (0x24 + 16 * i) 0
  firstFail
    ([failIf (le img 0 4 != 0x4C505647) 2 0 0 0, failIf (le img 4 2 != 0x100) 2 0 4 0, failIf (le img 6 2 != 0x80) 2 0 6 0,
      failIf (decide (n < 128) || decide (16777216 < n)) 2 0 8 0, failIf (le img 0xC 2 != 6) 2 0 0xC 0,
      failIf (le img 0xF 1 != 0) 2 0 0xF 0, failIf (decide (4095 < le img 0x1C 2)) 2 0 0x1C 0] ++ (List.range 6).map entry)

/-- Whether a section's length is permitted (R97). -/
def planLenOk (img : List Byte) (bays t o n : Nat) : Bool :=
  match t with
  | 1 => n == 64
  | 2 => n % 32 == 0 && decide (32 ≤ n) && decide (n ≤ 32 * 4096)
  | 3 => n % 64 == 0 && decide (n ≤ 64 * 64 * bays)
  | 4 => decide ((blockWalk img (n / 16 + 1) o (o + n)).1.length ≤ 256)
  | 5 => decide (96 + 128 ≤ n) && (n - 96) % 128 == 0 && decide (n ≤ 96 + 128 * 65535)
  | _ => n % 64 == 0

/-- Check 0x03: types, VERSION, lengths, reserved bytes of the section table and of RESOURCES, whole program blocks, the
COMMS count. R117 does not say which code reports a reserved byte inside a BUFFERS, STEPS, COMMS or TABLES record: the checks
of that record do, 0x06, 0x07, 0x0D and 0x0E. DESIGN CHOICE, log 46. -/
def plan03 (img : List Byte) (bays : Nat) : Option Refuse :=
  let typ (i : Nat) : Nat := le img (0x20 + 16 * i) 2
  let entry (i : Nat) : Option Refuse :=
    let t := typ i
    let a := 0x20 + 16 * i
    firstFail [failIf (t == 0 || decide (6 < t) || (List.range i).any (fun j => typ j == t)) 3 t a t,
      failIf (le img (a + 2) 2 != 1) 3 t (a + 2) t,
      failIf (!planLenOk img bays t (le img (a + 4) 4) (le img (a + 8) 4)) 3 t (a + 8) t,
      (firstNonzero img (a + 12) 4).map (fun o => { code := 3, sect := t, off := o, detail := t })]
  let r := secAt img 1
  firstFail ((List.range 6).map entry ++
    [(planBlocks img).2.map (fun o => { code := 3, sect := 4, off := o, detail := 4 }),
     ((firstNonzero img (r + 0x2C) 4).or (firstNonzero img (r + 0x38) 8)).map (fun o => { code := 3, sect := 1, off := o, detail := 1 }),
     failIf (64 * le img (r + 0xA) 2 != (planSection img 3).2) 3 1 (r + 0xA) 1])

/-- Check 0x04: THREADS and the thread table (R96, R97). R117 names no thread for a THREADS out of range, for which the detail
is 0, and no offset for an uncovered step, for which it is that of the thread table. DESIGN CHOICE, log 46. -/
def plan04 (img : List Byte) (bays : Nat) : Option Refuse :=
  let T := le img 0xE 1
  let so := secAt img 5
  let n := ((planSection img 5).2 - 96) / 128
  let first (t : Nat) : Nat := le img (so + 8 * t) 4
  let cnt (t : Nat) : Nat := le img (so + 8 * t + 4) 4
  let thread (t : Nat) : Option Refuse :=
    if T ≤ t then firstFail [planFail img (first t != 0) 4 (so + 8 * t) t, planFail img (cnt t != 0) 4 (so + 8 * t + 4) t]
    else planFail img (cnt t != 0 && (decide (n < first t + cnt t) ||
      (List.range t).any (fun u => cnt u != 0 && decide (first t < first u + cnt u) && decide (first u < first t + cnt t)))) 4 (so + 8 * t) t
  let lacking := (List.range n).find? (fun s => !(List.range T).any (fun t => inRange s (first t) (cnt t)))
  firstFail ([failIf (T == 0 || decide (bays < T)) 4 0 0xE 0] ++ (List.range 12).map thread ++
    [lacking.map (fun s => { code := 4, sect := 5, off := so, detail := s })])

/-- Check 0x05: the program blocks (R77, R80). -/
def plan05 (img : List Byte) : Option Refuse :=
  let bs := (planBlocks img).1
  firstFail ((List.zip (List.range bs.length) bs).map (fun e =>
    match Prog.read (slice img e.2 (16 + 8 * le img (e.2 + 2) 1)) with
    | .bad o slot id => some { code := 5, sect := 4, off := e.2 + o, detail := id + 2 ^ 16 * slot }
    | .ok p => failIf ((bs.take e.1).any (fun o => le img o 2 == p.id)) 5 4 e.2 (p.id + 0xFF0000)))

/-- Check 0x06: buffer entries and pool totals (R99). -/
def plan06 (img : List Byte) : Option Refuse :=
  let b := planSection img 2
  let r := secAt img 1
  let bufs := (List.range (b.2 / 32)).map (fun i => Buf.read img (b.1 + 32 * i))
  let entry (i : Nat) : Option Refuse :=
    let o := b.1 + 32 * i
    let f := Buf.read img o
    firstFail [failIf (decide (2 < f.kind)) 6 2 o i,
      failIf (if f.kind = 2 then f.tier != 3 else decide (2 < f.tier)) 6 2 (o + 1) i,
      failIf (if f.kind = 1 then decide (7 < f.seg) else f.seg != 0) 6 2 (o + 2) i,
      failIf (le img (o + 3) 1 != 0) 6 2 (o + 3) i,
      failIf (decide (2 ^ 20 ≤ le img (o + 4) 4)) 6 2 (o + 4) i,
      failIf (f.kind == 0 && f.off != 0) 6 2 (o + 8) i,
      failIf (f.len == 0 || f.len % 64 != 0) 6 2 (o + 0x10) i,
      (firstNonzero img (o + 0x18) 8).map (fun x => { code := 6, sect := 2, off := x, detail := i })]
  let total (t : Nat) : Nat := (bufs.filter (fun f => f.kind == 0 && f.tier == t)).foldl (fun n f => n + roundUp 4096 f.len) 0
  firstFail ((List.range (b.2 / 32)).map entry ++
    (List.range 3).map (fun t => failIf (le img (r + 0x10 + 8 * t) 8 != total t) 6 1 (r + 0x10 + 8 * t) noItem))

end Sys2Proof.Machine
end

