-- ==== Sys2Proof/Machine/PlanCheck.lean ====
section
/-! DEFINITION. The checks 0x07 to 0x0E and 0x20 to 0x27 of R117 (04; 05: R130, R131, R160; 06: R167, R169, R175; 07: R209
to R211; 08: R220, R223, R226, R231, R239). -/

namespace Sys2Proof.Machine

/-- What the checks look at: the image, the plan it describes, the device, the yard and its bays. -/
structure PlanCtx where
  img : List Byte
  p : Plan
  d : Dev
  y : Nat
  bays : Nat

/-- A failure at offset `rel` of step record `s`. -/
def PlanCtx.at (x : PlanCtx) (bad : Bool) (code s rel : Nat) : Option Refuse := planFail x.img bad code (stepAt x.img s + rel) s

/-- A failure at byte `o` of TABLES, for step `s`. -/
def PlanCtx.tbl (x : PlanCtx) (bad : Bool) (s o : Nat) : Option Refuse := planFail x.img bad 0xE (secAt x.img 6 + o) s

/-- The failure at the lowest offset of those one check finds: its first offending field (R117). -/
def lowFail (cs : List (Option Refuse)) : Option Refuse :=
  cs.foldl (fun m c =>
    match m, c with
    | some a, some b => if b.off < a.off then some b else some a
    | some a, none => some a
    | none, c => c) none

/-- The first offending field over the steps. -/
def PlanCtx.steps (x : PlanCtx) (f : Nat → Step → List (Option Refuse)) : Option Refuse :=
  firstFail (x.p.indexed.map (fun e => lowFail (f e.1 e.2)))

/-! ### Loops (R105) -/

/-- The levels of the loops that enclose step `s`. -/
def Plan.levels (p : Plan) (s : Nat) : List Nat := (p.encl s).map (fun e => e.2.sp 0x6A 1)

/-- Whether a LEVEL field may stand in step `s`. -/
def Plan.levelOk (p : Plan) (s l : Nat) : Bool := l == 0xFF || (p.levels s).contains l

/-! ### Check 0x07 (R101 to R104, R167, R175, R211, R231) -/

/-- PROG and COMM of a step type: 0 absent, 1 optional, 2 required (R103). -/
def typeRule (t : Nat) : Nat × Nat :=
  if t = tMove then (1, 1) else if t = tReduce ∨ t = tUpdate then (2, 2) else if t = tGather then (1, 2)
  else if t = tSeal then (0, 2) else if t = tSelect then (0, 1) else (0, 0)

/-- The operand references a step type has. -/
def typeRefs (t : Nat) : List Nat :=
  if t = tReduce ∨ t = tUpdate then [0, 1, 2, 3]
  else if t = tMove ∨ t = tGather ∨ t = tSelect ∨ t = tDemand ∨ t = tStream then [0, 3] else []

/-- Reserved stretches of the type-specific bytes (R104). -/
def specReserved (t : Nat) : List (Nat × Nat) :=
  if t = tReduce ∨ t = tGather ∨ t = tSelect ∨ t = tStream then [(0x70, 16)]
  else if t = tUpdate then [(0x6D, 19)]
  else if t = tDemand then [(0x6B, 1), (0x74, 12)]
  else if t = tWait then [(0x6A, 2), (0x78, 8)]
  else if t = tSignal then [(0x72, 14)]
  else if t = tLoop then [(0x6C, 20)]
  else [(0x68, 24)]

/-- Whether a field agrees with its rule. -/
def ruleOk (rule : Nat) (absent found : Bool) : Bool :=
  match rule with
  | 0 => absent
  | 1 => absent || found
  | _ => !absent && found

/-- The ring steps of communicator `c` in thread `t`. -/
def Plan.ringOf (p : Plan) (t c : Nat) : List Nat :=
  ((p.threadSteps t).filter (fun e => e.2.isRing && e.2.comm == c)).map (fun e => e.1)

/-- The ops of R131 that break it: communicator and steps. The ring steps of a communicator stand in one thread: those of any
later thread break it too. -/
def Plan.brokenOps (p : Plan) : List (Nat × List Nat) :=
  (List.range p.threads.length).flatMap (fun t =>
    (List.range p.comms.length).flatMap (fun c =>
      if ((p.comms[c]?).map (fun k => k.n)).getD 0 < 2 then []
      else
        let elsewhere := (List.range t).any (fun u => !(p.ringOf u c).isEmpty)
        (cutOps p false [] (p.ringOf t c)).filterMap (fun op =>
          let same := op.all (fun s => (p.encl s).map (fun e => e.1) == (p.encl (op.headD 0)).map (fun e => e.1))
          let sealed := (((op.getLast?).bind (fun s => p.steps[s]?)).map (fun st => st.type)).getD 0 == tSeal
          if same && sealed && !elsewhere then none else some (c, op))))

/-- Check 0x07 for the fields every step has. -/
def PlanCtx.c07fields (x : PlanCtx) (s : Nat) (st : Step) : List (Option Refuse) :=
  let p := x.p
  let r := typeRule st.type
  let allowed := if st.type = tSeal then 1 else if st.type = tGather then 2 else 0
  [x.at (st.type == 0 || decide (tLoop < st.type)) 7 s 0,
   x.at (Nat.lor st.flags allowed != allowed) 7 s 1,
   x.at (!ruleOk r.1 (st.prog == 0xFFFF) (p.prog st).isSome) 7 s 4,
   x.at (!ruleOk r.2 (st.comm == 0xFFFF) (p.decl st).isSome) 7 s 6,
   x.at (st.seed != 0xFF && (decide (7 < st.seed) || !bit p.seedMask st.seed)) 7 s 8,
   x.at (decide (15 < st.stream)) 7 s 9,
   x.at (decide (3 < st.baseLevel) && st.baseLevel != 0xFF) 7 s 0xA,
   (firstNonzero x.img (stepAt x.img s + 0xB) 1).map (fun o => { code := 7, sect := 5, off := o, detail := s })] ++
  (List.range 4).map (fun k =>
    let q := st.ref k
    let o := 0x20 + 16 * k
    if q.buf = 0xFFFF then none
    else firstFail [x.at (!(typeRefs st.type).contains k || decide (p.bufs.length ≤ q.buf)) 7 s o,
      x.at (decide (3 < q.level) && q.level != 0xFF) 7 s (o + 2), x.at (decide (5 < q.src)) 7 s (o + 3)]) ++
  (specReserved st.type).map (fun w =>
    (firstNonzero x.img (stepAt x.img s + w.1) w.2).map (fun o => { code := 7, sect := 5, off := o, detail := s })) ++
  [x.at (Nat.lor st.pans p.panMask != p.panMask || (st.prog != 0xFFFF && st.pans == 0)) 7 s 0x60]

/-- A buffer of the plan; one that no rule admits when there is none. -/
def Plan.buf (p : Plan) (b : Nat) : Buf := p.bufs.getD b { kind := 9, tier := 9, seg := 0, pasid := 0, off := 0, len := 0, addr := 0 }

/-- Check 0x07 for what each type requires. -/
def PlanCtx.c07type (x : PlanCtx) (s : Nat) (st : Step) : List (Option Refuse) :=
  let p := x.p
  let noRun : List (Option Refuse) := [x.at (st.period != 0) 7 s 0xC, x.at (st.seed != 0xFF) 7 s 8, x.at (st.pans != 0) 7 s 0x60]
  if st.type = tMove then if st.prog = 0xFFFF then noRun else []
  else if st.type = tReduce ∨ st.type = tGather then
    let c := st.sp 0x68 1
    [x.at (c != 0 && (decide (c < 12) || decide (22 < c))) 7 s 0x68, x.at (decide (2 < st.wireForm)) 7 s 0x69]
  else if st.type = tUpdate then
    let a := p.buf (st.sp 0x68 2)
    let b := p.buf (st.sp 0x6A 2)
    let w := st.sp 0x6C 1
    let others := (p.indexed.filter (fun e => e.2.type == tUpdate && decide (e.1 < s))).map (fun e => e.2)
    let A := st.sp 0x68 2
    let B := st.sp 0x6A 2
    [x.at (a.kind != 1) 7 s 0x68, x.at (b.kind != 1) 7 s 0x6A,
     x.at (A == B || a.tier != b.tier || a.len != b.len || a.tier == 0) 7 s 0x6A,
     x.at (w == 0 || decide (4 < w) || decide (a.len ≤ 4096) || (a.len - 4096) % (64 * max 1 w) != 0) 7 s 0x6C,
     x.at (others.any (fun u =>
       let C := u.sp 0x68 2
       let D := u.sp 0x6A 2
       !(A == C && B == D) && (A == C || A == D || B == C || B == D))) 7 s 0x68,
     x.at (others.any (fun u => u.sp 0x68 2 == A && u.sp 0x6A 2 == B && u.sp 0x6C 1 != w)) 7 s 0x6C,
     x.at (!p.hasAdvance) 7 s 0,
     x.at (p.brokenOps.any (fun o => o.2.contains s)) 7 s 6,
     x.at (st.period != 0 && ((p.prog st).map (fun g => g.inFmts.isEmpty)).getD false) 7 s 0xC]
  else if st.type = tSelect then
    let b := p.buf (st.sp 0x6C 2)
    let h := p.buf (st.sp 0x6E 2)
    [x.at (b.kind != 1 || b.tier != 1 || b.len % 128 != 0) 7 s 0x6C,
     x.at (h.tier == 2 || decide (h.len < 524288)) 7 s 0x6E,
     x.at (st.period != 0) 7 s 0xC, x.at (st.seed != 0xFF) 7 s 8, x.at (st.pans == 0) 7 s 0x60]
  else if st.type = tDemand then
    noRun ++ [x.at (st.sp 0x6A 1 == 0 || decide (64 < st.sp 0x6A 1)) 7 s 0x6A, x.at (st.sp 0x68 2 == 0) 7 s 0x68,
      x.at (st.sp 0x6C 4 == 0) 7 s 0x6C, x.at (st.in0.buf == 0xFFFF) 7 s 0x20, x.at (st.out.buf == 0xFFFF) 7 s 0x50,
      x.at (decide (1 < st.in0.src)) 7 s 0x23, x.at (decide (1 < st.out.src)) 7 s 0x53]
  else if st.type = tStream then
    let dl := st.sp 0x6F 1
    let po := st.sp 0x6E 1
    let sh := st.sp 0x6C 2
    noRun ++ [x.at (dl != 0xFF && (dl == 0 || decide (4 < dl))) 7 s 0x6F, x.at (decide (2 < po)) 7 s 0x6E,
      x.at ((sh == 0xFFFF) != (po == 0)) 7 s 0x6C, x.at (decide (2 < st.in0.src)) 7 s 0x23,
      x.at (sh != 0xFFFF && st.in0.src != 2) 7 s 0x23,
      x.at (sh != 0xFFFF && ((p.buf sh).tier != 1 || decide (1 < (p.buf sh).kind))) 7 s 0x6C]
  else if st.type = tWait then
    let e := st.sp 0x68 1
    let l := st.sp 0x69 1
    [x.at (decide (63 < e) || !bit p.eventMask e) 7 s 0x68, x.at (decide (3 < l) && l != 0xFF) 7 s 0x69]
  else if st.type = tSignal then
    let k := st.sp 0x68 1
    let e := st.sp 0x69 1
    let n := st.sp 0x6C 4
    [x.at (decide (2 < k)) 7 s 0x68, x.at (k != 2 && (decide (63 < e) || (k == 0 && !bit p.eventMask e))) 7 s 0x69,
     x.at (decide (2047 < st.sp 0x6A 2)) 7 s 0x6A, x.at (n == 0 || decide (2 ^ 24 ≤ n)) 7 s 0x6C]
  else if st.type = tLoop then
    [x.at (decide (3 < st.sp 0x6A 1)) 7 s 0x6A,
     x.at (decide (1 < st.sp 0x6B 1)) 7 s 0x6B]
  else []

/-! ### Check 0x08 (R82, R138, R209, R210) -/

/-- The working registers an instruction reads (R79). -/
def PInstr.reads (i : PInstr) : List Nat :=
  match i.opc with
  | 0x00 | 0x01 | 0x03 | 0x18 | 0x1D | 0x1E => []
  | 0x0B | 0x14 => [i.sa, i.sb, i.sc]
  | 0x08 | 0x09 | 0x0A | 0x0C | 0x0F | 0x10 | 0x1A | 0x1B | 0x1C => [i.sa, i.sb]
  | _ => [i.sa]

/-- The working register an instruction writes. -/
def PInstr.writes (i : PInstr) : Option Nat :=
  match i.opc with
  | 0x00 | 0x02 | 0x18 | 0x19 | 0x1A | 0x1B | 0x1C => none
  | _ => some i.dst

/-- Whether a program works element by element (R209). -/
def Prog.elementwise (g : Prog) : Bool :=
  let ix := List.zip (List.range g.code.length) g.code
  g.code.all (fun i => i.cond == 0 && i.opc != 0x1C) &&
  ix.all (fun e => e.2.terms g.lanes e.2.acc == 0 ||
    (g.code.drop (e.1 + 1)).any (fun j => j.empties e.2.acc) ) &&
  ix.all (fun e => e.2.reads.all (fun w => (g.code.take e.1).any (fun j => j.writes == some w)))

/-- Check 0x08. -/
def PlanCtx.c08 (x : PlanCtx) (s : Nat) (st : Step) : List (Option Refuse) :=
  let g := x.p.prog st
  let lap := st.type == tReduce || st.type == tGather
  let used := (List.range 4).filter (fun k => (st.ref k).buf != 0xFFFF)
  let want := match g with
    | some g => List.range g.inFmts.length
    | none => if (typeRefs st.type).contains 0 then [0] else []
  let hasOut := st.out.buf != 0xFFFF
  let outOk := if st.type = tGather ∨ st.type = tStream then true
    else match g with
      | some g => hasOut == g.outFmt.isSome
      | none => hasOut == (typeRefs st.type).contains 3
  used.map (fun k => x.at (((st.ref k).src == 3 || (st.ref k).src == 5) && !lap) 8 s (0x23 + 16 * k)) ++
  (List.range 3).map (fun k => x.at (want.contains k != used.contains k) 8 s (0x20 + 16 * k)) ++
  [x.at (lap && ((g.map (fun g => g.outFmt.isNone)).getD false)) 8 s 4, x.at (!outOk) 8 s 0x50] ++
  want.map (fun k => x.at ((st.ref k).src == 5) 8 s (0x23 + 16 * k)) ++
  [x.at (hasOut && (st.out.src == 3 || st.out.src == 4)) 8 s 0x53,
   x.at (st.type == tReduce && (want.filter (fun k => (st.ref k).src == 3)).length != 1) 8 s 0x23,
   x.at (st.seed == 0xFF && ((g.map (fun g => g.usesSr)).getD false)) 8 s 8,
   x.at (st.type == tReduce && st.wireForm == 1 && !((g.map (fun g => g.inFmts.length == 2 &&
     want.all (fun k => (st.ref k).src == 3 || g.inFmts[k]? == some .fp32))).getD false)) 8 s 4,
   x.at (lap && st.wireForm != 0 && !((g.map Prog.elementwise).getD true)) 8 s 4]

/-! ### Check 0x09 (R106, R118, R134, R135, R211, R231) -/

/-- Check 0x09. -/
def PlanCtx.c09 (x : PlanCtx) (s : Nat) (st : Step) : List (Option Refuse) :=
  let p := x.p
  let lap := st.type == tReduce || st.type == tGather
  let N := p.ringN st
  let sizes := if st.type = tUpdate then ((List.range N).map (fun k => 512 * p.stepSegUnits st k)).filter (fun n => n != 0) else [st.count]
  let runs := match p.prog st with
    | none => []
    | some g => sizes.flatMap (fun n =>
      let B := n / max 1 g.lanes
      let P := if st.period = 0 then B else st.period
      [x.at (n % max 1 (P * g.lanes) != 0 || n % max 1 g.lanes != 0) 9 s 0x10, x.at (B % max 1 P != 0) 9 s 0xC,
       x.at (decide (65536 < max (g.termBound 0 P B) (g.termBound 1 P B))) 9 s 0xC])
  let o := st.sp 0x68 4
  runs ++
  [x.at ((lap || st.type == tUpdate) && st.count % 512 != 0) 9 s 0x10,
   x.at (lap && (List.range N).any (fun k => decide (2 ^ 40 < p.chunks st k))) 9 s 0x68,
   x.at (st.type == tSelect && (st.count == 0 || st.count % 512 != 0)) 9 s 0x10,
   x.at (lap && st.wireForm != 0 && decide (20 < st.sp 0x68 1)) 9 s 0x68,
   x.at (st.type == tDemand && decide (st.sp 0x70 4 + 64 ≤ p.tables.length) &&
     st.count != st.sp 0x6A 1 * st.sp 0x6C 4 * le p.tables (st.sp 0x70 4) 1) 9 s 0x10,
   x.at (st.type == tStream && decide (o + 64 ≤ p.tables.length) && st.count != le p.tables o 4) 9 s 0x10]

/-! ### Check 0x0A (R105, R113) -/

/-- Check 0x0A. -/
def PlanCtx.c0A (x : PlanCtx) (s : Nat) (st : Step) : List (Option Refuse) :=
  let p := x.p
  let t := p.threads.getD (p.thrOf s) (0, 0)
  let body := s + 1 + st.sp 0x68 2
  let advance := st.type == tSeal && bit st.flags 0
  [x.at (!p.levelOk s st.baseLevel) 0xA s 0xA] ++
  (List.range 4).map (fun k => x.at ((st.ref k).buf != 0xFFFF && !p.levelOk s (st.ref k).level) 0xA s (0x22 + 16 * k)) ++
  [x.at (st.type == tWait && !p.levelOk s (st.sp 0x69 1)) 0xA s 0x69,
   x.at (advance && (s + 1 != t.1 + t.2 || !(p.encl s).isEmpty ||
     p.indexed.any (fun e => decide (e.1 < s) && e.2.type == tSeal && bit e.2.flags 0))) 0xA s 1,
   x.at (st.type == tLoop && (st.count == 0 || decide (2 ^ 32 ≤ st.count))) 0xA s 0x10,
   x.at (st.type == tLoop && (decide (t.1 + t.2 < body) || (p.encl s).any (fun e => decide (e.1 + 1 + e.2.sp 0x68 2 < body)) ||
     decide (4 ≤ (p.encl s).length))) 0xA s 0x68,
   x.at (st.type == tLoop && (p.levels s).contains (st.sp 0x6A 1)) 0xA s 0x6A]

/-! ### Check 0x0B (R102, R109, R169, R211, R231, R339) -/

/-- The tiles of a STREAM: byte offset of each entry's tile and its MAP word. -/
def Plan.streamEnts (p : Plan) (o : Nat) : List (Nat × Nat) :=
  let e := o + 64 + roundUp 64 (4 * le p.tables (o + 0x14) 1)
  (List.range (le p.tables o 4)).map (fun i => (le p.tables (e + 16 * i) 8, le p.tables (e + 16 * i + 8) 4))

/-- Whether `o` to `o + n` lies beyond TABLES. -/
def Plan.beyond (p : Plan) (o n : Nat) : Bool := decide (p.tables.length < o + n)

/-- Whether a stream table lies beyond TABLES. -/
def Plan.streamBeyond (p : Plan) (o : Nat) : Bool :=
  p.beyond o 64 || p.beyond o (64 + roundUp 64 (4 * le p.tables (o + 0x14) 1) + roundUp 64 (16 * le p.tables o 4))

/-- The bittern range of a SELECT: its first byte in a half (R196). -/
def Step.bitternAt (st : Step) (env : List Nat) : Nat := 4 * st.baseIx env

/-- The buffers a step names beside its operand references, each with the offset of the field that names it. -/
def Plan.namedBufs (p : Plan) (st : Step) : List (Nat × Nat) :=
  if st.type = tUpdate then [(st.sp 0x68 2, 0x68), (st.sp 0x6A 2, 0x6A)]
  else if st.type = tSelect then [(st.sp 0x6C 2, 0x6C), (st.sp 0x6E 2, 0x6E)]
  else if st.type = tStream then [(st.sp 0x6C 2, 0x6C), (le p.tables (st.sp 0x68 4 + 4) 2, 0x68)]
  else if st.type = tReduce ∧ st.wireForm = 2 then [(le p.tables (st.sp 0x6C 4 + 4) 2, 0x6C)]
  else []

/-- Whether a buffer leaves the segment it lies in (R339). -/
def PlanCtx.beyondSeg (x : PlanCtx) (b : Nat) : Bool :=
  let f := x.p.buf b
  f.kind == 1 && (match x.d.seg x.y f.pasid f.seg with
    | some g => decide (g.len < f.off + f.len)
    | none => false)

/-- Check 0x0B for one step. -/
def PlanCtx.c0B (x : PlanCtx) (s : Nat) (st : Step) : List (Option Refuse) :=
  let p := x.p
  let envs := p.envs s
  let outside (b start len : Nat) : Bool := decide ((p.buf b).len < start + len)
  let refs := (List.range 4).map (fun k =>
    let r := st.ref k
    x.at (r.buf != 0xFFFF && (x.beyondSeg r.buf || (r.src != 3 && r.src != 5 &&
      envs.any (fun env => outside r.buf (r.start env) (p.refLen st k))))) 0xB s (0x20 + 16 * k))
  let named := (p.namedBufs st).map (fun e => x.at (x.beyondSeg e.1) 0xB s e.2)
  let mx := match p.prog st with
    | none => false
    | some g => g.inFmts.any Fmt.isMx || ((g.outFmt.map Fmt.isMx).getD false)
  let o := st.sp 0x68 4
  let stream := if st.type != tStream || p.streamBeyond o then []
    else
      let es := p.streamEnts o
      let tb := le p.tables (o + 0x20) 8
      let db := le p.tables (o + 4) 2
      [x.at (envs.any (fun env => es.any (fun e => outside st.in0.buf (st.in0.start env + e.1) tb))) 0xB s 0x20,
       x.at (decide (db < p.bufs.length) && envs.any (fun env =>
         let at_ := (p.demandRef o env).2
         outside db at_ 64 || es.any (fun e => !bit e.2 31 && outside db (at_ + bits e.2 0 28) (bits e.2 28 3 + 1)))) 0xB s 0x68]
  let half := (p.buf (st.sp 0x6C 2)).len / 2
  let mine := envs.map st.bitternAt
  let before := (p.indexed.filter (fun e => e.2.type == tSelect && decide (e.1 < s) && e.2.sp 0x6C 2 == st.sp 0x6C 2)).flatMap (fun e =>
    (p.envs e.1).map (fun env => (e.2.bitternAt env, e.2.bitternAt env + 4 * e.2.count)))
  let selfMeets := (List.range mine.length).any (fun i => (mine.take i).any (fun b =>
    decide (b < mine.getD i 0 + 4 * st.count) && decide (mine.getD i 0 < b + 4 * st.count)))
  refs ++ named ++
  [x.at (mx && envs.any (fun env => st.baseIx env % 32 != 0)) 0xB s 0x18,
   x.at (st.type == tWait && envs.any (fun env => decide (st.waitSum env < 0) || decide ((2 : Int) ^ 63 - 1 < st.waitSum env))) 0xB s 0x70] ++
  stream ++
  (if st.type = tSelect then
    [x.at (mine.any (fun b => decide (half < b + 4 * st.count))) 0xB s 0x6C,
     x.at (selfMeets || mine.any (fun b => before.any (fun w => decide (b < w.2) && decide (w.1 < b + 4 * st.count)))) 0xB s 0x6C]
  else [])

/-- What reference `k` of a step reaches in its buffer: starts and lengths. The IN0 of a STREAM reaches the tiles of its
entries (R231). -/
def Plan.stretches (p : Plan) (st : Step) (env : List Nat) (k : Nat) : List (Nat × Nat) :=
  let a := (st.ref k).start env
  if st.type = tStream ∧ k = 0 then
    let o := st.sp 0x68 4
    if p.streamBeyond o then [] else (p.streamEnts o).map (fun e => (a + e.1, le p.tables (o + 0x20) 8))
  else [(a, p.refLen st k)]

/-- The TABLES offset of the demand reference a step reads, with the offset of the field that names the table (R205, R226). -/
def Plan.demandAt (p : Plan) (st : Step) : Option (Nat × Nat) :=
  if st.type = tReduce ∧ st.wireForm = 2 ∧ !p.beyond (st.sp 0x6C 4) 64 then some (st.sp 0x6C 4, 0x6C)
  else if st.type = tStream ∧ !p.streamBeyond (st.sp 0x68 4) ∧ le p.tables (st.sp 0x68 4 + 4) 2 ≠ 0xFFFF then some (st.sp 0x68 4, 0x68)
  else none

/-- What the demand reference of a step reads: its 64-byte header, and the bitmaps of the entries that have one. -/
def Plan.demandReads (p : Plan) (st : Step) (o : Nat) (env : List Nat) : List (Nat × Nat) :=
  let a := (p.demandRef o env).2
  (a, 64) :: (if st.type = tReduce then
      (p.demandEnts o).filterMap (fun e => if e.absent then none else some (a + e.off, e.len))
    else (p.streamEnts o).filterMap (fun e => if bit e.2 31 then none else some (a + bits e.2 0 28, bits e.2 28 3 + 1)))

/-- The ranges that an iteration's references to buffer `b` reach: step, the field that names the reference, whether it is an
output, start and length (R169). -/
def Plan.touches (p : Plan) (b : Nat) : List ((Nat × Nat × Bool) × Nat × Nat) :=
  p.indexed.flatMap (fun e =>
    (List.range 4).flatMap (fun k =>
      if (e.2.ref k).buf = b ∧ (e.2.ref k).src ≠ 3 ∧ (e.2.ref k).src ≠ 5 then
        (p.envs e.1).flatMap (fun env => (p.stretches e.2 env k).map (fun w => ((e.1, 0x20 + 16 * k, k == 3), w.1, w.2)))
      else []) ++
    (match p.demandAt e.2 with
    | some (o, fld) =>
      if le p.tables (o + 4) 2 = b then
        (p.envs e.1).flatMap (fun env => (p.demandReads e.2 o env).map (fun w => ((e.1, fld, false), w.1, w.2)))
      else []
    | none => []))

/-- R169 for one bank pair. -/
def PlanCtx.bank (x : PlanCtx) (X Y words : Nat) : Option Refuse :=
  let p := x.p
  let plane := max 1 (((p.buf X).len - 4096) / max 1 words)
  let tx := p.touches X
  let ty := p.touches Y
  let ws := ty.filter (fun w => w.1.2.2 && w.2.2 != 0)
  let fail (bad : Bool) (w : (Nat × Nat × Bool) × Nat × Nat) : Option Refuse := x.at bad 0xB w.1.1 w.1.2.1
  let meets (a b : (Nat × Nat × Bool) × Nat × Nat) : Bool := decide (a.2.1 < b.2.1 + b.2.2) && decide (b.2.1 < a.2.1 + a.2.2)
  let covered := ws.foldl (fun rs w => addRange w.2.1 (w.2.1 + w.2.2) rs) []
  lowFail ((tx ++ ty).map (fun w =>
      fail (w.2.2 != 0 && (decide (w.2.1 < 4096) || (w.2.1 - 4096) / plane != (w.2.1 + w.2.2 - 1 - 4096) / plane)) w) ++
    tx.map (fun w => fail w.1.2.2 w) ++
    (List.zip (List.range ws.length) ws).map (fun e => fail ((ws.take e.1).any (fun b => meets b e.2)) e.2) ++
    tx.map (fun w => fail (w.2.2 != 0 && !covered.any (fun r => decide (r.1 ≤ w.2.1) && decide (w.2.1 + w.2.2 ≤ r.2))) w))

/-! ### Check 0x0C (R83, R211, R231) -/

/-- Where a buffer lies physically: a space and an address (POOLED buffers never meet anything else). -/
def PlanCtx.span (x : PlanCtx) (b : Nat) : Nat × Nat :=
  let f := x.p.buf b
  match f.kind with
  | 0 => (16 + b, 0)
  | 1 =>
    match x.d.seg x.y f.pasid f.seg with
    | some g => (g.tier, g.yaddr + f.off)
    | none => (2 ^ 20 + 8 * f.pasid + f.seg, f.off)
  | _ => (2 ^ 30 + f.pasid, f.off)

/-- Whether two stretches of buffers overlap. -/
def PlanCtx.meet (x : PlanCtx) (a : Nat × Nat × Nat) (b : Nat × Nat × Nat) : Bool :=
  let p := x.span a.1
  let q := x.span b.1
  p.1 == q.1 && a.2.2 != 0 && b.2.2 != 0 && decide (p.2 + a.2.1 < q.2 + b.2.1 + b.2.2) && decide (q.2 + b.2.1 < p.2 + a.2.1 + a.2.2)

/-- Check 0x0C. -/
def PlanCtx.c0C (x : PlanCtx) (s : Nat) (st : Step) : List (Option Refuse) :=
  let p := x.p
  let places (odd : Bool) (env : List Nat) (k : Nat) : List (Nat × Nat × Nat) :=
    if (st.ref k).buf = 0xFFFF then [] else (p.stretches st env k).map (fun w => (p.bank odd (st.ref k).buf, w.1, w.2))
  let clash (as bs : List (Nat × Nat × Nat)) : Bool := as.any (fun a => bs.any (x.meet a))
  let wholeBuf (b : Nat) : List (Nat × Nat × Nat) := [(b, 0, (p.buf b).len)]
  let somewhere (f : List Nat → Bool → Bool) : Bool := (p.envs s).any (fun env => f env false || (!p.pairs.isEmpty && f env true))
  [x.at (st.out.buf != 0xFFFF && somewhere (fun env odd => (List.range 3).any (fun k =>
     clash (places odd env 3) (places odd env k)))) 0xC s 0x50,
   x.at (st.type == tSelect && somewhere (fun env odd =>
     let out := places odd env 3
     let hist := wholeBuf (st.sp 0x6E 2)
     let bittern := wholeBuf (st.sp 0x6C 2)
     clash out hist || clash out bittern || clash hist bittern || clash (out ++ hist ++ bittern) (places odd env 0))) 0xC s 0x50,
   x.at (st.type == tStream && st.sp 0x6C 2 != 0xFFFF && somewhere (fun env odd =>
     clash (wholeBuf (st.sp 0x6C 2)) (places odd env 0))) 0xC s 0x6C]

/-! ### Check 0x0D (R129 to R131, R160) -/

/-- A failure at byte `rel` of communicator `c`'s declaration. -/
def PlanCtx.cm (x : PlanCtx) (bad : Bool) (c rel : Nat) : Option Refuse := planFail x.img bad 0xD (secAt x.img 3 + 64 * c + rel) c

/-- Check 0x0D. -/
def PlanCtx.c0D (x : PlanCtx) : Option Refuse :=
  let p := x.p
  let ix := List.zip (List.range p.comms.length) p.comms
  let one (c : Nat) (k : CommDecl) : Option Refuse :=
    let hop (h j rel : Nat) : Option Refuse :=
      x.cm (if h = 0 then j != 0xFFFF else (j == 0xFFFF || decide (p.conns ≤ j))) c rel
    lowFail [x.cm (k.n == 0 || decide (4096 < k.n)) c 2, x.cm (decide (k.n ≤ k.pos)) c 4, x.cm (decide (1 < k.predHop)) c 6,
      x.cm (decide (1 < k.succHop)) c 7, x.cm (k.slots == 0 || decide (1024 < k.slots)) c 0x10,
      x.cm (decide (4095 < k.landBuf)) c 0x14, x.cm (k.weight == 0 || decide (16 < k.weight)) c 0x16,
      (firstNonzero x.img (secAt x.img 3 + 64 * c + 0x17) 41).map (fun o => { code := 0xD, sect := 3, off := o, detail := c }),
      x.cm ((p.comms.take c).any (fun j => j.ringId == k.ringId)) c 0,
      x.cm ((k.n == 1) != (k.predAddr == 0xFFFF)) c 8, x.cm ((k.n == 1) != (k.succAddr == 0xFFFF)) c 0xA,
      x.cm (k.n == 2 && k.predAddr != k.succAddr) c 8, hop k.predHop k.predConn 0xC, hop k.succHop k.succConn 0xE]
  let slotRef (s : Nat) (st : Step) : List (Option Refuse) := (List.range 4).map (fun k =>
    let r := st.ref k
    planFail x.img (r.buf != 0xFFFF && (r.src == 3 || r.src == 5) && ((p.buf r.buf).tier != 0 ||
      (p.envs s).any (fun env => decide ((p.buf r.buf).len < r.start env + p.refLen st k)))) 0xD (stepAt x.img s + 0x20 + 16 * k) st.comm)
  let ring := p.indexed.filter (fun e => e.2.isRing && e.2.prog != 0xFFFF && decide (2 ≤ p.ringN e.2))
  let pop (v : Nat) : Nat := ((List.range 64).filter (fun j => bit v j)).length
  let short (st : Step) : Bool :=
    let ts := ((ring.filter (fun e => Nat.land e.2.pans st.pans != 0)).map (fun e => p.thrOf e.1)).eraseDups
    decide (p.contexts * pop st.pans < ts.length)
  lowFail (ix.map (fun e => one e.1 e.2) ++
    [planFail x.img (p.comms.foldl (fun n k => n + k.slots) 0 != p.slots) 0xD (secAt x.img 1 + 0x28) noItem,
     x.steps slotRef] ++
    p.brokenOps.map (fun o => planFail x.img true 0xD (stepAt x.img (o.2.getLastD 0) + 6) o.1) ++
    ring.map (fun e => planFail x.img (short e.2) 0xD (stepAt x.img e.1 + 0x60) e.2.comm))

/-! ### Check 0x0E (R205, R220, R223, R226, R231, R239) -/

/-- A demand table (R205). -/
def PlanCtx.demandTable (x : PlanCtx) (s : Nat) (st : Step) : List (Option Refuse) :=
  let p := x.p
  let t := p.tables
  let o := st.sp 0x6C 4
  let E := le t o 4
  if p.beyond o 64 || p.beyond o (64 + roundUp 64 (16 * E)) then [x.at true 0xE s 0x6C]
  else
    let db := le t (o + 4) 2
    let es := p.demandEnts o
    let nz (a n : Nat) : Option Refuse := (firstNonzero t a n).bind (fun b => x.tbl true s b)
    [x.tbl (E == 0 || decide (65536 < E)) s o,
     x.tbl (if st.type = tReduce then db == 0xFFFF || decide (p.bufs.length ≤ db) else db != 0xFFFF) s (o + 4),
     x.tbl (!p.levelOk s (le t (o + 6) 1)) s (o + 6), nz (o + 7) 1, nz (o + 0x14) 44] ++
    (List.zip (List.range es.length) es).map (fun e =>
      let a := o + 64 + 16 * e.1
      let prevEnd := match es[e.1 - 1]? with
        | some q => if e.1 = 0 then 0 else q.first + q.units
        | none => 0
      firstFail [x.tbl (bits (le t a 8) 0 50 % 512 != 0 || bits (le t a 8) 50 13 != 0 || decide (e.2.first < prevEnd)) s a,
        x.tbl (e.2.units == 0 || decide (st.count < 512 * (e.2.first + e.2.units))) s (a + 8),
        x.tbl (st.type == tReduce && !e.2.absent && (p.envs s).any (fun env =>
          decide ((p.buf db).len < (p.demandRef o env).2 + e.2.off + e.2.len))) s (a + 12)]) ++
    [nz (o + 64 + 16 * E) (roundUp 64 (16 * E) - 16 * E)]

/-- A demand-step table (R220). -/
def PlanCtx.demandStep (x : PlanCtx) (s : Nat) (st : Step) : List (Option Refuse) :=
  let p := x.p
  let t := p.tables
  let o := st.sp 0x70 4
  if p.beyond o 64 then [x.at true 0xE s 0x70]
  else
    let mode := le t (o + 1) 1
    let lim := le t (o + 4) 2
    let lk := le t (o + 0xC) 4
    let nz (a n : Nat) : Option Refuse := (firstNonzero t a n).bind (fun b => x.tbl true s b)
    [x.tbl (le t o 1 == 0 || decide (16 < le t o 1)) s o, x.tbl (decide (1 < mode)) s (o + 1), x.tbl (decide (3 < le t (o + 2) 1)) s (o + 2),
     nz (o + 3) 1, x.tbl (lim == 0) s (o + 4), x.tbl (mode == 0 && le t (o + 8) 2 == 0) s (o + 8), nz (o + 0xA) 2, nz (o + 0x10) 48] ++
    (if mode = 1 then
      if p.beyond lk (roundUp 64 (2 * lim)) then [x.tbl true s (o + 0xC)]
      else (List.range lim).map (fun i =>
        let v := le t (lk + 2 * i) 2
        x.tbl (v != 0xFFFF && decide (st.sp 0x68 2 ≤ v)) s (lk + 2 * i))
    else [])

/-- TILE_BYTES of a tile of `n` elements of format code `f` at a sparsity (R223). -/
def tileBytes (f sparsity n : Nat) : Nat :=
  let S := if sparsity = 0 then n else n / 2
  let g := Fmt.ofCode f
  roundUp 64 (elemBytes g S) + roundUp 64 (scaleBytes g S) + (if sparsity = 0 then 0 else roundUp 64 (n / 8))

/-- A stream table (R226, R231) and its shed (R239). -/
def PlanCtx.streamTable (x : PlanCtx) (s : Nat) (st : Step) : List (Option Refuse) :=
  let p := x.p
  let t := p.tables
  let o := st.sp 0x68 4
  if p.streamBeyond o then [x.at true 0xE s 0x68]
  else
    let f := le t (o + 7) 1
    let sp := le t (o + 0x15) 1
    let A := le t (o + 0x14) 1
    let db := le t (o + 4) 2
    let tile := le t (o + 0x20) 8
    let E := le t o 4
    let ents := o + 64 + roundUp 64 (4 * A)
    let mxOrInt := ((Fmt.ofCode f).map (fun g => g.isMx || g == .int8 || g == .int32)).getD true
    let nz (a n : Nat) : Option Refuse := (firstNonzero t a n).bind (fun b => x.tbl true s b)
    let sh := st.sp 0x6C 2
    [x.tbl (E == 0 || decide (65536 < E)) s o, x.tbl (db != 0xFFFF && decide (p.bufs.length ≤ db)) s (o + 4),
     x.tbl (!p.levelOk s (le t (o + 6) 1)) s (o + 6), x.tbl (decide (13 < f)) s (o + 7),
     x.tbl (A == 0 || decide (64 < A)) s (o + 0x14), x.tbl (decide (2 < sp) || (sp != 0 && mxOrInt)) s (o + 0x15),
     x.tbl (le t (o + 0x16) 2 == 0 || decide (2 ^ x.bays ≤ le t (o + 0x16) 2)) s (o + 0x16),
     x.tbl (le t (o + 0x18) 8 % 256 != 0) s (o + 0x18), x.tbl (tile != tileBytes f sp (le t (o + 0x18) 8)) s (o + 0x20),
     nz (o + 0x29) 23] ++
    (List.range A).map (fun a => x.tbl (decide (4095 < le t (o + 64 + 4 * a + 2) 2)) s (o + 64 + 4 * a + 2)) ++
    [nz (o + 64 + 4 * A) (roundUp 64 (4 * A) - 4 * A)] ++
    (List.range E).map (fun i =>
      let a := ents + 16 * i
      let m := le t (a + 8) 4
      firstFail [x.tbl (le t a 8 % 64 != 0) s a,
        x.tbl ((!bit m 31 && db == 0xFFFF) || decide (bits m 28 3 + 1 < ceilDiv A 8)) s (a + 8), nz (a + 12) 4]) ++
    [nz (ents + 16 * E) (roundUp 64 (16 * E) - 16 * E),
     x.at (sh != 0xFFFF && (
       let n := (p.buf sh).len
       tile == 0 || decide (n < 4096 + tile) || (n - 4096) % max 1 tile != 0 || decide (255 < (n - 4096) / max 1 tile) ||
       p.indexed.any (fun e => decide (e.1 < s) && e.2.type == tStream && e.2.sp 0x6C 2 == sh &&
         le t (e.2.sp 0x68 4 + 0x20) 8 != tile))) 0xE s 0x6C]

/-- Check 0x0E. -/
def PlanCtx.c0E (x : PlanCtx) (s : Nat) (st : Step) : List (Option Refuse) :=
  if (st.type = tReduce ∨ st.type = tGather) ∧ st.wireForm = 2 then x.demandTable s st
  else if st.type = tDemand then x.demandStep s st
  else if st.type = tStream then x.streamTable s st
  else []

/-! ### Checks 0x20 to 0x27 -/

/-- Place POOLED buffers in ascending index, each at the lowest free address that fits it (R337): the buffers with their
addresses, or the tier that falls short and the bytes placed in it before. -/
def placePools (d : Dev) (y : Nat) (held : List (List (Nat × Nat))) (placed : List Nat) : List Buf → Except (Nat × Nat) (List Buf)
  | [] => .ok []
  | b :: bs =>
    if b.kind ≠ 0 then (placePools d y held placed bs).map (fun r => b :: r)
    else
      let n := roundUp 4096 b.len
      match lowestFit (d.capacity y b.tier) n 0 (held.getD b.tier []) with
      | none => .error (b.tier, placed.getD b.tier 0)
      | some a =>
        (placePools d y (held.set b.tier (addRange a (a + n) (held.getD b.tier []))) (placed.set b.tier (placed.getD b.tier 0 + n)) bs).map
          (fun r => { b with addr := a } :: r)

/-- The POOLED buffers among `bufs` placed in the tier memory that no segment holds. -/
def PlanCtx.place (x : PlanCtx) (bufs : List Buf) : Except (Nat × Nat) (List Buf) :=
  placePools x.d x.y ((List.range 3).map (fun t => (x.d.segRanges x.y t).foldl (fun rs r => addRange r.1 r.2 rs) [])) [0, 0, 0] bufs

/-- The buffers of a plan, the POOLED ones placed in the yard's pools. -/
def PlanCtx.placed (x : PlanCtx) : Except (Nat × Nat) (List Buf) := x.place x.p.bufs

/-- A resource refusal. -/
def PlanCtx.res (x : PlanCtx) (bad : Bool) (code rel detail : Nat) : Option Refuse := failIf bad code 1 (secAt x.img 1 + rel) detail

/-- Checks 0x20 to 0x27. R117 gives no logical pan for CONTEXTS out of range, for which the detail of 0x20 is 0.
DESIGN CHOICE, log 46. -/
def PlanCtx.resources (x : PlanCtx) : Option Refuse :=
  let p := x.p
  let pc := 4 * x.bays
  let total := x.d.connCount x.y
  let beyond := (List.range 64).find? (fun j => bit p.panMask j && decide (pc ≤ j))
  let inUse := ((List.range p.conns).filter (fun j => (x.d.conn x.y (total - p.conns + j)).st != 0)).length
  let declared : List Nat := [p.loft, p.near, p.far]
  let short (t : Nat) : Option Refuse := match x.place (p.bufs.filter (fun b => b.kind == 0 && b.tier == t)) with
    | .ok _ => none
    | .error (_, n) => x.res true (0x24 + t) (0x10 + 8 * t) (ceilDiv (declared.getD t 0 - n) (if t = 0 then 1024 else 2 ^ 20))
  let seg (i : Nat) (b : Buf) : Option Refuse :=
    let ok := match b.kind with
      | 0 => true
      | 1 => ((x.d.seg x.y b.pasid b.seg).map (fun g => g.tier == b.tier)).getD false
      | _ => x.d.hostCtx x.y b.pasid
    failIf (!ok) 0x27 2 (secAt x.img 2 + 32 * i) i
  firstFail ([x.res beyond.isSome 0x20 0 (beyond.getD 0), x.res (p.contexts == 0 || decide (8 < p.contexts)) 0x20 8 0,
    x.res (decide (64 * x.bays < p.comms.length)) 0x21 0xA (p.comms.length - 64 * x.bays),
    x.res (decide (total < p.conns)) 0x22 0xC (p.conns - total), x.res (inUse != 0) 0x22 0xC inUse,
    x.res (decide (2048 * x.bays < p.slots)) 0x23 0x28 (p.slots - 2048 * x.bays),
    short 0, short 1, short 2] ++
    (List.zip (List.range p.bufs.length) p.bufs).map (fun e => seg e.1 e.2))

/-- The checks of R117 in order, on a fetched image of PLN_IMAGE_LEN bytes; the first failure.
DEDUCED, log 17; DESIGN CHOICE, log 46. -/
def checkPlan (d : Dev) (y : Nat) (img : List Byte) : Option Refuse :=
  let bays := (d.baysOf y).length
  let x : PlanCtx := { img := img, p := Plan.parse img, d := d, y := y, bays := bays }
  firstFail [failIf (le img 8 4 != d.fld (R.PLN_IMAGE_LEN y)) 1 0 8 0, plan02 img, plan03 img bays, plan04 img bays, plan05 img,
    plan06 img, x.steps (fun s st => x.c07fields s st ++ x.c07type s st), x.steps x.c08, x.steps x.c09, x.steps x.c0A,
    lowFail (x.steps x.c0B :: (x.p.steps.filter (fun st => st.type == tUpdate)).map (fun st => x.bank (st.sp 0x68 2) (st.sp 0x6A 2) (st.sp 0x6C 1))),
    x.steps x.c0C, x.c0D, x.steps x.c0E, x.resources]

end Sys2Proof.Machine
end

