-- ==== Sys2Proof/Machine/Plan.lean ====
section
/-! DEFINITION. The commands of PLN_CMD and what a load and an unload do (04: R117 to R125; 05: R132, R133, R159; 08: R232,
R234, R239; 09: R257). -/

namespace Sys2Proof.Machine

variable {d0 : Dev}

/-- A PLN command is ignored (R121). -/
def plnErr (y : Nat) : M d0 Unit := wr (R.PLN_STATUS_CMD_ERR y) 1

/-- Run a PLN command by the state of the sequencer; after a yard-fatal error it is ignored (R463). -/
def plnCmd (y : Nat) (f : Nat → M d0 Unit) : M d0 Unit := do
  let d ← dev
  if !(← yfReach y) then return
  if (d.yard y).fatal then plnErr y else f (d.plnState y)

/-- LOAD (R117, R121): the fetch begins. -/
def loadDo (y : Nat) : M d0 Unit :=
  plnCmd y (fun st => do
    if st ≠ 0 then plnErr y
    else
      let d ← dev
      let a := d.fld (R.PLN_IMAGE_ADDR y)
      let n := d.fld (R.PLN_IMAGE_LEN y)
      wr (R.PLN_STATUS_STATE y) 1
      wr (R.PLN_STATUS_REFUSED y) 0
      modYard y (fun r => { r with loadSnap := some (a, n) })
      if d.canMaster y then emit (.hostRead (y + 1) a n) else pure ())

@[inherit_doc loadDo] def execLoad (y : Nat) (s : State) : Host.Outcome State Fault Refusal :=
  perform s (coreTake y (.load y) none (loadDo y))

/-- A communicator at load (R132, R133): IDLE, ATTEMPT 0, one credit for each slot. -/
def Comm.loaded (k : CommDecl) : Comm :=
  { opseq := 0, check := true, code := 0, held := none, abortCode := 0, abortOrigin := 0, abortCause := 0, fwdAbort := false,
    bwdAbort := false, verdict := none, slots := [], credits := k.slots, txq := [], kept := none, begun := [], landOut := 0,
    landq := [], notes := [], keptByHost := false, early := false }

/-- A thread before its first step. -/
def Thr.first (e : Nat × Nat) : Thr :=
  let pc := if e.2 = 0 then 0 else e.1
  { pc := pc, stop := pc + e.2, loops := [], active := none, waiting := false }

/-- The plan's resources are held (R95, R100, R120). -/
def acceptPlan (y : Nat) (p : Plan) : M d0 Unit := do
  let d ← dev
  each (p.bufs.filter (fun b => b.kind == 0)) (fun b => act (.clear (d.addr y b.tier b.addr) (roundUp 4096 b.len)))
  modYard y (fun r => { r with plan := some p, loadSnap := none, thrs := p.threads.map Thr.first, running := false, failed := false, wrote := [], recHit := [] })
  each (List.zip (List.range p.comms.length) p.comms) (fun e => do
    act (.comm (yk y e.1) (some (Comm.loaded e.2)))
    wr (R.TRN_COMM_STATE y e.1) (16 * e.2.pos)
    wr (R.TRN_COMM_LAST y e.1) 0
    wr (R.TRN_COMM_OPS y e.1) 0)
  let base := d.connCount y - p.conns
  wr (R.TRN_PLAN_CONN_BASE y) base
  each (List.range p.conns) (fun j => modConn y (base + j) (fun c => { Conn.free with st := 1, lastInc := c.lastInc, gen := c.gen, ctr := c.ctr }))
  each (List.range (4 * (d.baysOf y).length)) (fun j => do
    modPan (panIx y j) (fun p => { Pan.reset with order := p.order })
    showPan (panIx y j))
  each (List.range 64) (fun e => wr (R.PLN_EVENT y e) 0)
  wr (R.DRV_EPOCH y) 0
  each p.sheds (fun sh => do
    match (← dev).shedAt y p sh.1 with
    | none => pure ()
    | some a =>
      each (List.range sh.2.2) (shedInvalidate y a)
      let _ ← writeMem y 1 (a + 4080) (leBytes 8 sh.2.1 ++ leBytes 2 sh.2.2))
  wrWords (R.PLN_MEASURE y) 12 (sha p.image)
  each (List.range p.threads.length) (showThread y)
  showPools y

/-- Everything the plan held is given back (R125, R232, R257). -/
def dropPlan (y : Nat) : M d0 Unit := do
  let d ← dev
  match (d.yard y).plan with
  | none => pure ()
  | some p =>
    each (List.range p.threads.length) (fun t => freeThread y t)
    each (List.range p.comms.length) (fun c => do
      act (.comm (yk y c) none)
      wr (R.TRN_COMM_STATE y c) 0
      wr (R.TRN_COMM_LAST y c) 0
      wr (R.TRN_COMM_OPS y c) 0)
    let base := d.fld (R.TRN_PLAN_CONN_BASE y)
    each (List.range p.conns) (fun j => do
      let c := (← dev).conn y (base + j)
      if c.st = 2 ∨ c.st = 3 then connReset y (base + j) cTargetUnavailable else pure ()
      modConn y (base + j) (fun c => { c with st := 5 }))
    wr (R.TRN_PLAN_CONN_BASE y) (d.connCount y)
  modYard y (fun r => { r with plan := none, loadSnap := none, thrs := [], running := false, failed := false, wrote := [], recHit := [], lands := [], landReqs := [] })
  wr (R.DRV_LAND_OPEN y) 0
  each (List.range 12) (fun t => wr (R.PLN_THREAD y t) 0)
  each (List.range 12) (fun i => wr (R.PLN_MEASURE y i) 0)
  showDoubt y
  showPools y

/-- The connections of a plan refused after check 0x22 has passed, which the load has taken, pass to QUARANTINE (R257).
DEDUCED, log 46. -/
def refuseConns (y conns : Nat) (r : Refuse) : M d0 Unit := do
  let total := (← dev).connCount y
  if r.code ≤ 0x22 then pure ()
  else each (List.range conns) (fun j => modConn y (total - conns + j) (fun c => { c with st := 5 }))

/-- A LOAD ends (R117, R127). -/
def loadEnd (y : Nat) (r : Option Refuse) : M d0 Unit := do
  match r with
  | none => wr (R.PLN_STATUS_STATE y) 2
  | some r =>
    wr (R.PLN_REPORT_CODE y) (r.code + 2 ^ 8 * (if r.code < 0x20 then cPlanRefused else cResourceRefused) + 2 ^ 16 * r.sect)
    wr (R.PLN_REPORT_OFFSET y) (r.off % 2 ^ 32)
    wr (R.PLN_REPORT_DETAIL y) (r.detail % 2 ^ 32)
    wr (R.PLN_STATUS_REFUSED y) 1
    wr (R.PLN_STATUS_STATE y) 0
    modYard y (fun r => { r with loadSnap := none })
  plnEvent y 7 2

/-- PLAN_LOAD_DONE (R117, R119, R120). DESIGN CHOICE, log 46. -/
def execPlanLoadDone (y : Nat) (data : Option (List Byte)) (s : State) : Host.Outcome State Fault Refusal :=
  perform s do
    let d ← dev
    if !d.present y || d.plnState y != 1 || d.frozen y then return
    match if d.canMaster y then data else none with
    | none => loadEnd y (some { code := 1, sect := 0, off := 0, detail := 0 })
    | some bs =>
      let n := (((d.yard y).loadSnap).map (fun e => e.2)).getD 0
      let img := (bs ++ zeros (n - bs.length)).take n
      match checkPlan d y img with
      | some r =>
        refuseConns y (Plan.parse img).conns r
        loadEnd y (some r)
      | none =>
        let x : PlanCtx := { img := img, p := Plan.parse img, d := d, y := y, bays := (d.baysOf y).length }
        match x.placed with
        | .error _ => loadEnd y (some { code := 0x24, sect := 1, off := 0, detail := 0 })
        | .ok bufs =>
          acceptPlan y { x.p with bufs := bufs }
          loadEnd y none

/-- START (R121, R122). -/
def startDo (y : Nat) : M d0 Unit :=
  plnCmd y (fun st => do
    if st ≠ 2 then plnErr y
    else
      let n ← rd (R.PLN_ITER_COUNT y)
      modYard y (fun r => { r with iters := n, endless := n == 0 })
      wr (R.PLN_ITER_DONE y) 0
      wr (R.PLN_STATUS_STATE y) 3)

@[inherit_doc startDo] def execStart (y : Nat) (s : State) : Host.Outcome State Fault Refusal :=
  perform s (coreTake y (.start y) none (startDo y))

/-- STOP (R121, R122): between two iterations it takes effect at once. DESIGN CHOICE, log 46. -/
def stopDo (y : Nat) : M d0 Unit :=
  plnCmd y (fun st => do
    match st with
    | 3 => wr (R.PLN_STATUS_STATE y) (if ((← dev).yard y).running then 4 else 2)
    | 2 | 4 | 5 => pure ()
    | _ => plnErr y)

@[inherit_doc stopDo] def execStop (y : Nat) (s : State) : Host.Outcome State Fault Refusal :=
  perform s (coreTake y (.stop y) none (stopDo y))

/-- UNLOAD (R121, R125). -/
def unloadDo (y : Nat) : M d0 Unit :=
  plnCmd y (fun st => do
    match st with
    | 0 => pure ()
    | 2 | 5 => wr (R.PLN_STATUS_STATE y) 7
    | _ => plnErr y)

@[inherit_doc unloadDo] def execUnload (y : Nat) (s : State) : Host.Outcome State Fault Refusal :=
  perform s (coreTake y (.unload y) none (unloadDo y))

/-- PLAN_UNLOAD_DONE (R121): the resources are released. -/
def execPlanUnloadDone (y : Nat) (s : State) : Host.Outcome State Fault Refusal :=
  perform s do
    let d ← dev
    if !d.present y || d.plnState y != 7 then return
    dropPlan y
    wr (R.PLN_STATUS_STATE y) 0

/-- CLEAR (R121, R124). -/
def clearDo (y : Nat) : M d0 Unit :=
  plnCmd y (fun st => do
    if st = 5 then wr (R.PLN_STATUS_STATE y) 2 else plnErr y)

@[inherit_doc clearDo] def execClear (y : Nat) (s : State) : Host.Outcome State Fault Refusal :=
  perform s (coreTake y (.clear y) none (clearDo y))

end Sys2Proof.Machine
end

