-- ==== Sys2Proof/Machine/Sparse.lean ====
section
/-! DEFINITION. The SELECT step and the bittern (07: R191 to R197, R212 to R215). -/

namespace Sys2Proof.Machine

variable {d0 : Dev}

/-- The compensated value of an element, FP32 encodings in and out, and the flags its one rounding raises (R69, R191). -/
def compensate (g e : Nat) : Nat × Flags :=
  let s := exactAdd (Fmt.decodeElem .fp32 g) (Fmt.decodeElem .fp32 e)
  let q := roundTo .fp32 .rne false 0 s.1
  (Fmt.encodeElem .fp32 q.1, flOr s.2 q.2)

/-- The score key of a compensated value (R192). -/
def scoreKey (c : Nat) : Nat := if Fmt.decodeElem .fp32 c = .nan then 0xFFFF else bits c 15 16

/-- The key of a block: the largest of its elements' keys. -/
def blockKey (cs : List Nat) : Nat := cs.foldl (fun m c => max m (scoreKey c)) 0

/-- Target count of a SELECT over `nb` blocks (R193). -/
def selectTarget (density nb : Nat) : Nat := ceilDiv (density * nb) (2 ^ 32)

/-- What a SELECT finds (R194): the threshold key, the blocks of that key, how many of them are taken, and the marks. -/
structure Selection where
  kt : Nat
  atKey : Nat
  taken : Nat
  marks : List Bool
deriving DecidableEq, Repr

/-- Mark every block above the threshold and the first `taken` of the threshold key. -/
def markBlocks (kt taken : Nat) : List Nat → List Bool
  | [] => []
  | k :: ks =>
    if kt < k then true :: markBlocks kt taken ks
    else if k = kt ∧ taken ≠ 0 then true :: markBlocks kt (taken - 1) ks
    else false :: markBlocks kt taken ks

/-- Select `K` of the blocks with these keys (R193, R194). -/
def selectBlocks (keys : List Nat) (K : Nat) : Selection :=
  if K = 0 then { kt := 0, atKey := 0, taken := 0, marks := keys.map (fun _ => false) }
  else
    let atLeast (k : Nat) : Nat := (keys.filter (fun j => decide (k ≤ j))).length
    let kt := (keys.filter (fun k => decide (K ≤ atLeast k))).foldl max 0
    let above := (keys.filter (fun j => decide (kt < j))).length
    { kt := kt, atKey := (keys.filter (fun j => j == kt)).length, taken := K - above, marks := markBlocks kt (K - above) keys }

/-- The histogram of pass 1: 65,536 counts of 8 bytes. -/
def histBytes (keys : List Nat) : List Byte :=
  (List.range 65536).flatMap (fun k => leBytes 8 (keys.filter (fun j => j == k)).length)

/-- The header and the block map of a selected set (R195). -/
def selectedHead (count K step : Nat) (q : Selection) : List Byte :=
  let nb := count / 32
  let map := mapOf q.marks
  leBytes 8 count ++ leBytes 8 nb ++ leBytes 8 K ++ leBytes 2 q.kt ++ zeros 6 ++ leBytes 8 q.atKey ++ leBytes 8 q.taken ++
    leBytes 8 step ++ zeros 8 ++ map ++ zeros (64 * ceilDiv count 16384 - map.length)

/-- The FP32 words of a byte string. -/
def words32 (n : Nat) (bs : List Byte) : List Nat := unpackElems 32 n bs

/-- SELECT (R191 to R197): both passes over the compensated values, then the histogram, the selected set and the inactive
half of the bittern are written. -/
def execSelect (y t : Nat) (host : HostSide) (s : State) : Host.Outcome State Fault Refusal :=
  perform s do
    match ← beginStep y t tSelect with
    | none => return
    | some (p, st, env, _) =>
      let d ← dev
      let n := st.count
      let bit_ := p.buf (st.sp 0x6C 2)
      let half := bit_.len / 2
      let at_ := st.bitternAt env
      let cur := if d.odd y then half else 0
      let oth := if d.odd y then 0 else half
      match d.refPlace y p st env 0, d.refPlace y p st env 3, d.bufPlace y bit_ (cur + at_), d.bufPlace y bit_ (oth + at_),
          d.bufPlace y (p.buf (st.sp 0x6E 2)) 0 with
      | some src, some dst, some now, some next, some hist =>
        match ← readPlace y (y + t) src (4 * n) (.ctx 48 t) host with
        | .wait => return
        | .err code => setCode y t code
        | .ok gs =>
          match ← readPlace y (y + t) now (4 * n) (.ctx 48 t) { xl := .hit, data := [], bad := false } with
          | .wait => return
          | .err code => setCode y t code
          | .ok es =>
            match ← placeReach y (y + t) dst (selBytes n) (.ctx 48 t) host with
            | .wait => return
            | .err code => setCode y t code
            | .ok _ =>
            let sums := List.zipWith compensate (words32 n gs) (words32 n es)
            raiseFlags y (sums.foldl (fun f c => flOr f c.2) 0)
            let cs := sums.map (fun c => c.1)
            let blocks := chunksOf (n / 32 + 1) 32 cs
            let keys := blocks.map blockKey
            let K := selectTarget (st.sp 0x68 4) (n / 32)
            let q := selectBlocks keys K
            let head := selectedHead n K (d.fld (R.PLN_STEP_COUNT y)) q
            let rest := List.zipWith (fun m b => if m then b.map (fun _ => 0) else b) q.marks blocks
            let okH ← writePlace y hist (histBytes keys)
            match dst with
            | .mem tier a => act (.spoil (d.addr y tier (a + head.length)) (4 * n))
            | _ => pure ()
            let okO ← writePlace y dst head
            let oks ← gather (List.zip (List.range blocks.length) (List.zip q.marks blocks)) (fun e =>
              if e.2.1 then writePlace y (dst.add (head.length + 128 * e.1)) (packElems 32 e.2.2) else pure true)
            let okB ← match next with
              | .mem tier a => writeMem y tier a (packElems 32 rest.flatten)
              | .host _ _ => writePlace y next (packElems 32 rest.flatten)
            setCode y t (if okH && okO && okB && oks.all id then 0 else if dst.inHost && !okO then cHostLost else cMemUncorrectable)
      | _, _, _, _, _ => setCode y t cLocalProtection

end Sys2Proof.Machine
end

