-- ==== Sys2Proof/Machine/Drover.lean ====
section
/-! DEFINITION. The drovers: DEMAND and STREAM steps, deliveries to landing buffers, the landing directory and the shed
(08; R366, R367). -/

namespace Sys2Proof.Machine

variable {d0 : Dev}

/-! ### DEMAND (R219 to R222) -/

/-- The class of a router entry (R221); a counted entry carries its local index. -/
inductive DemandClass where
  | absent
  | invalid
  | other
  | zeroGate
  | counted (x : Nat)
deriving DecidableEq, Repr

/-- Whether a BF16 word is a NaN. -/
def bf16Nan (g : Nat) : Bool := bits g 7 8 == 0xFF && bits g 0 7 != 0

/-- The local index of an identifier below ID_LIMIT, when the step serves it (R220). -/
def Plan.demandServed (p : Plan) (o experts id : Nat) : Option Nat :=
  if le p.tables (o + 1) 1 = 0 then
    let lo := le p.tables (o + 6) 2
    let by_ := max 1 (le p.tables (o + 8) 2)
    if id < lo ∨ (id - lo) % by_ ≠ 0 ∨ experts ≤ (id - lo) / by_ then none else some ((id - lo) / by_)
  else
    let x := le p.tables (le p.tables (o + 0xC) 4 + 2 * id) 2
    if x = 0xFFFF then none else some x

/-- The class of the entry with identifier `id` and gate weight `g` (R221). -/
def Plan.demandClass (p : Plan) (o experts id g : Nat) : DemandClass :=
  if id = 0xFFFF then .absent
  else if le p.tables (o + 4) 2 ≤ id ∨ bf16Nan g then .invalid
  else match p.demandServed o experts id with
    | none => .other
    | some x => if bits g 0 15 = 0 ∧ !bit (le p.tables (o + 2) 1) 1 then .zeroGate else .counted x

/-- The bitmap of expert `x` over `accels` accelerators, `bb` bytes. -/
def bitmapOf (cs : List (Nat × DemandClass)) (bb x : Nat) : List Byte :=
  let on := (cs.filter (fun e => e.2 == .counted x)).map (fun e => e.1)
  leBytes bb (on.eraseDups.foldl (fun n a => n + 2 ^ a) 0)

/-- The demand output of a step over classed entries, each with its accelerator (R222). -/
def demandOutput (step experts accels topk window : Nat) (cs : List (Nat × DemandClass)) : List Byte :=
  let bb := ceilDiv accels 8
  let maps := (List.range experts).flatMap (bitmapOf cs bb)
  let set := (List.range (8 * maps.length)).foldl (fun n i => n + b2n (bit ((maps.getD (i / 8) 0).toNat) (i % 8))) 0
  let count (f : DemandClass → Bool) : Nat := (cs.filter (fun e => f e.2)).length
  let counted := count (fun c => match c with
    | .counted _ => true
    | _ => false)
  leBytes 8 step ++ leBytes 2 experts ++ leBytes 1 accels ++ leBytes 1 topk ++ leBytes 4 window ++ leBytes 4 counted ++
    leBytes 4 set ++ leBytes 4 (count (fun c => c == .other)) ++ leBytes 4 (count (fun c => c == .zeroGate)) ++
    leBytes 4 (count (fun c => c == .absent)) ++ leBytes 4 (count (fun c => c == .invalid)) ++ zeros 24 ++ maps ++
    zeros (roundUp 64 maps.length - maps.length)

/-- DEMAND (R221, R222, R243). DEDUCED, log 40. -/
def execDemand (y t : Nat) (host : HostSide) (s : State) : Host.Outcome State Fault Refusal :=
  perform s do
    match ← beginStep y t tDemand with
    | none => return
    | some (p, st, env, _) =>
      let d ← dev
      let o := st.sp 0x70 4
      let experts := st.sp 0x68 2
      let accels := st.sp 0x6A 1
      let window := st.sp 0x6C 4
      let topk := le p.tables o 1
      match d.refPlace y p st env 0, d.refPlace y p st env 3 with
      | some src, some dst =>
        match ← readPlace y (y + t) src (4 * st.count) (.ctx 48 t) host with
        | .wait => showDrovers y
        | .err code => setCode y t code
        | .ok bs =>
          match ← placeReach y (y + t) dst (demandBytes accels experts) (.ctx 48 t) host with
          | .wait => showDrovers y
          | .err code => setCode y t code
          | .ok _ =>
          bump (R.DRV_READ y t) (4 * st.count)
          let cs := (List.range st.count).map (fun j =>
            (j / max 1 (window * topk), p.demandClass o experts (le bs (4 * j) 2) (le bs (4 * j + 2) 2)))
          let bad := (cs.filter (fun e => e.2 == .invalid)).length
          bump (R.DRV_DEMAND_INVALID y) bad
          if bit (le p.tables (o + 2) 1) 0 ∧ bad ≠ 0 then setCode y t cLocalProtection
          else if ← writePlace y dst (demandOutput (d.fld (R.PLN_STEP_COUNT y)) experts accels topk window cs) then setCode y t 0
          else setCode y t (if dst.inHost then cHostLost else cMemUncorrectable)
          showDrovers y
      | _, _ => setCode y t cLocalProtection

/-! ### Stored tiles (R223 to R225) -/

/-- The logical values of a sparse tile: for each mask of `g` bits with `k` of them set, the stored values at its set bits
and +0 elsewhere; none at a mask error (R224). -/
def spreadMasks (g k : Nat) : List Nat → List WV → Option (List WV)
  | [], _ => some []
  | m :: ms, vs =>
    let on := (List.range g).filter (bit m)
    if on.length ≠ k then none
    else
      let group := (List.range g).map (fun j => if bit m j then vs.getD ((on.filter (fun i => decide (i < j))).length) .nan else .fin false 0)
      (spreadMasks g k ms (vs.drop k)).map (fun r => group ++ r)

/-- The logical values of a tile of format code `f`, SPARSITY `sp` and `n` elements; none at a mask error. -/
def decodeTile (f sp n : Nat) (raw : List Byte) : Option (List WV) :=
  match Fmt.ofCode f with
  | none => none
  | some g =>
    let S := if sp = 0 then n else n / 2
    let eb := elemBytes (some g) S
    let sb := scaleBytes (some g) S
    let vs := decodeElems g S (raw.take eb) (slice raw (roundUp 64 eb) sb)
    let masks := slice raw (roundUp 64 eb + roundUp 64 sb) (n / 8)
    match sp with
    | 0 => some vs
    | 1 => spreadMasks 4 2 (unpackElems 4 (n / 4) masks) vs
    | _ => spreadMasks 8 4 (masks.map (fun b => b.toNat)) vs

/-- The bytes each destination receives of a stored tile; none at a mask error (R225). -/
def deliverTile (f sp n dlv : Nat) (raw : List Byte) : Option (List Byte) :=
  if dlv = 0xFF then some raw
  else match Fmt.ofCode dlv with
    | none => none
    | some g => (decodeTile f sp n raw).map (fun vs =>
        packElems g.bits (vs.map (fun v => g.encodeElem (roundTo g .rne true 0 v.exact).1)))

/-! ### The shed (R239 to R242) -/

/-- A slot of the directory while a STREAM decides: its TAG when valid, SCORE, and whether this step fills it. -/
structure ShedSlot where
  tag : Option Nat
  score : Nat
  filled : Bool
deriving DecidableEq, Repr

/-- What an entry does: the slot it is read from, and the slot it fills. -/
structure ShedUse where
  hit : Option Nat
  fill : Option Nat
deriving DecidableEq, Repr

/-- The lowest slot with the lowest SCORE: slot and score. -/
def lowestScore (ss : List ShedSlot) : Option (Nat × Nat) :=
  (List.zip (List.range ss.length) ss).foldl (fun b e => match b with
    | none => some (e.1, e.2.score)
    | some x => if e.2.score < x.2 then some (e.1, e.2.score) else b) none

/-- The decision of one entry with fan-out `F` and tile tag `tag` (R240). -/
def shedDecide (policy F tag : Nat) (ss : List ShedSlot) : ShedUse × List ShedSlot :=
  let fill (s : Nat) : ShedUse × List ShedSlot := ({ hit := none, fill := some s }, ss.set s { tag := some tag, score := F, filled := true })
  let no : ShedUse × List ShedSlot := ({ hit := none, fill := none }, ss)
  match firstIdx (fun x => x.tag == some tag) 0 ss with
  | some s =>
    match ss[s]? with
    | none => no
    | some x =>
      if x.filled then no
      else ({ hit := some s, fill := none }, if policy = 1 then ss.set s { x with score := min (x.score + F) 65535 } else ss)
  | none =>
    if policy ≠ 1 then no
    else match firstIdx (fun x => x.tag.isNone) 0 ss with
      | some s => fill s
      | none => match lowestScore ss with
        | some (s, sc) => if sc < F then fill s else no
        | none => no

/-- The decisions of a step: fan-out and tag of every entry in order. An entry without destinations takes none.
DEDUCED, log 39. -/
def shedDecideAll (policy : Nat) : List (Nat × Nat) → List ShedSlot → List ShedUse × List ShedSlot
  | [], ss => ([], ss)
  | (F, tag) :: es, ss =>
    let r := if policy = 0 ∨ F = 0 then ({ hit := none, fill := none }, ss) else shedDecide policy F tag ss
    let q := shedDecideAll policy es r.2
    (r.1 :: q.1, q.2)

/-- The directory of a shed. -/
def shedRead (y shed slots : Nat) : M d0 (List ShedSlot) :=
  gather (List.range slots) (fun s => do
    match ← readMem y 1 (shed + 16 * s) 16 with
    | none => return { tag := none, score := 0, filled := false }
    | some bs =>
      let v := le bs 0 8
      return { tag := if bit v 63 then some (v % 2 ^ 58) else none, score := le bs 8 2, filled := false })

/-- Write what the decisions change in the directory: the SCORE of a slot read, and VALID of a slot to be filled. -/
def shedWrite (y shed : Nat) (old new : List ShedSlot) : M d0 Unit :=
  each (List.zip (List.range old.length) (List.zip old new)) (fun e => do
    if e.2.2.filled then shedInvalidate y shed e.1
    else if e.2.1.score ≠ e.2.2.score then
      let _ ← writeMem y 1 (shed + 16 * e.1 + 8) (leBytes 2 e.2.2.score)
    else pure ())

/-- A slot written whole becomes VALID with its TAG and SCORE. -/
def shedValid (y shed : Nat) (f : Nat × Nat × Nat) : M d0 Unit := do
  let _ ← writeMem y 1 (shed + 16 * f.1) (leBytes 8 (f.2.1 % 2 ^ 58 + 2 ^ 63) ++ leBytes 2 f.2.2)
  bump (R.DRV_SHED_FILLS y) 1

/-- DRV_SHED_FLUSH (R241, R245). -/
def execDrvShedFlush (y value : Nat) (s : State) : Host.Outcome State Fault Refusal :=
  perform s do
    let d ← dev
    if !(← cmdReach y) then return
    match (d.yard y).plan with
    | none => return
    | some p =>
      match p.sheds.find? (fun x => x.1 == bits value 0 16), d.shedAt y p (bits value 0 16) with
      | some x, some a => each (List.range x.2.2) (shedInvalidate y a)
      | _, _ => return

/-! ### The STREAM step (R226 to R230, R243) -/

/-- Change the stream work of a thread. -/
def modStream (y t : Nat) (f : StreamSt → StreamSt) : M d0 Unit := modActive y t (fun a => { a with stream := a.stream.map f })

/-- A STREAM fails: its drovers stop every entry, and no further READY of it is sent (R243). -/
def streamFail (y t code : Nat) : M d0 Unit := do
  match (← dev).activeStep y t with
  | some (p, st, a) => match a.stream with
    | some z => streamOver y p st z
    | none => if a.code.isNone then streamUnbegun y p st else pure ()
  | none => pure ()
  modActive y t (fun a => { a with stream := none })
  setCode y t code
  showDrovers y

/-- A STREAM ends with OK once nothing of it is left (R230). A slot whose tile has been written whole is VALID by then. -/
def streamEnd (y t : Nat) : M d0 Unit := do
  let d ← dev
  match d.activeStep y t with
  | none => return
  | some (p, st, a) =>
    match a.stream with
    | none => return
    | some z =>
      if !z.entries.isEmpty then return
      match z.shed with
      | none => pure ()
      | some shed =>
        each z.fills (shedValid y shed)
        if z.hot then shedAge y shed (p.shedSlots (st.sp 0x6C 2)) z.age else pure ()
      modActive y t (fun a => { a with stream := none })
      setCode y t 0
      showDrovers y

/-- The destinations of an entry with MAP word `m` and bitmap bytes `map` (R227). -/
def destSet (accels m : Nat) (map : List Byte) : List Nat :=
  (List.range accels).filter (fun a => bit m 31 || bit ((map.getD (a / 8) 0).toNat) (a % 8))

/-- Number the deliveries of the entries in ascending order (R228): `next` holds the next delivery number of each landing
buffer met so far, `base` that of a buffer met for the first time. DEDUCED, log 38. -/
def numberAll (base : Nat × Nat → Nat) (key : Nat → Nat × Nat) (next : List ((Nat × Nat) × Nat)) :
    List (List Nat) → List (List DestSt) × List ((Nat × Nat) × Nat)
  | [] => ([], next)
  | ds :: rest =>
    let r := ds.foldl (fun (q : List DestSt × List ((Nat × Nat) × Nat)) a =>
      let k := ((q.2.find? (fun e => e.1 == key a)).map (fun e => e.2)).getD (base (key a))
      (q.1 ++ [{ accel := a, seq := k, sent := 0, answered := 0, waited := false }],
       (key a, (k + 1) % 2 ^ 32) :: q.2.filter (fun e => e.1 != key a))) ([], next)
    let q := numberAll base key r.2 rest
    (r.1 :: q.1, q.2)

/-- Begin the deliveries of a STREAM whose destination sets are `ds`. -/
def streamBegin (y t : Nat) (p : Plan) (st : Step) (env : List Nat) (ds : List (List Nat)) : M d0 Unit := do
  let d ← dev
  let o := st.sp 0x68 4
  let es := p.streamEnts o
  match d.refPlace y p st env 0 with
  | none => streamFail y t cLocalProtection
  | some src =>
    if st.isLocal 3 then
      match d.refPlace y p st env 3 with
      | none => pure ()
      | some dst =>
        let body := ds.flatMap (fun x => leBytes 2 x.length)
        if ← writePlace y dst (body ++ zeros (roundUp 64 body.length - body.length)) then pure ()
        else
          streamFail y t (if dst.inHost then cHostLost else cMemUncorrectable)
          return
    else pure ()
    let policy := st.sp 0x6E 1
    let shed := if st.sp 0x6C 2 = 0xFFFF then none else d.shedAt y p (st.sp 0x6C 2)
    let tagOf (e : Nat × Nat) : Nat := match src.add e.1 with
      | .mem 2 a => a / 64
      | _ => 2 ^ 58
    let uses ← match shed with
      | none => pure (es.map (fun _ => ({ hit := none, fill := none } : ShedUse)))
      | some a => do
        let old ← shedRead y a (p.shedSlots (st.sp 0x6C 2))
        let r := shedDecideAll policy (List.zip (ds.map List.length) (es.map tagOf)) old
        shedWrite y a old r.2
        pure r.1
    let drs := (List.range 12).filter (bit (le p.tables (o + 0x16) 2))
    let base (k : Nat × Nat) : Nat := (((d.yard y).land k.1 k.2).map (fun b => b.seq)).getD 0
    let num := numberAll base (p.destOf o) [] ds
    each num.2 (fun e => modLand y e.1.1 e.1.2 (fun b => { b with seq := e.2 }))
    let mk_ (i : Nat) : Option EntrySt := do
      let e ← es[i]?
      let u ← uses[i]?
      let x ← num.1[i]?
      if x.isEmpty then none
      else some { i := i, drover := drs.getD (i % max 1 drs.length) 0, tile := src.add e.1, slot := u.hit, fill := u.fill,
                  score := x.length, data := none, begun := false, dests := x }
    let ents := (List.range es.length).filterMap mk_
    modActive y t (fun a => { a with stream := some { entries := ents, table := o, shed := shed, hot := policy == 1,
                                                      age := le p.tables (o + 0x28) 1, fills := [] } })
    showDrovers y
    streamEnd y t

/-- STREAM (R227): the demand header and every bitmap are read once; a stale header ends the step. -/
def execStream (y t : Nat) (host : HostSide) (s : State) : Host.Outcome State Fault Refusal :=
  perform s do
    match ← beginStep y t tStream with
    | none => return
    | some (p, st, env, _) =>
      let d ← dev
      let o := st.sp 0x68 4
      let accels := le p.tables (o + 0x14) 1
      let es := p.streamEnts o
      match ← (match if st.isLocal 3 then d.refPlace y p st env 3 else none with
        | some q => placeReach y (y + t) q (roundUp 64 (2 * es.length)) (.ctx 48 t) host
        | none => pure (.ok [])) with
      | .wait => return
      | .err code => streamFail y t code
      | .ok _ =>
      if le p.tables (o + 4) 2 = 0xFFFF then streamBegin y t p st env (es.map (fun e => destSet accels e.2 []))
      else
        match d.demandPlace y p o env with
        | none => streamFail y t cLocalProtection
        | some q =>
          let maps := es.map (fun e => if bit e.2 31 then (0, 0) else (bits e.2 0 28, bits e.2 28 3 + 1))
          match ← readPieces y (y + t) q [(0, 64)] (.ctx 48 t) host with
          | (.wait, _) => return
          | (.err code, _) => streamFail y t code
          | (.ok _, heads) =>
            let h := heads.headD []
            if le h 0 8 ≠ d.fld (R.PLN_STEP_COUNT y) ∨ le h 0xA 1 ≠ accels then streamFail y t cLocalProtection
            else
              match ← readPieces y (y + t) q maps (.ctx 48 t) host with
              | (.wait, _) => return
              | (.err code, _) => streamFail y t code
              | (.ok _, bs) => streamBegin y t p st env (List.zipWith (fun e b => destSet accels e.2 b) es bs)

/-! ### Deliveries (R217, R229, R234 to R237) -/

/-- A one-flit landing control packet from the lowest bay of the yard (R367). -/
def lctl (y dst : Nat) (body : List Byte) : M d0 Unit := do
  let _ ← injectOne y y (mkPkt 0x32 dst ((← dev).addrOf y) y true body [])

/-- The body of OPEN_ACK (op 2) and CLOSE_ACK (op 4). -/
def lctlAck (op status buf : Nat) : List Byte := leBytes 1 op ++ leBytes 1 status ++ beBytes 2 buf

/-- The body of READY. -/
def lctlReady (buf epoch k entry : Nat) : List Byte := leBytes 1 6 ++ leBytes 1 epoch ++ beBytes 2 buf ++ beBytes 4 k ++ beBytes 4 entry

/-- A delivery has had its READY: its destination leaves its entry, and an entry without destinations leaves its step. -/
def dropDelivery (y a buf k : Nat) : M d0 Unit := do
  let d ← dev
  each (List.range (d.yard y).thrs.length) (fun t => do
    match (← dev).activeStep y t with
    | none => pure ()
    | some (p, _, act) =>
      match act.stream with
      | none => pure ()
      | some z =>
        let mine (x : DestSt) : Bool := p.destOf z.table x.accel == (a, buf) && x.seq == k
        if z.entries.any (fun e => e.dests.any mine) then
          modStream y t (fun z => { z with entries :=
            (z.entries.map (fun e => { e with dests := e.dests.filter (fun x => !mine x) })).filter (fun e => !e.dests.isEmpty) })
          streamEnd y t
        else pure ())

/-- Send the next READY of a landing buffer when its delivery has landed (R235). -/
def readyOne (y a buf : Nat) : M d0 Bool := do
  let d ← dev
  match (d.yard y).land a buf with
  | none => return false
  | some b =>
    match b.landed.find? (fun e => e.1 == b.ready) with
    | none => return false
    | some e =>
      lctl y a (lctlReady buf (d.fld (R.DRV_EPOCH y) % 256) e.1 e.2)
      modLand y a buf (fun b => { b with ready := (b.ready + 1) % 2 ^ 32, landed := b.landed.erase e })
      bump (R.DRV_DELIVERIES y) 1
      dropDelivery y a buf e.1
      return true

/-- Send every READY that is due. A frozen yard holds its drovers' work (R485). DEDUCED, log 38. -/
def sendReadys (y : Nat) : M d0 Unit := do
  let d ← dev
  if !d.live y then return
  each (d.yard y).lands (fun b => upTo b.landed.length (readyOne y b.src b.buf))

/-- Whether a slot has to wait for entry `i` to fill it: an entry that still has to be read takes its tile from it, or an
earlier one fills it first. DEDUCED, log 39. -/
def StreamSt.slotWanted (z : StreamSt) (i s : Nat) : Bool :=
  z.entries.any (fun e => e.data.isNone && (e.slot == some s || (e.fill == some s && decide (e.i < i))))

/-- Read an entry's tile once (R229, R242): the stored bytes, or what stops it. -/
def readTile (y b t : Nat) (z : StreamSt) (tile : Nat) (e : EntrySt) (host : HostSide) : M d0 LocRes := do
  match z.shed, e.slot with
  | some shed, some s =>
    match ← readMem y 1 (shed + 4096 + s * tile) tile with
    | some bs =>
      bump (R.DRV_SHED_HITS y) 1
      return .ok bs
    | none =>
      shedInvalidate y shed s
      bump (R.DRV_SHED_FALLBACKS y) 1
      readPlace y b e.tile tile (.ctx 48 t) host
  | _, _ => readPlace y b e.tile tile (.ctx 48 t) host

/-- The tile of an entry comes in: decode it, and write it to the slot it fills. False when the step has failed. -/
def tileIn (y t dr : Nat) (p : Plan) (st : Step) (z : StreamSt) (e : EntrySt) (raw : List Byte) : M d0 Bool := do
  let o := st.sp 0x68 4
  bump (R.DRV_BYTES_READ y) raw.length
  bump (R.DRV_READ y dr) raw.length
  match deliverTile (le p.tables (o + 7) 1) (le p.tables (o + 0x15) 1) (le p.tables (o + 0x18) 8) (st.sp 0x6F 1) raw with
  | none =>
    streamFail y t cLocalProtection
    return false
  | some bs =>
    let fills ← match z.shed, e.fill, e.tile with
      | some shed, some s, .mem 2 a => do
        each (z.fills.filter (fun f => f.1 == s)) (shedValid y shed)
        shedInvalidate y shed s
        if ← writeMem y 1 (shed + 4096 + s * raw.length) raw then pure [(s, a / 64, e.score)] else pure []
      | _, _, _ => pure []
    modStream y t (fun z => { z with
      entries := z.entries.map (fun x => if x.i = e.i then { x with data := some bs } else x),
      fills := z.fills.filter (fun f => fills.all (fun g => g.1 != f.1)) ++ fills })
    return true

/-- The first destination of an entry whose buffer ends the step before its delivery is emitted (R237). -/
def Dev.badDest (d : Dev) (y : Nat) (p : Plan) (st : Step) (e : EntrySt) : Bool :=
  e.dests.any (fun x => x.sent == 0 &&
    (match (d.yard y).land (p.destOf (st.sp 0x68 4) x.accel).1 (p.destOf (st.sp 0x68 4) x.accel).2 with
     | none => false
     | some b => b.closing || b.kind != 1 || decide (b.slotBytes < p.deliverBytes st)))

/-- Emit packet `j` of an entry's delivery to each of the destinations `ds`. -/
def emitTo (y t dr j : Nat) (p : Plan) (st : Step) (e : EntrySt) (bytes : List Byte) (ds : List DestSt) : M d0 Bool := do
  let d ← dev
  let rs ← gather ds (fun x => do
    let k := p.destOf (st.sp 0x68 4) x.accel
    match (d.yard y).land k.1 k.2 with
    | none => return true
    | some b =>
      let off := x.seq % max 1 b.slots * b.slotBytes + 4096 * j
      landSend y (y + dr) (.delivery t e.i x.accel) k.1 k.2 (d.fld (R.DRV_EPOCH y) % 256) 1 x.seq off e.i bytes)
  return rs.all id

/-- The destinations that an entry's next packet goes to, and its number: those that hold their grant and are furthest
behind. -/
def Dev.nextGroup (d : Dev) (y : Nat) (p : Plan) (st : Step) (e : EntrySt) : Nat × List DestSt :=
  let total := p.deliverTurns st
  let ready := e.dests.filter (fun x => decide (x.sent < total) && d.granted y p (st.sp 0x68 4) x)
  let j := ready.foldl (fun m x => min m x.sent) total
  (j, ready.filter (fun x => x.sent == j))

/-- Whether an entry is ready to emit: its tile is read, it can emit, and the reply space of R366 has room. -/
def Dev.emitReady (d : Dev) (y : Nat) (p : Plan) (st : Step) (e : EntrySt) : Bool :=
  e.data.isSome && d.canEmit y p st e &&
    !(d.nextGroup y p st e).2.any (fun x => decide (512 ≤ d.unanswered (p.destOf (st.sp 0x68 4) x.accel).1))

/-- The threads in service at drover `dr` whose entries are ready to emit, those that have emitted since they came in apart. -/
def Dev.droverReady (d : Dev) (y dr : Nat) (sent : Bool) : List Nat :=
  (d.serving y dr).filter (fun t =>
    ((d.yard y).drvSent.getD dr []).contains t == sent &&
    (match d.droverEntry y t dr with
    | some (p, st, e) => d.emitReady y p st e
    | none => false))

/-- The thread whose entry has the next turn at drover `dr`: entries ready to emit alternate packet by packet. Those that have
not emitted yet come first, and a tie between them is settled by the drover's order (R19, R217). DEDUCED, log 38. -/
def Dev.droverTurn (d : Dev) (y dr : Nat) : Option Nat :=
  let new := d.droverReady y dr false
  if new.isEmpty then ((d.yard y).drvSent.getD dr []).find? (fun t => (d.droverReady y dr true).contains t)
  else firstOf ((d.yard y).drvTie.getD dr []) (fun t => new.contains t)

/-- The packets of a delivery to each of `ds` are all answered: its READY is due (R235). -/
def landedAt (y : Nat) (p : Plan) (o i : Nat) (ds : List DestSt) : M d0 Unit :=
  each ds (fun x =>
    let k := p.destOf o x.accel
    modLand y k.1 k.2 (fun b => { b with landed := b.landed ++ [(x.seq, i)] }))

/-- DELIVERY_EMIT (R217, R229, R234, R237): the entry of thread `t` in service at drover `dr` reads its tile, waits for what it
needs or for its turn, or emits one packet, replicated to the destinations that take it next. DEDUCED, log 38. -/
def execDeliveryEmit (y t dr : Nat) (host : HostSide) (s : State) : Host.Outcome State Fault Refusal :=
  perform s do
    let d ← dev
    if !d.live y then return
    match d.inService y t dr, (d.active y t).bind (fun a => a.stream) with
    | some (p, st, e), some z =>
      let tile := le p.tables (st.sp 0x68 4 + 0x20) 8
      let total := p.deliverTurns st
      match e.data with
      | none =>
        if (e.fill.map (z.slotWanted e.i)).getD false then return
        match ← readTile y (y + dr) t z tile e host with
        | .wait => return
        | .err code => streamFail y t code
        | .ok raw =>
          let _ ← tileIn y t dr p st z e raw
          showDrovers y
      | some bs =>
        if d.badDest y p st e then
          streamFail y t cTargetUnavailable
          return
        let todo := e.dests.filter (fun x => decide (x.sent < total))
        let held := todo.filter (fun x => !d.granted y p (st.sp 0x68 4) x && !x.waited &&
          ((d.yard y).land (p.destOf (st.sp 0x68 4) x.accel).1 (p.destOf (st.sp 0x68 4) x.accel).2).isSome)
        bump (R.DRV_GRANT_WAITS y) held.length
        let mark (f : DestSt → DestSt) : M s.dev Unit := modStream y t (fun z => { z with
          entries := z.entries.map (fun x => if x.i = e.i then { x with dests := x.dests.map f } else x) })
        mark (fun x => if held.contains x then { x with waited := true } else x)
        if !d.canEmit y p st e then
          showDrovers y
          return
        if d.droverTurn y dr ≠ some t then return
        let (j, group) := d.nextGroup y p st e
        let part := slice bs (4096 * j) 4096
        if j = 0 ∧ e.begun then
          bump (R.DRV_REREADS y) 1
          bump (R.DRV_BYTES_READ y) tile
          bump (R.DRV_READ y dr) tile
        else pure ()
        if ← (if p.deliverPkts st = 0 then pure true else emitTo y t dr j p st e part group) then
          mark (fun x => if group.any (fun g => g.accel == x.accel) then { x with sent := j + 1 } else x)
          modStream y t (fun z => { z with entries := z.entries.map (fun x => if x.i = e.i then { x with begun := true } else x) })
          modYard y (fun r => { r with
            drvSent := r.drvSent.set dr (rotate (r.drvSent.getD dr []) t)
            drvTie := if 2 ≤ (d.droverReady y dr false).length then r.drvTie.set dr (rotate (r.drvTie.getD dr []) t) else r.drvTie })
          bump (R.DRV_EGRESS y dr) part.length
          if p.deliverPkts st = 0 then do
            landedAt y p (st.sp 0x68 4) e.i group
            sendReadys y
          else pure ()
          showDrovers y
        else streamFail y t cAuthFailed
    | _, _ => return

/-- SHED_SLOT_FILLED (R240): a tile written whole into a slot becomes VALID. -/
def execShedSlotFilled (y t slot : Nat) (s : State) : Host.Outcome State Fault Refusal :=
  perform s do
    let d ← dev
    if !d.live y then return
    match (d.active y t).bind (fun a => a.stream) with
    | none => return
    | some z =>
      match z.shed, z.fills.find? (fun f => f.1 == slot) with
      | some shed, some f =>
        shedValid y shed f
        modStream y t (fun z => { z with fills := z.fills.erase f })
      | _, _ => return

/-! ### The landing directory (R232, R234) -/

/-- Take in a landing control packet (R364, R433). -/
def takeLctl (y src nonce : Nat) (tagOk : Bool) (f : M d0 Unit) : M d0 Unit := do
  if !(← yardHears y) || !tagOk || !(← dev).keyed y then return
  if ← replayOk y y src nonce then f else pure ()

/-- Show the number of buffers in the directory. -/
def showLands (y : Nat) : M d0 Unit := do wr (R.DRV_LAND_OPEN y) ((← dev).yard y).lands.length

/-- Whether a field of an OPEN breaks R232. -/
def openMalformed (r : OpenReq) : Bool :=
  decide (4095 < r.buf) || decide (1 < r.kind) || r.length % 64 != 0 ||
  (if r.kind = 1 then r.slots == 0 || decide (4096 < r.slots) || r.slotBytes % 64 != 0 || decide (r.length < r.slots * r.slotBytes)
   else r.scaleOff % 64 != 0 && r.scaleOff != 2 ^ 64 - 1)

/-- Deliveries of active steps already numbered for a buffer that was not open: its numbering goes on from them.
DEDUCED, log 38. -/
def Dev.numbered (d : Dev) (y a buf : Nat) : Nat :=
  (List.range (d.yard y).thrs.length).foldl (fun n t =>
    match d.activeStep y t with
    | none => n
    | some (p, _, act) =>
      match act.stream with
      | none => n
      | some z => n + (z.entries.flatMap (fun e => e.dests)).countP (fun x => p.destOf z.table x.accel == (a, buf))) 0

/-- OPEN (R232): answered MALFORMED, BUSY, FULL or OK, the first that applies. DEDUCED, log 38. -/
def execOpenBuf (y src nonce : Nat) (r : OpenReq) (tagOk : Bool) (s : State) : Host.Outcome State Fault Refusal :=
  perform s (takeLctl y src nonce tagOk (do
    let d ← dev
    let ls := (d.yard y).lands
    let status :=
      if openMalformed r then 3
      else if ((d.yard y).land src r.buf).isSome then 2
      else if 1024 * (d.baysOf y).length ≤ ls.length then 1
      else 0
    if status = 0 then
      let slots := if r.kind = 1 then r.slots else 0
      let b : LandBuf :=
        { src := src, buf := r.buf, kind := r.kind, length := r.length, slots := slots, slotBytes := r.slotBytes,
          scaleOff := r.scaleOff, closing := false, out := 0, seq := d.numbered y src r.buf, limit := slots, ready := 0,
          landed := [] }
      modYard y (fun r => { r with lands := r.lands ++ [b] })
      showLands y
      showDrovers y
    else pure ()
    lctl y src (lctlAck 2 status r.buf)))

/-- CLOSE (R232). -/
def execCloseBuf (y src nonce buf : Nat) (tagOk : Bool) (s : State) : Host.Outcome State Fault Refusal :=
  perform s (takeLctl y src nonce tagOk (do
    match ((← dev).yard y).land src buf with
    | none => lctl y src (lctlAck 4 4 buf)
    | some b => if b.closing then lctl y src (lctlAck 4 4 buf) else modLand y src buf (fun b => { b with closing := true })))

/-- Whether a delivery to a buffer has begun and is not answered whole. -/
def Dev.delivering (d : Dev) (y a buf : Nat) : Bool :=
  (List.range (d.yard y).thrs.length).any (fun t =>
    match d.activeStep y t with
    | none => false
    | some (p, st, act) =>
      match act.stream with
      | none => false
      | some z => (z.entries.flatMap (fun e => e.dests)).any (fun x =>
          p.destOf z.table x.accel == (a, buf) && x.sent != 0 && decide (x.answered < p.deliverPkts st)))

/-- CLOSE_ACK (R232): a closing buffer with nothing outstanding leaves the directory. -/
def execCloseAck (y src buf : Nat) (s : State) : Host.Outcome State Fault Refusal :=
  perform s do
    let d ← dev
    match (d.yard y).land src buf with
    | none => return
    | some b =>
      if !d.live y || !b.closing || b.out != 0 || d.delivering y src buf then return
      modYard y (fun r => { r with lands := r.lands.filter (fun x => !(x.src == src && x.buf == buf)) })
      showLands y
      lctl y src (lctlAck 4 0 buf)

/-- GRANT (R234): applied when its EPOCH matches and its LIMIT is ahead of the current one. -/
def execGrant (y src nonce buf epoch limit : Nat) (tagOk : Bool) (s : State) : Host.Outcome State Fault Refusal :=
  perform s (takeLctl y src nonce tagOk (do
    let d ← dev
    match (d.yard y).land src buf with
    | none => return
    | some b =>
      if b.kind = 1 ∧ epoch = d.fld (R.DRV_EPOCH y) % 256 ∧ serialBelow b.limit limit then
        modLand y src buf (fun b => { b with limit := limit % 2 ^ 32 })
        showDrovers y
      else return))

/-! ### Answers (R146, R232, R235, R237, R366) -/

/-- Emit the landing writes of laps that waited for the limit of R366; a packet whose writes are done, and that is forwarded,
frees its slot (R140). -/
def landRetry (y c : Nat) : M d0 Unit := do
  let d ← dev
  match d.comm y c with
  | none => return
  | some x =>
    if x.landq.isEmpty || !d.live y then return
    modComm y c (fun x => { x with landq := [] })
    let rs ← gather x.landq (fun w => landAt y c w.target w.off w.bytes w.key)
    let after := (((← dev).comm y c).map Comm.heldKeys).getD []
    returnCredit y c (x.heldKeys.filter (fun k => !after.contains k)).length
    let code := rs.foldl worse cOk
    if code ≠ 0 then each (d.ringThreads y c) (fun t => localFail y t code) else pure ()

/-- What a lap's communicator does with an answer: the slot of a packet that is forwarded and has all its landing writes answered
is free (R140). -/
def lapAnswer (y c : Nat) (key : Option (Nat × Nat × Nat)) (refused : Bool) : M d0 Unit := do
  match (← dev).comm y c with
  | none => pure ()
  | some x =>
    let x' := { x with landOut := x.landOut - 1, landKeys := match key with
      | none => x.landKeys
      | some k => x.landKeys.erase k }
    act (.comm (yk y c) (some x'))
    returnCredit y c (x.heldKeys.length - x'.heldKeys.length)
  if refused then landRefused y c else pure ()

/-- What a STREAM does with the answer of one packet of entry `i` to accelerator `a`. -/
def streamAnswer (y t i a status reason : Nat) : M d0 Unit := do
  let d ← dev
  match d.activeStep y t with
  | none => return
  | some (p, st, act) =>
    match act.stream with
    | none => return
    | some z =>
      if status ≠ 0 then streamFail y t (if reason = 4 then cAuthFailed else cTargetUnavailable)
      else
        match (z.entries.find? (fun e => e.i == i)).bind (fun e => e.dests.find? (fun x => x.accel == a)) with
        | none => return
        | some x =>
          modStream y t (fun z => { z with entries := z.entries.map (fun e =>
            if e.i = i then { e with dests := e.dests.map (fun x => if x.accel = a then { x with answered := x.answered + 1 } else x) } else e) })
          if x.answered + 1 = p.deliverPkts st then landedAt y p z.table i [x] else pure ()

/-- LAND_ANS (R235, R237, R366): an answer that matches an unanswered packet frees its reply space; then the lap or the
delivery it belongs to goes on. DEDUCED, log 41. -/
def execLandAns (y src ansId status reason buf : Nat) (tagOk : Bool) (s : State) : Host.Outcome State Fault Refusal :=
  perform s do
    let d ← dev
    if !(← yardHears y) || !tagOk || !d.keyed y then return
    match Tab.find (d.yard y).landReqs ansId with
    | none => return
    | some q =>
      if q.dst ≠ src ∨ q.buf ≠ buf then return
      modYard y (fun r => { r with landReqs := Tab.del r.landReqs ansId })
      modLand y src buf (fun b => { b with out := b.out - 1 })
      if status ≠ 0 then bump (R.DRV_REFUSALS y) 1 else pure ()
      match q.owner with
      | .lap c key => lapAnswer y c key (status != 0)
      | .delivery t i a => streamAnswer y t i a status reason
      | .gone => pure ()
      sendReadys y
      each ((← dev).comms) (fun e => landRetry (e.1 / 2 ^ 32) (e.1 % 2 ^ 32))
      match q.owner with
      | .lap c _ =>
        flushNotes y c
        each ((← dev).ringThreads y c) (lapKick y)
      | _ => pure ()

/-- SIGNAL_PACKET (R108, R367, R433): it adds to an event counter of the yard of the destination bay. -/
def execSignalPacket (b src nonce event add : Nat) (tagOk : Bool) (s : State) : Host.Outcome State Fault Refusal :=
  perform s do
    let d ← dev
    match d.yardOf b with
    | none => idleDiscard
    | some y =>
      if !(← yardHears y) || !tagOk || !d.keyed y then return
      if ← replayOk y b src nonce then
        if add = 0 ∨ 2 ^ 24 ≤ add then return
        eventAdd y (event % 64) add
      else return

end Sys2Proof.Machine
end

