-- ==== Sys2Proof/Machine/Wrt.lean ====
section
/-! DEFINITION. The transport's commands (09): connections and match lists, request and response packets, ACK and NAK,
timers, transmission. -/

namespace Sys2Proof.Machine

variable {d0 : Dev}

/-! ### TRN commands (R252 to R258, R282, R290) -/

/-- End a TRN command. -/
def trnDone (y code : Nat) : M d0 Unit := do
  wr (R.TRN_CMD_STATUS_BUSY y) 0
  wr (R.TRN_CMD_STATUS_RESULT y) code
  wr (R.TRN_CMD_STATUS_DONE y) 1

/-- Run a TRN command; `f` answers its result. In a frozen yard only QUERY and REHOME run (R485). DESIGN CHOICE, log 13. -/
def trnCmd (y : Nat) (f : M d0 Nat) (inFreeze : Bool := false) : M d0 Unit := do
  let d ← dev
  if !(← yfReach y) then return
  if (d.yard y).fatal then wr (R.TRN_CMD_STATUS_CMD_ERR y) 1
  else if d.frozen y && !inFreeze then trnDone y cYardFrozen
  else trnDone y (← f)

/-- Run a TRN command that reads a descriptor of `len` bytes at TRN_CMD_ADDR. DESIGN CHOICE, log 50. -/
def trnDesc (y len : Nat) (desc : Option (List Byte)) (f : List Byte → M d0 Nat) (inFreeze : Bool := false) : M d0 Unit :=
  trnCmd y (do
    match ← fetchDesc y ((← dev).fld (R.TRN_CMD_ADDR y)) len desc with
    | none => return cLocalProtection
    | some bs => f bs) inFreeze

/-- Whether connection `n` is one of the plan's (R257). -/
def Dev.planConn (d : Dev) (y n : Nat) : Bool := decide (d.fld (R.TRN_PLAN_CONN_BASE y) ≤ n)

/-- Whether `w` is a power of two from 16 to 4,096. -/
def windowOk (w : Nat) : Bool := [16, 32, 64, 128, 256, 512, 1024, 2048, 4096].contains w

/-- Whether the descriptor's RETRY, CC_PROFILE fields are sound (R253). -/
def retryOk (bs : List Byte) : Bool := !bit (le bs 0x16 1) 7 && decide (le bs 0x17 1 < 4)

/-- Whether the peer addressing of a UDP or RoCEv2 path is sound (R253). -/
def peerOk (path : Nat) (bs : List Byte) : Bool :=
  path == 0 || ((path % 2 == 0 || zeroAt bs 0x20 12) && decide (le bs 0x38 1 < 16) && decide (le bs 0x3C 1 < 16))

/-- The peer addressing of a descriptor. IP and MAC addresses stand in network order. -/
def Conn.withPeer (c : Conn) (bs : List Byte) : Conn :=
  { c with peerAddr := le bs 0 2, peerIp := be bs 0x20 16, nextHop := be bs 0x30 6, vlan := le bs 0x36 2, ethPort := le bs 0x38 1,
           sport := le bs 0x3A 2, srcIp := le bs 0x3C 1, baseRtt := 0, baseSet := false }

/-- CREATE (R252 to R254); a plan connection is created in RESET (R257). DESIGN CHOICE, log 50. -/
def createDo (y conn : Nat) (desc : Option (List Byte)) : M d0 Unit :=
  trnDesc y 128 desc (fun bs => do
    let d ← dev
    let c := d.conn y conn
    let path := le bs 2 1
    let fl := le bs 0x13 1
    let tagged := bit fl 0
    if 5 ≤ path ∨ !windowOk (le bs 0x10 2) ∨ 3 ≤ le bs 0x12 1 ∨ 4 ≤ fl ∨ !retryOk bs ∨ !zeroAt bs 0x3D 67 ∨
        (3 ≤ path ∧ (d.conf y ∨ tagged)) ∨ (tagged ∧ (Tab.find d.lists (yk y (le bs 0x14 2))).isNone) then
      return cLocalProtection
    if d.connCount y ≤ conn ∨ !(c.st = 0 ∨ (c.st = 1 ∧ d.planConn y conn)) then return cResourceRefused
    act (.conn (yk y conn) (some { Conn.free with
      st := 1, lastInc := c.lastInc, gen := c.gen, ctr := c.ctr, path := path, window := le bs 0x10 2,
      mtu := 1024 * 2 ^ le bs 0x12 1, tagged := tagged, ccOn := bit fl 1, matchList := if tagged then le bs 0x14 2 else 0,
      retry := le bs 0x16 1, profile := le bs 0x17 1, rateMax := le bs 0x18 4 }))
    return cOk)

@[inherit_doc createDo] def execCreate (y conn : Nat) (desc : Option (List Byte)) (s : State) : Host.Outcome State Fault Refusal :=
  perform s (coreTake y (.create y conn desc) (some (R.TRN_CMD_STATUS_BUSY y, R.TRN_CMD_STATUS_CMD_ERR y)) (createDo y conn desc))

/-- CONNECT (R252 to R255): the rings' counts restart (R299). DESIGN CHOICE, log 50. -/
def connectDo (y conn : Nat) (desc : Option (List Byte)) : M d0 Unit :=
  trnDesc y 128 desc (fun bs => do
    let d ← dev
    let c := d.conn y conn
    let rate := le bs 0x1C 4
    if !zeroAt bs 7 1 ∨ (c.roce ∧ (!zeroAt bs 0x0B 1 ∨ !zeroAt bs 0x0F 1)) ∨ !peerOk c.path bs ∨
        (c.path ≠ 0 ∧ 64 ≤ le bs 0x39 1) ∨ !zeroAt bs 0x3D 67 ∨ rate < d.fld ((R.TRN_CC_RATE_MIN y c.profile).sub 0 24) ∨
        c.rateMax < rate ∨ le bs 3 1 = c.lastInc then return cLocalProtection
    if d.connCount y ≤ conn ∨ c.st ≠ 1 then return cResourceRefused
    let rmin := 1000 * d.fld (R.TRN_RTO_MIN y)
    modConn y conn (fun c => { c.withPeer bs with
      st := 2, inc := le bs 3 1, lastInc := le bs 3 1, peerConn := le bs 4 3, dscp := le bs 0x39 1 % 64,
      nextPsn := le bs 8 4 % c.psnMod, una := le bs 8 4 % c.psnMod, epsn := le bs 0x0C 4 % c.psnMod, txMsn := 0, rxMsn := 0,
      ops := [], pkts := [], rsps := [], marks := [], msgs := [], doneMsns := [], atomics := [], rnrs := [], early := [], back := [],
      ackDue := 0, ecn := 0, tsEcho := 0, rxAt := d.now, sentTs := [], timerOn := false, rnrWait := false, retries := 0, rnrPsn := 0, rnrRetries := 0, rto := max rmin (d.fld (R.TRN_RTO_MAX y)),
      srtt := 0, rttvar := 0, sampled := false, rate := rate, lastDec := d.now, lastIncr := d.now, errCode := 0 })
    if (Tab.find d.rings (yk y conn)).isSome then
      each [false, true] (fun r => modHalf y conn r (fun h => { h with n := 0, tail := 0, live := [], ahead := [], byFetch := false, parts := [] }))
    else pure ()
    return cOk)

@[inherit_doc connectDo] def execConnect (y conn : Nat) (desc : Option (List Byte)) (s : State) : Host.Outcome State Fault Refusal :=
  perform s (coreTake y (.connect y conn desc) (some (R.TRN_CMD_STATUS_BUSY y, R.TRN_CMD_STATUS_CMD_ERR y)) (connectDo y conn desc))

/-- MODIFY (R252 to R254). DESIGN CHOICE, log 50. -/
def modifyDo (y conn : Nat) (desc : Option (List Byte)) : M d0 Unit :=
  trnDesc y 128 desc (fun bs => do
    let d ← dev
    let c := d.conn y conn
    if !retryOk bs ∨ (c.path ≠ 0 ∧ 64 ≤ le bs 0x39 1) ∨ !zeroAt bs 0x3D 67 then return cLocalProtection
    if c.st ≠ 1 ∧ c.st ≠ 2 ∧ c.st ≠ 3 then return cResourceRefused
    modConn y conn (fun c => { c with
      retry := le bs 0x16 1, profile := le bs 0x17 1, rateMax := le bs 0x18 4, dscp := if c.path = 0 then c.dscp else le bs 0x39 1 })
    return cOk)

@[inherit_doc modifyDo] def execModify (y conn : Nat) (desc : Option (List Byte)) (s : State) : Host.Outcome State Fault Refusal :=
  perform s (coreTake y (.modify y conn desc) (some (R.TRN_CMD_STATUS_BUSY y, R.TRN_CMD_STATUS_CMD_ERR y)) (modifyDo y conn desc))

/-- REHOME (R256): the peer addressing changes at one instant; sequence numbers and congestion state stay.
DESIGN CHOICE, log 50. -/
def rehomeDo (y conn : Nat) (desc : Option (List Byte)) : M d0 Unit :=
  trnDesc y 128 desc (fun bs => do
    let c := (← dev).conn y conn
    if !peerOk c.path bs ∨ !zeroAt bs 0x3D 67 ∨ ((c.st = 2 ∨ c.st = 3) ∧ le bs 2 1 ≠ c.path) then return cLocalProtection
    if c.st ≠ 2 ∧ c.st ≠ 3 then return cResourceRefused
    modConn y conn (fun c => c.withPeer bs)
    return cOk) true

@[inherit_doc rehomeDo] def execRehome (y conn : Nat) (desc : Option (List Byte)) (s : State) : Host.Outcome State Fault Refusal :=
  perform s (coreTake y (.rehome y conn desc) (some (R.TRN_CMD_STATUS_BUSY y, R.TRN_CMD_STATUS_CMD_ERR y)) (rehomeDo y conn desc))

/-- DISCONNECT (R252). -/
def disconnectDo (y conn : Nat) : M d0 Unit :=
  trnCmd y (do
    let c := (← dev).conn y conn
    if c.st = 0 ∨ c.st = 5 then return cResourceRefused
    if c.st = 2 then modConn y conn (fun c => { c with st := 3 })
    else if c.st = 4 then connReset y conn c.errCode
    else pure ()
    return cOk)

@[inherit_doc disconnectDo] def execDisconnect (y conn : Nat) (s : State) : Host.Outcome State Fault Refusal :=
  perform s (coreTake y (.disconnect y conn) (some (R.TRN_CMD_STATUS_BUSY y, R.TRN_CMD_STATUS_CMD_ERR y)) (disconnectDo y conn))

/-- DESTROY (R252, R298): from RESET or ERROR to QUARANTINE; the rings are unbound. -/
def destroyDo (y conn : Nat) : M d0 Unit :=
  trnCmd y (do
    let c := (← dev).conn y conn
    if c.st ≠ 1 ∧ c.st ≠ 4 then return cResourceRefused
    connReset y conn (if c.st = 4 then c.errCode else cTargetUnavailable)
    modConn y conn (fun c => { c with st := 5 })
    act (.ring (yk y conn) none)
    return cOk)

@[inherit_doc destroyDo] def execDestroy (y conn : Nat) (s : State) : Host.Outcome State Fault Refusal :=
  perform s (coreTake y (.destroy y conn) (some (R.TRN_CMD_STATUS_BUSY y, R.TRN_CMD_STATUS_CMD_ERR y)) (destroyDo y conn))

/-- QUERY (R290). -/
def queryDo (y conn : Nat) : M d0 Unit :=
  trnCmd y (do
    let d ← dev
    let c := d.conn y conn
    let body :=
      if c.st = 0 then [0, 0] ++ leBytes 1 c.lastInc ++ zeros 125
      else leBytes 1 c.st ++ leBytes 1 c.inc ++ leBytes 1 c.lastInc ++ leBytes 1 c.errCode ++ leBytes 4 c.nextPsn ++ leBytes 4 c.una ++
        leBytes 4 c.epsn ++ leBytes 4 c.txMsn ++ leBytes 4 c.rxMsn ++ leBytes 4 c.rate ++ leBytes 4 c.srtt ++ leBytes 4 c.rttvar ++
        leBytes 4 c.baseRtt ++ leBytes 1 c.retries ++ leBytes 1 c.rnrRetries ++ leBytes 1 c.readsOut ++ leBytes 1 c.atomicsOut ++
        zeros 4 ++ leBytes 8 c.retx ++ leBytes 8 c.dups ++ zeros 64
    hostBus y (d.fld (R.TRN_CMD_ADDR y)) body
    return cOk) true

@[inherit_doc queryDo] def execQuery (y conn : Nat) (s : State) : Host.Outcome State Fault Refusal :=
  perform s (coreTake y (.query y conn) (some (R.TRN_CMD_STATUS_BUSY y, R.TRN_CMD_STATUS_CMD_ERR y)) (queryDo y conn))

/-- MATCH_CREATE (R282). -/
def matchCreateDo (y list : Nat) (desc : Option (List Byte)) : M d0 Unit :=
  trnDesc y 64 desc (fun bs => do
    let d ← dev
    let pasid := le bs 4 4
    let sg := le bs 8 1
    let o := le bs 0x10 8
    let n := le bs 0x18 8
    let ok := match d.segAt y pasid sg o n with
      | some (t, _) => decide (t < 2)
      | none => false
    if 2 ^ 20 ≤ pasid ∨ 8 ≤ sg ∨ !zeroAt bs 9 7 ∨ !zeroAt bs 0x20 32 ∨ o % 64 ≠ 0 ∨ n % 16448 ≠ 0 ∨ !ok then return cLocalProtection
    let m := le bs 0 4
    if 64 * (d.baysOf y).length ≤ list ∨ (Tab.find d.lists (yk y list)).isSome ∨ d.fld ((R.TRN_MATCH_FREE y).sub 0 19) < m then
      return cResourceRefused
    act (.list (yk y list) (some { maxPosted := m, pasid := pasid, sg := sg, off := o, len := n, posted := [], unexp := [] }))
    drop ((R.TRN_MATCH_FREE y).sub 0 19) m
    return cOk)

@[inherit_doc matchCreateDo] def execMatchCreate (y list : Nat) (desc : Option (List Byte)) (s : State) : Host.Outcome State Fault Refusal :=
  perform s (coreTake y (.matchCreate y list desc) (some (R.TRN_CMD_STATUS_BUSY y, R.TRN_CMD_STATUS_CMD_ERR y)) (matchCreateDo y list desc))

/-- MATCH_DESTROY (R282): its posted entries complete with TARGET_UNAVAILABLE. -/
def matchDestroyDo (y list : Nat) : M d0 Unit :=
  trnCmd y (do
    let d ← dev
    match Tab.find d.lists (yk y list) with
    | none => return cResourceRefused
    | some l =>
      if (ofYard d.conns y).any (fun c => c.2.st != 0 && c.2.st != 5 && c.2.tagged && c.2.matchList == list) then return cResourceRefused
      act (.list (yk y list) none)
      bump ((R.TRN_MATCH_FREE y).sub 0 19) l.maxPosted
      each l.posted (fun p => complete y p.ring true p.n cTargetUnavailable 0 0 0 0)
      return cOk)

@[inherit_doc matchDestroyDo] def execMatchDestroy (y list : Nat) (s : State) : Host.Outcome State Fault Refusal :=
  perform s (coreTake y (.matchDestroy y list) (some (R.TRN_CMD_STATUS_BUSY y, R.TRN_CMD_STATUS_CMD_ERR y)) (matchDestroyDo y list))

/-- QUARANTINE_EXPIRY (R255): the number returns to FREE, keeping LAST_INC and its nonce counters. -/
def execQuarantineExpiry (y conn : Nat) (s : State) : Host.Outcome State Fault Refusal :=
  perform s do
    let c := (← dev).conn y conn
    if c.st ≠ 5 then return
    act (.conn (yk y conn) (some { Conn.free with lastInc := c.lastInc, gen := c.gen, ctr := c.ctr }))

/-- CONN_DRAIN_DONE (R252): with nothing unacknowledged or unanswered and no responder work, DRAINING ends in RESET. What a
message had not sent at the DISCONNECT is never sent. -/
def execConnDrainDone (y conn : Nat) (s : State) : Host.Outcome State Fault Refusal :=
  perform s do
    let c := (← dev).conn y conn
    if c.st ≠ 3 ∨ c.pkts.any (fun p => p.sent) ∨ !c.rsps.isEmpty ∨ c.ops.any (fun o => o.started && o.answered && o.code.isNone) then return
    connReset y conn cTargetUnavailable

/-- The header of a packet that is judged again: its congestion mark has been counted. -/
def again (h : WrtHdr) : WrtHdr := { h with ce := false }

/-- Where the bytes of a response from byte `k` on lie, `m` bytes at most. -/
def RspSrc.from (s : RspSrc) (k m : Nat) : RspSrc :=
  match s with
  | .bytes bs => .bytes (slice bs k m)
  | .mem t a => .mem t (a + k)
  | .host p va => .host p (va + k)

/-! ### Request packets (R264 to R267, R271, R272, R348) -/

/-- Judge a request packet of `span` PSNs: frozen yards answer RNR (R281), plan connections and RoCEv2 connections refuse
what R269 and R288 name; `behind` and `new` do the rest. -/
def request (y opc span msn : Nat) (h : WrtHdr) (behind new : M d0 Unit) : M d0 Unit := do
  match ← classify y h with
  | .drop => pure ()
  | .behind => behind
  | .new =>
    let d ← dev
    let c := d.conn y h.conn
    if d.frozen y then rnrPkt y h.conn h.psn msn
    else if d.planConn y h.conn then nakPkt y h.conn h.psn span cRemoteAccess
    else if c.roce && !(opc == 0x01 || opc == 0x05 || opc == 0x07) then nakPkt y h.conn h.psn span 0x61
    else new

/-- Keep a packet that waits for its ATS translation, or answer RNR when the store is full (R346).
DESIGN CHOICE, log 42. -/
def storePkt (y n psn msn : Nat) (self : Instr) : M d0 Unit := do
  let r := (← dev).yard y
  let b := connBay y n
  if 512 ≤ (r.store.filter (fun e => e.1 == b)).length then rnrPkt y n psn msn
  else act (.yard y { r with store := r.store ++ [(b, Instr.arrivedAt (← dev).now self)] })

/-- Record a packet of a message, and complete what is whole. -/
def trackMsg (y n opc msn len tag imm psn : Nat) (solicit : Bool) (sink : Sink) (code : Nat) (ended : Bool := false)
    (back : Option Place := none) : M d0 Unit := do
  modConn y n (fun c =>
    match c.msgs.find? (fun m => m.msn == msn) with
    | some m => { c with msgs := c.msgs.map (fun q => if q = m then { q with
        got := q.got ++ [psn], solicit := q.solicit || solicit, code := if q.code = 0 then code else q.code, ended := q.ended || ended,
        back := if back.isSome then back else q.back } else q) }
    | none => { c with msgs := c.msgs ++ [{ msn := msn, opc := opc, len := len, tag := tag, imm := imm, solicit := solicit, sink := sink,
                                            got := [psn], total := c.packets len, code := code, ready := true, ended := ended, back := back }] })
  advanceRx y n

/-- Where a new message goes, or none for RNR: no entry, no match and no slot (R281, R283, R301), or a matching entry whose
legacy completion queue is full (R322). -/
def pickSink (y n opc msn len tag : Nat) (solicit : Bool) : M d0 (Option Sink) := do
  let d ← dev
  let c := d.conn y n
  if opc = 0x03 then
    match if c.tagged then Tab.find d.lists (yk y c.matchList) else none with
    | none => return none
    | some l =>
      match l.first tag n with
      | some p =>
        if d.cqFull y (d.ring y p.ring).rq then return none
        takePosted y c.matchList l p
        return some (.entry p.ring p.n)
      | none =>
        match l.freeSlot with
        | none => return none
        | some k =>
          takeSlot y n c.matchList l k msn tag len none solicit
          return some (.slot c.matchList k)
  else
    match d.freeRecv y n with
    | none => return none
    | some e => return some (.entry n e.n)

/-- What placing a payload met: placed, with the code its entry will complete with; refused, with the NAK and the entry's code
(R280, R315, R344); or not yet. -/
inductive Placed where
  | ok (code : Nat)
  | nak (code entry : Nat)
  | rnr
  | wait
deriving DecidableEq, Repr

/-- Place a payload at `off` of a message's sink, cut to the buffer (R284, R285). -/
def placeSink (y n off : Nat) (sink : Sink) (payload : List Byte) (host : HostSide) : M d0 Placed := do
  let d ← dev
  match sink with
  | .entry r k =>
    let q := (d.ring y r).rq
    match q.live.find? (fun e => e.n == k) with
    | none => return .ok 0
    | some e =>
      let buf := entryLen q.big true e.bytes
      match ← putLoc y (connBay y n) r k (entryLoc q.big true e.bytes) off (payload.take (buf - off)) .inbound host with
      | .ok _ => return .ok 0
      | .wait => return if host.xl = .fault ∨ !d.canMaster y then .rnr else .wait
      | .err c =>
        return if c = cHostLost then .nak cTargetUnavailable cHostLost
          else if c = cRemoteAccess then .nak cRemoteAccess cFaultUnresolved
          else if c = cMemUncorrectable then .nak c c
          else .ok c
  | .slot l k =>
    match Tab.find d.lists (yk y l) with
    | none => return .ok 0
    | some m =>
      match d.slotAt y m k (64 + off) payload.length with
      | none => return .ok cLocalProtection
      | some (t, a) => if ← agentWrite y t a payload then return .ok 0 else return .nak cMemUncorrectable cMemUncorrectable
  | _ => return .ok 0

/-- A packet of a SEND, SEND_IMM or TSEND. -/
def rxSend (y opc : Nat) (h : WrtHdr) (msn imm len off tag : Nat) (payload : List Byte) (host : HostSide) (self : Instr) : M d0 Unit :=
  request y opc 1 msn h (behindPkt y h.conn) (do
    let n := h.conn
    let c := (← dev).conn y n
    if c.passed msn then
      acceptPkt y n h.psn 1 h.ackreq
      return
    if c.rnrBlocks msn h.psn true then
      rnrPkt y n h.psn msn
      return
    let known := c.msgs.find? (fun m => m.msn == msn)
    if known.isNone && !c.knownBefore msn then
      holdEarly y n h.psn msn self
      return
    let sink ← match known with
      | some m => pure (some m.sink)
      | none => pickSink y n opc msn len tag (h.solicit && h.last)
    match sink with
    | none => rnrPkt y n h.psn msn
    | some k =>
      -- the message holds its sink from its first packet on, whatever becomes of that packet
      modConn y n (fun c => if c.msgs.any (fun m => m.msn == msn) then c else { c with
        msgs := c.msgs ++ [{ msn := msn, opc := opc, len := len, tag := tag, imm := imm, solicit := false, sink := k, got := [],
                             total := c.packets len, code := 0, ready := true }] })
      match ← placeSink y n off k payload host with
      | .rnr => rnrPkt y n h.psn msn
      | .wait => storePkt y n h.psn msn self
      | .nak code entry =>
        nakPkt y n h.psn 1 code
        trackMsg y n opc msn len tag imm h.psn (h.solicit && h.last) k entry true
      | .ok code =>
        acceptPkt y n h.psn 1 h.ackreq
        trackMsg y n opc msn len tag imm h.psn (h.solicit && h.last) k code)

/-- Note where a write of the connection went, for the read-back of a FLUSH_READ (R312). -/
def noteBack (y n : Nat) (q : Place) : M d0 Unit := modConn y n (fun c => { c with back := if c.back.contains q then c.back else q :: c.back })

/-- A packet of a WRITE, WRITE_IMM or ADDW; `apply` answers the bytes to store from the old ones.
DESIGN CHOICE, log 49. -/
def rxWrite (y opc : Nat) (h : WrtHdr) (msn imm len off wkey right unit : Nat) (payload : List Byte) (host : HostSide) (self : Instr)
    (apply : List Byte → List Byte) : M d0 Unit :=
  request y opc 1 msn h (behindPkt y h.conn) (do
    let n := h.conn
    let c := (← dev).conn y n
    let needs := opc == 0x06
    if c.passed msn then
      acceptPkt y n h.psn 1 h.ackreq
      return
    if c.rnrBlocks msn h.psn needs then
      rnrPkt y n h.psn msn
      return
    let known := c.msgs.find? (fun m => m.msn == msn)
    if needs && known.isNone && !c.knownBefore msn then
      holdEarly y n h.psn msn self
      return
    if payload.length % unit ≠ 0 ∨ off % unit ≠ 0 then
      nakPkt y n h.psn 1 cRemoteAccess
      trackMsg y n opc msn len 0 imm h.psn false .dropped 0 true
      return
    match ← winCheck y n right wkey off payload.length true host with
    | .nak code =>
      nakPkt y n h.psn 1 code
      modConn y n (fun c => { c with msgs := c.msgs.map (fun m => if m.msn = msn then { m with sink := .dropped } else m) })
      trackMsg y n opc msn len 0 imm h.psn false .dropped 0 true
    | .rnr => rnrPkt y n h.psn msn
    | .wait => storePkt y n h.psn msn self
    | target =>
      let sink ← match known with
        | some m => pure (some m.sink)
        | none => if needs then pickSink y n opc msn len 0 false else pure (some Sink.none)
      match sink with
      | none => rnrPkt y n h.psn msn
      | some k =>
        winAccept y wkey
        let bad ← match target with
          | .seg t a =>
            noteBack y n (.mem t ((a + payload.length - 1) / 64 * 64))
            if unit = 1 then pure (!(← agentWrite y t a payload))
            else match ← readMem y t a payload.length with
              | none => pure true
              | some old => pure (!(← agentWrite y t a (apply old)))
          | .host p va =>
            noteBack y n (.host p 0)
            if unit = 1 then do
              hostWr y p va payload
              pure false
            else if host.bad then do
              emit (.hostVRead (y + 1) p va payload.length)
              logUc y 3 va
              pure true
            else do
              emit (.hostVRead (y + 1) p va payload.length)
              hostWr y p va (apply ((host.data ++ zeros payload.length).take payload.length))
              pure false
          | _ => pure false
        if bad then
          nakPkt y n h.psn 1 cMemUncorrectable
          modConn y n (fun c => { c with msgs := c.msgs.map (fun m => if m.msn = msn then { m with sink := .dropped } else m) })
          trackMsg y n opc msn len 0 imm h.psn false .dropped 0 true
        else
          acceptPkt y n h.psn 1 h.ackreq
          trackMsg y n opc msn len 0 imm h.psn (h.solicit && h.last) k 0 false (match target with
            | .seg t a => some (.mem t (a + payload.length - 1))
            | .host p va => some (.host p va)
            | _ => none))

/-- The element-wise sum of R267: RNE, SAT 0, no flag reported. -/
def addElems (f : Fmt) (old new : List Byte) : List Byte :=
  let n := new.length * 8 / f.bits
  packElems f.bits ((List.zip (decodeElems f n old []) (decodeElems f n new [])).map (fun p =>
    f.encodeElem (roundTo f .rne false 0 (exactAdd p.1 p.2).1).1))

/-- SEND (R264, R271). -/
def rowSend (y : Nat) (h : WrtHdr) (msn msgLen msgOff : Nat) (payload : List Byte) (host : HostSide) : M d0 Unit :=
  rxSend y 0x01 h msn 0 msgLen msgOff 0 payload host (.send y (again h) msn msgLen msgOff payload host)

/-- SEND_IMM (R261, R264). -/
def rowSendImm (y : Nat) (h : WrtHdr) (msn imm msgLen msgOff : Nat) (payload : List Byte) (host : HostSide) : M d0 Unit :=
  rxSend y 0x02 h msn imm msgLen msgOff 0 payload host (.sendImm y (again h) msn imm msgLen msgOff payload host)

/-- TSEND (R283, R284). -/
def rowTsend (y : Nat) (h : WrtHdr) (msn msgLen msgOff tag : Nat) (payload : List Byte) (host : HostSide) : M d0 Unit :=
  rxSend y 0x03 h msn 0 msgLen msgOff tag payload host (.tsend y (again h) msn msgLen msgOff tag payload host)

/-- RTS (R283, R284): a match begins the read; otherwise the RTS waits in an unexpected slot. -/
def rowRts (y : Nat) (h : WrtHdr) (msn handle msgLen tag : Nat) : M d0 Unit :=
  request y 0x04 1 msn h (behindPkt y h.conn) (do
    let n := h.conn
    let d ← dev
    let c := d.conn y n
    if c.rnrBlocks msn h.psn true then
      rnrPkt y n h.psn msn
      return
    if !c.knownBefore msn then
      holdEarly y n h.psn msn (.rts y (again h) msn handle msgLen tag)
      return
    match if c.tagged then Tab.find d.lists (yk y c.matchList) else none with
    | none => rnrPkt y n h.psn msn
    | some l =>
      match l.first tag n with
      | some p =>
        if d.cqFull y (d.ring y p.ring).rq then rnrPkt y n h.psn msn
        else
          takePosted y c.matchList l p
          acceptPkt y n h.psn 1 h.ackreq
          let m : RxMsg := { msn := msn, opc := 0x04, len := msgLen, tag := tag, imm := 0, solicit := h.solicit, sink := .entry p.ring p.n,
                             got := [h.psn], total := 1, code := 0, ready := false }
          modConn y n (fun c => { c with msgs := c.msgs ++ [m] })
          rndvStart y n handle msgLen tag msn p true h.solicit
      | none =>
        match l.freeSlot with
        | none => rnrPkt y n h.psn msn
        | some k =>
          takeSlot y n c.matchList l k msn tag msgLen (some handle) h.solicit
          acceptPkt y n h.psn 1 h.ackreq
          msgDone y n msn)

/-- WRITE (R348). -/
def rowWrite (y : Nat) (h : WrtHdr) (msn msgLen off wkey : Nat) (payload : List Byte) (host : HostSide) : M d0 Unit :=
  rxWrite y 0x05 h msn 0 msgLen off wkey 1 1 payload host (.write y (again h) msn msgLen off wkey payload host) id

/-- WRITE_IMM (R261): it also consumes a receive-ring entry. -/
def rowWriteImm (y : Nat) (h : WrtHdr) (msn imm msgLen off wkey : Nat) (payload : List Byte) (host : HostSide) : M d0 Unit :=
  rxWrite y 0x06 h msn imm msgLen off wkey 1 1 payload host (.writeImm y (again h) msn imm msgLen off wkey payload host) id

/-- ADDW_FP32 (R267). -/
def rowAddwFp32 (y : Nat) (h : WrtHdr) (msn msgLen off wkey : Nat) (payload : List Byte) (host : HostSide) : M d0 Unit :=
  rxWrite y 0x0C h msn 0 msgLen off wkey 3 4 payload host (.addwFp32 y (again h) msn msgLen off wkey payload host) (fun old => addElems .fp32 old payload)

/-- ADDW_BF16 (R267). -/
def rowAddwBf16 (y : Nat) (h : WrtHdr) (msn msgLen off wkey : Nat) (payload : List Byte) (host : HostSide) : M d0 Unit :=
  rxWrite y 0x0D h msn 0 msgLen off wkey 3 2 payload host (.addwBf16 y (again h) msn msgLen off wkey payload host) (fun old => addElems .bf16 old payload)

/-- Queue the responses to a read of `len` bytes at `src`, whose first PSN is `psn`. Each takes its bytes as it leaves; with the
last one the read leaves window `win`. DESIGN CHOICE, log 49. -/
def queueRsps (y n psn msn len : Nat) (src : RspSrc) (win : Option Nat) : M d0 Unit := modConn y n (fun c =>
  let k := c.packets len
  { c with rsps := c.rsps ++ (List.range k).map (fun i =>
      { opc := 0x08, psn := c.psnAdd psn i, msn := msn, a := len, off := i * c.mtu, src := src.from (i * c.mtu) c.mtu,
        len := min c.mtu (len - i * c.mtu), win := if i + 1 = k then win else none, flush := false, ts := c.tsEcho, rxAt := c.rxAt }) })

/-- What a read request finds: where its bytes lie, and the window it goes through. -/
inductive ReadRes where
  | data (src : RspSrc) (win : Option Nat)
  | nak (code : Nat)
  | rnr
  | wait

/-- Where the bytes lie that a READ_REQ asks for: in a window, or in the send buffer whose descriptor HANDLE names (R260,
R284). -/
def readTarget (y n handle len off wkey : Nat) (host : HostSide) : M d0 ReadRes := do
  let d ← dev
  if wkey = 0xFFFFFFFF then
    match (d.conn y n).ops.find? (fun o => o.opc == 0x04 && o.handle == handle && o.started && o.code.isNone) with
    | none => return .nak cRemoteAccess
    | some o =>
      if o.operand < off + len then return .nak cRemoteAccess
      match o.loc.from off with
      | .inline bs => return .data (.bytes (slice bs off len)) none
      | .body _ => return .nak cRemoteAccess
      | .seg p g a =>
        match d.segAt y p g a len with
        | some (t, q) => return .data (.mem t q) none
        | none => return .nak cRemoteAccess
      | .host p va =>
        match ← reachLoc y (connBay y n) (.host p va) len false .inbound host with
        | .ok _ => return .data (.host p va) none
        | .wait => return if host.xl = .fault ∨ !d.canMaster y then .rnr else .wait
        | .err c => return .nak (if c = cHostLost then cTargetUnavailable else cRemoteAccess)
  match ← winCheck y n 0 wkey off len false host with
  | .nak c => return .nak c
  | .rnr => return .rnr
  | .wait => return .wait
  | .seg t a => return .data (.mem t a) (some (wkey / 256))
  | .host p va => return .data (.host p va) (some (wkey / 256))

/-- A read request passes its checks: it is accepted, counts in its window, and stays in flight there until it is answered
(R348). -/
def acceptRead (y n psn span wkey : Nat) (ackreq : Bool) (win : Option Nat) : M d0 Unit := do
  match win with
  | some i =>
    winAccept y wkey
    winEnter y i 1
  | none => pure ()
  acceptPkt y n psn span ackreq

/-- READ_REQ (R261, R272): a behind-window one is served again and changes no sequence state; a RoCEv2 one beyond the 16 reads
a responder serves is discarded (R288). DEDUCED, log 51. -/
def rowReadReq (y : Nat) (h : WrtHdr) (msn handle readLen off wkey : Nat) (host : HostSide) : M d0 Unit := do
  let n := h.conn
  let span := ((← dev).conn y n).packets readLen
  let self : Instr := .readReq y (again h) msn handle readLen off wkey host
  request y 0x07 span msn h
    (do match ← readTarget y n handle readLen off wkey host with
        | .data src _ => queueRsps y n h.psn msn readLen src none
        | .nak c => nakPkt y n h.psn 0 c
        | .rnr => rnrSend y n h.psn
        | .wait => storePkt y n h.psn msn self)
    (do
      let c := (← dev).conn y n
      if c.rnrBlocks msn h.psn false then
        rnrPkt y n h.psn msn
        return
      if c.roce && decide (16 ≤ ((c.rsps.filter (fun r => r.opc == 0x08)).map (fun r => r.msn)).eraseDups.length) then return
      match ← readTarget y n handle readLen off wkey host with
      | .nak c =>
        nakPkt y n h.psn span c
        msgDone y n msn
      | .rnr => rnrPkt y n h.psn msn
      | .wait => storePkt y n h.psn msn self
      | .data src win =>
        acceptRead y n h.psn span wkey h.ackreq win
        queueRsps y n h.psn msn readLen src win
        msgDone y n msn)

/-- FLUSH_READ (R265, R312): the answer waits until every lower PSN has been placed, and reads back what was written. -/
def rowFlushRead (y : Nat) (h : WrtHdr) (msn off wkey : Nat) (host : HostSide) : M d0 Unit := do
  let n := h.conn
  let answer (win : Option Nat) : M d0 Unit := modConn y n (fun c =>
    { c with rsps := c.rsps ++ [{ opc := 0x08, psn := h.psn, msn := msn, a := 0, off := 0, src := .bytes [], len := 0, win := win, flush := true, ts := c.tsEcho, rxAt := c.rxAt }] })
  request y 0x0E 1 msn h (answer none) (do
    if ((← dev).conn y n).rnrBlocks msn h.psn false then
      rnrPkt y n h.psn msn
      return
    match ← winCheck y n 0 wkey off 0 false host with
    | .nak c =>
      nakPkt y n h.psn 1 c
      msgDone y n msn
    | .rnr => rnrPkt y n h.psn msn
    | .wait => storePkt y n h.psn msn (.flushRead y (again h) msn off wkey host)
    | _ =>
      acceptRead y n h.psn 1 wkey h.ackreq (some (wkey / 256))
      answer (some (wkey / 256))
      msgDone y n msn)

/-- An atomic (R266): the old value is answered, `f` gives the new one. A behind-window one is answered from the result
store (R272). -/
def rxAtomic (y opc : Nat) (h : WrtHdr) (msn wkey off : Nat) (host : HostSide) (self : Instr) (f : Nat → Nat) : M d0 Unit := do
  let n := h.conn
  let answer (v : Nat) : M d0 Unit := modConn y n (fun c =>
    { c with rsps := c.rsps ++ [{ opc := 0x0B, psn := h.psn, msn := msn, a := v, off := 0, src := .bytes [], len := 0, win := none, flush := false }] })
  request y opc 1 msn h
    (do match ((← dev).conn y n).atomics.find? (fun p => p.1 == h.psn) with
        | some p => answer p.2
        | none => behindPkt y n)
    (do
      if ((← dev).conn y n).rnrBlocks msn h.psn false then
        rnrPkt y n h.psn msn
        return
      if off % 8 ≠ 0 then
        nakPkt y n h.psn 1 cRemoteAccess
        msgDone y n msn
        return
      match ← winCheck y n 2 wkey off 8 true host with
      | .nak c =>
        nakPkt y n h.psn 1 c
        msgDone y n msn
      | .rnr => rnrPkt y n h.psn msn
      | .wait => storePkt y n h.psn msn self
      | t =>
        winAccept y wkey
        let old : Option Nat ← match t with
          | .seg t a =>
            noteBack y n (.mem t (a / 64 * 64))
            match ← readMem y t a 8 with
            | none => pure none
            | some bs =>
              let v := leNat bs
              if ← agentWrite y t a (leBytes 8 (f v)) then pure (some v) else pure none
          | .host p va =>
            noteBack y n (.host p 0)
            emit (.hostVRead (y + 1) p va 8)
            if host.bad then do
              logUc y 3 va
              pure none
            else do
              let v := leNat (host.data.take 8)
              hostWr y p va (leBytes 8 (f v))
              pure (some v)
          | _ => pure none
        match old with
        | none =>
          nakPkt y n h.psn 1 cMemUncorrectable
          msgDone y n msn
        | some v =>
          acceptPkt y n h.psn 1 h.ackreq
          modConn y n (fun c => { c with atomics := ((h.psn, v) :: c.atomics).take 64 })
          answer v
          msgDone y n msn)

/-- FADD (R266). -/
def rowFadd (y : Nat) (h : WrtHdr) (msn wkey off operand : Nat) (host : HostSide) : M d0 Unit :=
  rxAtomic y 0x09 h msn wkey off host (.fadd y (again h) msn wkey off operand host) (fun v => (v + operand) % 2 ^ 64)

/-- CSWAP (R266). -/
def rowCswap (y : Nat) (h : WrtHdr) (msn wkey off operand compare : Nat) (host : HostSide) : M d0 Unit :=
  rxAtomic y 0x0A h msn wkey off host (.cswap y (again h) msn wkey off operand compare host) (fun v => if v = compare then operand else v)

/-- RNDV_FIN (R284): the tagged send it names completes with OK. -/
def rowRndvFin (y : Nat) (h : WrtHdr) (msn handle delivered : Nat) : M d0 Unit :=
  request y 0x0F 1 msn h (behindPkt y h.conn) (do
    let n := h.conn
    acceptPkt y n h.psn 1 h.ackreq
    modConn y n (fun c => { c with ops := c.ops.map (fun o =>
      if o.opc = 0x04 ∧ o.handle = handle ∧ o.started ∧ o.code = none then { o with code := some 0, operand := delivered } else o) })
    flushOps y n
    msgDone y n msn)

/-! ### Responses (R268, R276, R277) -/

/-- Whether a response or acknowledgement is the connection's: tag, state, incarnation, source (R250, R252, R271). A plan
connection refuses what is no acknowledgement (R269); a CE mark on RoCEv2 is answered with a CNP (R288). -/
def respOk (y : Nat) (h : WrtHdr) (ack : Bool) : M d0 Bool := do
  ethConsume y h.conn
  let d ← dev
  let c := d.conn y h.conn
  if !d.takes y || !d.present y || (d.yard y).resetting || d.ctl.warm then
    if !d.takes y || (d.yard y).resetting then idleDiscard else pure ()
    return false
  if !h.tagOk || (!c.roce && !d.keyed y) then
    if !c.roce then bump (R.TRN_AUTH_FAIL y) 1 else pure ()
    return false
  if c.st ≠ 2 ∧ c.st ≠ 3 then
    bump (R.TRN_SRC_DISCARD y) 1
    return false
  if !c.roce && h.inc ≠ c.inc then
    bump (R.TRN_STALE_DISCARD y) 1
    return false
  if (!c.roce && h.src ≠ c.peerAddr) || (c.path ≠ 0 && h.ip != c.peerIp) then
    bump (R.TRN_SRC_DISCARD y) 1
    return false
  if h.ce then
    bump (R.TRN_ECN_MARKS y) 1
    modConn y h.conn (fun c => { c with ecn := min 65535 (c.ecn + 1) })
    if c.roce then sendCnp y h.conn else pure ()
  if !ack && d.planConn y h.conn then
    echo y h
    sendAck y h.conn 0x11 cRemoteAccess 0 h.psn
    return false
  bump (R.TRN_RX_PKTS y) 1
  return true

/-- Progress (R276): the retry count returns to 0, and the timer starts again. -/
def progress (y n : Nat) : M d0 Unit := do
  let d ← dev
  modConn y n (fun c => d.rtoStart y { c with retries := 0 })

/-- The last response of an operation is placed: nothing of it is to be asked for again (R276, R277, R279). -/
def answeredOp (y n : Nat) (o o' : SendOp) : M d0 Unit := do
  modConn y n (fun c => { c with
    ops := c.ops.map (fun q => if q = o then o' else q)
    pkts := if o'.code.isSome then c.pkts.filter (fun p => !(p.msn == o.msn && c.before p.psn c.una)) else c.pkts })
  flushOps y n

/-- READ_RSP (R268): placed on arrival; a response already held is discarded (R277). One whose host memory cannot be written, the
interface being locked or the page under invalidation, is not placed: the read asks again. -/
def execReadRsp (y : Nat) (h : WrtHdr) (msn readLen off : Nat) (payload : List Byte) (s : State) : Host.Outcome State Fault Refusal :=
  perform s do
    let n := h.conn
    let _ := (readLen, off)
    if !(← respOk y h false) then return
    progress y n
    let c := (← dev).conn y n
    match c.ops.find? (fun o => (o.opc == 0x07 || o.opc == 0x0E) && o.started && o.code.isNone && o.msn == msn && decide (c.gap o.psn h.psn < o.npsn)) with
    | none => pure ()
    | some o =>
      let i := c.gap o.psn h.psn
      if o.got.contains i then return
      let res ← putLoc y (connBay y n) 0 0 o.loc (i * c.mtu) payload (.conn n) HostSide.there
      if res = .wait then return
      let o' := { o with got := o.got ++ [i], code := match res with
        | .err e => some e
        | _ => if o.got.length + 1 = o.npsn then some 0 else none }
      answeredOp y n o o'
      advanceRx y n

/-- ATOMIC_RSP (R261, R302): the original value goes to the 8 bytes at LOCAL. -/
def execAtomicRsp (y : Nat) (h : WrtHdr) (msn original : Nat) (s : State) : Host.Outcome State Fault Refusal :=
  perform s do
    let n := h.conn
    if !(← respOk y h false) then return
    progress y n
    let c := (← dev).conn y n
    match c.ops.find? (fun o => (o.opc == 0x09 || o.opc == 0x0A) && o.started && o.code.isNone && o.msn == msn) with
    | none => pure ()
    | some o =>
      let res ← putLoc y (connBay y n) 0 0 o.loc 0 (leBytes 8 original) (.conn n) HostSide.there
      if res = .wait then return
      let code := match res with
        | .err e => e
        | _ => 0
      answeredOp y n o { o with code := some code }

/-! ### ACK and NAK (R275 to R281, R287) -/

/-- Take a round-trip sample (R276). DEDUCED, log 52. -/
def Conn.sample (c : Conn) (t lo hi : Nat) : Conn :=
  let c' :=
    if !c.sampled then { c with srtt := t, rttvar := t / 2, sampled := true }
    else { c with rttvar := (3 * c.rttvar + (if c.srtt < t then t - c.srtt else c.srtt - t)) / 4, srtt := (7 * c.srtt + t) / 8 }
  { c' with baseRtt := if c.baseSet then min c.baseRtt t else t, baseSet := true, rto := max lo (min hi (c'.srtt + 4 * c'.rttvar)) }

/-- Congestion control on an acknowledgement, by its sample and its marks, or by its marks alone (R287). DEDUCED, log 52. -/
def Dev.ccAck (d : Dev) (y : Nat) (c : Conn) (t : Option Nat) (ecn : Nat) : Conn :=
  let rmin := d.fld ((R.TRN_CC_RATE_MIN y c.profile).sub 0 24)
  let target := d.fld ((R.TRN_CC_TARGET y c.profile).sub 0 20)
  let md := d.fld ((R.TRN_CC_MD y c.profile).sub 0 8)
  let late := match t with
    | some v => decide (target < v - c.baseRtt)
    | none => false
  if c.ccOn && (decide (0 < ecn) || late) && decide (c.srtt ≤ d.now - c.lastDec) then
    { c with rate := max rmin (c.rate - c.rate * md / 256), lastDec := d.now, lastIncr := d.now }
  else c

/-- Mark lost packets for retransmission (R275): unmarked, before the highest mark, with 3 marked PSNs after them.
DEDUCED, log 52. -/
def Conn.loseGaps (c : Conn) (now : Nat) : Conn :=
  let after (p : TxPkt) : Nat := ((c.pkts.filter (fun q => q.marked && c.before p.psn q.psn)).map (fun q => q.span)).foldl (fun a b => a + b) 0
  { c with pkts := c.pkts.map (fun p =>
      if !p.marked && p.sent && decide (3 ≤ after p) && (!p.retx || decide (c.srtt ≤ now - p.lastTx)) then { p with due := true } else p) }

/-- The acknowledgement part of an ACK or NAK. It gives a sample when the timestamp it echoes is one of the connection's (R276). -/
def ackPart (y n ackPsn : Nat) (e : AckExt) : M d0 Unit := do
  let d ← dev
  let c := d.conn y n
  let t := (d.now + 2 ^ 33 - e.tsEcho % 2 ^ 32 - e.rxDelay % 2 ^ 32) % 2 ^ 32
  let c :=
    if c.roce then c
    else if c.sentTs.contains (e.tsEcho % 2 ^ 32) then
      d.ccAck y (c.sample t (1000 * d.fld (R.TRN_RTO_MIN y)) (1000 * d.fld (R.TRN_RTO_MAX y))) (some t) e.ecnCount
    else d.ccAck y c none e.ecnCount
  let newUna := c.psnAdd ackPsn 1
  let fwd := c.gap c.una newUna
  if c.gap c.una c.nextPsn < fwd then
    act (.conn (yk y n) (some c))         -- an older ACK: the round-trip estimate only
    return
  let sacked (p : TxPkt) : Bool := e.sack.any (fun j => c.gap newUna p.psn == j)
  let fresh := c.pkts.any (fun p => p.sent && !p.marked && sacked p)
  let pkts := (c.pkts.filter (fun p => !(p.sent && decide (c.gap c.una p.psn < fwd)))).map (fun p => if p.sent && sacked p then { p with marked := true } else p)
  let done (o : SendOp) : Bool := o.started && !o.answered && o.opc != 0x04 && decide (o.npsn ≤ c.gap o.psn newUna) && decide (c.gap o.psn newUna < c.psnMod / 2)
  let c := { c with una := newUna, pkts := pkts }
  let c := if fwd ≠ 0 ∨ fresh then d.rtoStart y { c with retries := 0 } else c
  let c := if fresh then c.loseGaps d.now else c
  act (.conn (yk y n) (some (c.settle done 0)))
  flushOps y n

/-- ACK (R275 to R277). A RoCEv2 acknowledgement is judged by its AETH syndrome. -/
def execAck (y : Nat) (h : WrtHdr) (e : AckExt) (s : State) : Host.Outcome State Fault Refusal :=
  perform s do
    if ← respOk y h true then ackPart y h.conn h.psn e else pure ()

/-- What an RNR asks of the sender (R280, R278). -/
def rnrHeard (y n psn : Nat) : M d0 Unit := do
  bump (R.TRN_RNR_RCVD y) 1
  modConn y n (fun c => { c with
    rnrWait := true, rnrRetries := if c.rnrRetries ≠ 0 ∧ c.rnrPsn = psn then c.rnrRetries + 1 else 1, rnrPsn := psn })
  let c := (← dev).conn y n
  let lim := bits c.retry 4 3
  if lim ≠ 7 ∧ lim < c.rnrRetries then connError y n cRnrExceeded else pure ()

/-- NAK (R280): the operation it concerns ends, and sends no more. On RoCEv2 the PSN of the BTH is the one it concerns, and the
syndrome is an AETH's: 0x20 to 0x3F RNR, 0x60 sequence error, others end the connection. -/
def execNak (y : Nat) (h : WrtHdr) (e : AckExt) (s : State) : Host.Outcome State Fault Refusal :=
  perform s do
    if !(← respOk y h true) then return
    let n := h.conn
    let c := (← dev).conn y n
    let nak := if c.roce then h.psn else e.nakPsn
    ackPart y n (if c.roce then h.psn + c.psnMod - 1 else h.psn) e
    let fails (code : Nat) : M s.dev Unit := do
      modConn y n (fun c => { c with ops := c.ops.map (fun o =>
        if o.started && o.code.isNone && decide (c.gap o.psn e.nakPsn < o.npsn) then
          { o with code := some code, npsn := if o.answered then o.npsn else min o.npsn (c.gap o.psn c.nextPsn) }
        else o) })
      modConn y n (fun c => { c with pkts := c.pkts.map (fun p => if decide (c.gap p.psn e.nakPsn < p.span) then { p with marked := true, due := false } else p) })
      flushOps y n
      advanceRx y n
    if c.roce then
      if e.syndrome / 0x20 = 1 then rnrHeard y n nak
      else if e.syndrome = 0x60 then
        modConn y n (fun c => { c with pkts := c.pkts.map (fun p => if p.sent && decide (c.gap nak p.psn < c.psnMod / 2) then { p with due := true } else p) })
      else connError y n cRemoteAccess
    else if e.syndrome = 1 then rnrHeard y n e.nakPsn
    else fails e.syndrome

/-! ### Timers (R274, R276, R280, R287) -/

/-- RETRANSMIT_TIMER_EXPIRY (R276 to R278, R287). DESIGN CHOICE, log 48. -/
def execRetransmitTimerExpiry (y conn : Nat) (s : State) : Host.Outcome State Fault Refusal :=
  perform s do
    let d ← dev
    let c := d.conn y conn
    let lacking := c.ops.filter (fun o => o.started && o.answered && o.code.isNone && !c.pkts.any (fun p => p.msn == o.msn && p.sent))
    if (c.st ≠ 2 ∧ c.st ≠ 3) ∨ !d.live y ∨ (!c.pkts.any (fun p => p.sent) ∧ lacking.isEmpty) then return
    let lim := bits c.retry 0 4
    let rmin := d.fld ((R.TRN_CC_RATE_MIN y c.profile).sub 0 24)
    let again := lacking.map (fun o =>
      ({ psn := o.psn, span := o.npsn, msn := o.msn, off := 0, len := 0, first := true, last := true, ackreq := true, solicit := false,
         sent := true, due := true, marked := false, lastTx := d.now, retx := true, body := [], payload := [] } : TxPkt))
    modConn y conn (fun c => { c with
      retries := c.retries + 1, rto := min (2 * c.rto) (1000 * d.fld (R.TRN_RTO_MAX y))
      pkts := c.pkts.map (fun p => if p.sent && !p.marked then { p with due := true } else p) ++ again
      rate := if c.ccOn then max rmin (c.rate / 2) else c.rate
      lastDec := if c.ccOn then d.now else c.lastDec
      lastIncr := if c.ccOn then d.now else c.lastIncr })
    if lim ≠ 0 ∧ lim < c.retries + 1 then connError y conn cRetryExceeded else pure ()

/-- ACK_TIMER_EXPIRY (R274): TRN_ACK_CTRL.TIME has passed since the first packet not acknowledged. -/
def execAckTimerExpiry (y conn : Nat) (s : State) : Host.Outcome State Fault Refusal :=
  perform s do
    let d ← dev
    let c := d.conn y conn
    if (c.st = 2 ∨ c.st = 3) ∧ c.timerOn ∧ d.live y then ackNow y conn else pure ()

/-- INCREASE_TIMER (R287). -/
def execIncreaseTimer (y conn : Nat) (s : State) : Host.Outcome State Fault Refusal :=
  perform s do
    let d ← dev
    let c := d.conn y conn
    if (c.st = 2 ∨ c.st = 3) ∧ c.ccOn then
      modConn y conn (fun c => { c with rate := min c.rateMax (c.rate + d.fld ((R.TRN_CC_AI y c.profile).sub 0 24)), lastIncr := d.now })
    else pure ()

/-- RNR_WAIT_END (R280): every unmarked PSN from NAK_PSN on is retransmitted. -/
def execRnrWaitEnd (y conn : Nat) (s : State) : Host.Outcome State Fault Refusal :=
  perform s do
    let c := (← dev).conn y conn
    if !c.rnrWait then return
    modConn y conn (fun c => { c with
      rnrWait := false
      pkts := c.pkts.map (fun p => if p.sent && !p.marked && decide (c.gap c.rnrPsn p.psn < c.psnMod / 2) then { p with due := true } else p) })

/-! ### Transmission (R286) -/

/-- The read-backs of a responder's FLUSH_READ (R312): false when a line cannot be corrected. -/
def readBacks (y n : Nat) : M d0 Bool := do
  let c := (← dev).conn y n
  let rs ← gather c.back (fun q => match q with
    | .mem t a => readLine y t a
    | .host p _ => do
      readNone y p
      pure true)
  modConn y n (fun c => { c with back := [] })
  return rs.all id

/-- Take the responses of message `msn` out of the queue; they leave their window. -/
def dropRsps (y n msn : Nat) : M d0 Unit := do
  let c := (← dev).conn y n
  each ((c.rsps.filter (fun r => r.msn == msn)).filterMap (fun r => r.win)) (winLeave y)
  modConn y n (fun c => { c with rsps := c.rsps.filter (fun r => r.msn != msn) })

/-- Send a response that may go: its bytes are read now. A read that meets an uncorrectable unit is answered with a NAK (R280),
and one whose host memory cannot be read yet stays (R340). -/
def sendRsp (y n : Nat) (r : RspPkt) (host : HostSide) : M d0 Unit := do
  let got : LocRes ← match r.src with
    | .bytes bs => pure (.ok bs)
    | .mem t a => do
      match ← readMem y t a r.len with
      | some bs => pure (.ok bs)
      | none => pure (.err cMemUncorrectable)
    | .host p va => if r.len = 0 then pure (.ok []) else hostSide y (connBay y n) p va r.len false .inbound host
  match got with
  | .wait => return
  | .err c =>
    dropRsps y n r.msn
    modConn y n (fun c => { c with tsEcho := r.ts, rxAt := r.rxAt })
    if c = cHostLost then pure () else nakPkt y n r.psn 0 c
  | .ok bs =>
    if r.flush && !(← readBacks y n) then
      dropRsps y n r.msn
      modConn y n (fun c => { c with tsEcho := r.ts, rxAt := r.rxAt })
      nakPkt y n r.psn 0 cMemUncorrectable
    else
      modConn y n (fun c => { c with rsps := c.rsps.erase r })
      match r.win with
      | some i => winLeave y i
      | none => pure ()
      let ext := if r.opc = 0x08 then beBytes 4 r.msn ++ zeros 4 ++ beBytes 8 r.a ++ beBytes 8 r.off ++ zeros 8
        else beBytes 4 r.msn ++ zeros 4 ++ beBytes 8 r.a ++ zeros 16
      let _ ← wrtSend y n r.opc 0 r.psn ext bs

/-- Send a packet that waits for retransmission. -/
def resend (y n : Nat) (p : TxPkt) (host : HostSide) : M d0 Unit := do
  let d ← dev
  let c := d.conn y n
  let sent ← if !p.body.isEmpty then
      wrtSend y n p.msn (1 + 2 + 4 + 8) p.psn p.body p.payload
    else match c.ops.find? (fun o => o.started && o.msn == p.msn) with
      | none => pure true
      | some o => sendOpPkt y n o p.off true true host
  if sent then
    bump (R.TRN_RETX y) 1
    modConn y n (fun c => { c with retx := c.retx + 1, pkts := c.pkts.map (fun q => if q = p then { q with due := false, retx := true, lastTx := d.now } else q) })
  else pure ()

/-- Send the first ring packet not yet sent, within the window (R269, R273). -/
def sendHop (y n : Nat) (p : TxPkt) : M d0 Unit := do
  let d ← dev
  let c := d.conn y n
  if c.rnrWait ∨ c.window ≤ c.gap c.una p.psn then return
  if ← wrtSend y n p.msn (1 + 2 + 4) p.psn p.body p.payload then
    modConn y n (fun c => { (if c.pkts.any (fun q => q.sent) then c else d.rtoStart y c) with nextPsn := c.psnAdd p.psn 1, pkts := c.pkts.map (fun q => if q = p then { q with sent := true, lastTx := d.now } else q) })
  else pure ()

/-- PACED_TRANSMISSION (R286): the connection sends its next packet: a response, else a retransmission, else a new one. -/
def execPacedTransmission (y conn : Nat) (host : HostSide) (s : State) : Host.Outcome State Fault Refusal :=
  perform s do
    let d ← dev
    let c := d.conn y conn
    if (c.st ≠ 2 ∧ c.st ≠ 3) ∨ !d.live y then return
    match c.rsps.find? (fun r => !r.flush || (decide (1 ≤ c.gap r.psn c.epsn) && decide (c.gap r.psn c.epsn ≤ c.psnMod / 2))) with
    | some r => sendRsp y conn r host
    | none =>
      match c.pkts.find? (fun p => p.due && !p.marked) with
      | some p => resend y conn p host
      | none =>
        match c.pkts.find? (fun p => !p.sent) with
        | some p => if c.st = 2 then sendHop y conn p else pure ()
        | none => sendNew y conn host

/-! ### Request packets arrive, wait and come again (R346) -/

/-- Judge and apply a request packet. -/
def runPkt (i : Instr) : M d0 Unit :=
  match i with
  | .send y h msn len off pl host => rowSend y h msn len off pl host
  | .sendImm y h msn imm len off pl host => rowSendImm y h msn imm len off pl host
  | .tsend y h msn len off tag pl host => rowTsend y h msn len off tag pl host
  | .rts y h msn hd len tag => rowRts y h msn hd len tag
  | .write y h msn len off k pl host => rowWrite y h msn len off k pl host
  | .writeImm y h msn imm len off k pl host => rowWriteImm y h msn imm len off k pl host
  | .addwFp32 y h msn len off k pl host => rowAddwFp32 y h msn len off k pl host
  | .addwBf16 y h msn len off k pl host => rowAddwBf16 y h msn len off k pl host
  | .readReq y h msn hd len off k host => rowReadReq y h msn hd len off k host
  | .fadd y h msn k off v host => rowFadd y h msn k off v host
  | .cswap y h msn k off v cmp host => rowCswap y h msn k off v cmp host
  | .flushRead y h msn off k host => rowFlushRead y h msn off k host
  | .rndvFin y h msn hd n _ => rowRndvFin y h msn hd n
  | _ => pure ()

/-- A request packet with another host side, whose lacking page is the one it waited for. -/
def withHost (i : Instr) (host : HostSide) : Instr :=
  match i with
  | .send y h msn len off pl h0 => .send y h msn len off pl { host with page := h0.page }
  | .sendImm y h msn imm len off pl h0 => .sendImm y h msn imm len off pl { host with page := h0.page }
  | .tsend y h msn len off tag pl h0 => .tsend y h msn len off tag pl { host with page := h0.page }
  | .write y h msn len off k pl h0 => .write y h msn len off k pl { host with page := h0.page }
  | .writeImm y h msn imm len off k pl h0 => .writeImm y h msn imm len off k pl { host with page := h0.page }
  | .addwFp32 y h msn len off k pl h0 => .addwFp32 y h msn len off k pl { host with page := h0.page }
  | .addwBf16 y h msn len off k pl h0 => .addwBf16 y h msn len off k pl { host with page := h0.page }
  | .readReq y h msn hd len off k h0 => .readReq y h msn hd len off k { host with page := h0.page }
  | .fadd y h msn k off v h0 => .fadd y h msn k off v { host with page := h0.page }
  | .cswap y h msn k off v cmp h0 => .cswap y h msn k off v cmp { host with page := h0.page }
  | .flushRead y h msn off k h0 => .flushRead y h msn off k { host with page := h0.page }
  | x => x

/-- Take in the kept packets whose turn is known now (R264, R283). -/
def runEarly (y n : Nat) : M d0 Unit := do
  upTo ((← dev).conn y n).early.length (do
    let c := (← dev).conn y n
    match c.early.find? (fun e => c.msgs.any (fun m => m.msn == e.2.1) || c.knownBefore e.2.1) with
    | none => return false
    | some e =>
      modConn y n (fun c => { c with early := c.early.erase e })
      runPkt e.2.2
      return true)

/-- A request packet arrives for connection `n`: it is judged and applied, and then those that waited for it. -/
def arrive (y n : Nat) (i : Instr) : M d0 Unit := do
  ethConsume y n
  runPkt i
  runEarly y n

/-- The request rows (R261, R264 to R267, R283, R284, R348). -/
def execSend (y : Nat) (h : WrtHdr) (msn msgLen msgOff : Nat) (payload : List Byte) (host : HostSide) (s : State) :
    Host.Outcome State Fault Refusal := perform s (arrive y h.conn (.send y h msn msgLen msgOff payload host))
def execSendImm (y : Nat) (h : WrtHdr) (msn imm msgLen msgOff : Nat) (payload : List Byte) (host : HostSide) (s : State) :
    Host.Outcome State Fault Refusal := perform s (arrive y h.conn (.sendImm y h msn imm msgLen msgOff payload host))
def execTsend (y : Nat) (h : WrtHdr) (msn msgLen msgOff tag : Nat) (payload : List Byte) (host : HostSide) (s : State) :
    Host.Outcome State Fault Refusal := perform s (arrive y h.conn (.tsend y h msn msgLen msgOff tag payload host))
def execRts (y : Nat) (h : WrtHdr) (msn handle msgLen tag : Nat) (s : State) : Host.Outcome State Fault Refusal :=
  perform s (arrive y h.conn (.rts y h msn handle msgLen tag))
def execWrite (y : Nat) (h : WrtHdr) (msn msgLen off wkey : Nat) (payload : List Byte) (host : HostSide) (s : State) :
    Host.Outcome State Fault Refusal := perform s (arrive y h.conn (.write y h msn msgLen off wkey payload host))
def execWriteImm (y : Nat) (h : WrtHdr) (msn imm msgLen off wkey : Nat) (payload : List Byte) (host : HostSide) (s : State) :
    Host.Outcome State Fault Refusal := perform s (arrive y h.conn (.writeImm y h msn imm msgLen off wkey payload host))
def execAddwFp32 (y : Nat) (h : WrtHdr) (msn msgLen off wkey : Nat) (payload : List Byte) (host : HostSide) (s : State) :
    Host.Outcome State Fault Refusal := perform s (arrive y h.conn (.addwFp32 y h msn msgLen off wkey payload host))
def execAddwBf16 (y : Nat) (h : WrtHdr) (msn msgLen off wkey : Nat) (payload : List Byte) (host : HostSide) (s : State) :
    Host.Outcome State Fault Refusal := perform s (arrive y h.conn (.addwBf16 y h msn msgLen off wkey payload host))
def execReadReq (y : Nat) (h : WrtHdr) (msn handle readLen off wkey : Nat) (host : HostSide) (s : State) :
    Host.Outcome State Fault Refusal := perform s (arrive y h.conn (.readReq y h msn handle readLen off wkey host))
def execFadd (y : Nat) (h : WrtHdr) (msn wkey off operand : Nat) (host : HostSide) (s : State) :
    Host.Outcome State Fault Refusal := perform s (arrive y h.conn (.fadd y h msn wkey off operand host))
def execCswap (y : Nat) (h : WrtHdr) (msn wkey off operand compare : Nat) (host : HostSide) (s : State) :
    Host.Outcome State Fault Refusal := perform s (arrive y h.conn (.cswap y h msn wkey off operand compare host))
def execFlushRead (y : Nat) (h : WrtHdr) (msn off wkey : Nat) (host : HostSide) (s : State) :
    Host.Outcome State Fault Refusal := perform s (arrive y h.conn (.flushRead y h msn off wkey host))
def execRndvFin (y : Nat) (h : WrtHdr) (msn handle delivered code : Nat) (s : State) : Host.Outcome State Fault Refusal :=
  perform s (arrive y h.conn (.rndvFin y h msn handle delivered code))

/-- What else of a bay waits for a translation goes on with what it brings: laps, and the scans of its rings (R302, R340, R343). -/
def rescanBay (y b : Nat) (xl : Xlat) : M d0 Unit := do
  let d ← dev
  if !d.live y then return
  if b = y then retryLaps y xl else pure ()
  each ((ofYard d.rings y).filter (fun r => connBay y r.1 == b)) (fun r => each [false, true] (fun recv => do
    let h := ((← dev).ring y r.1).half recv
    if h.pendScan then
      modHalf y r.1 recv (fun h => { h with pendScan := false })
      scanFrom y r.1 recv h.ahead xl
    else pure ()))

/-- ATS_TRANSLATION_DONE (R346): the oldest packet of the bay's store proceeds; R271 and R348 apply to it then. With no packet
stored the ring fetches that wait proceed. -/
def execAtsTranslationDone (b : Nat) (ok : Bool) (data : List Byte) (s : State) : Host.Outcome State Fault Refusal :=
  perform s do
    let d ← dev
    match d.yardOf b with
    | none => pure ()
    | some y =>
      let r := d.yard y
      let xl : Xlat := if ok then .hit else .fault
      match r.store.find? (fun e => e.1 == b) with
      | none => rescanBay y b xl
      | some e =>
        act (.yard y { r with store := r.store.erase e })
        runPkt (withHost e.2 { xl := xl, data := data, bad := false })
        each ((ofYard (← dev).conns y).filter (fun q => connBay y q.1 == b && !q.2.early.isEmpty)) (fun q => runEarly y q.1)

end Sys2Proof.Machine
end

