-- ==== Sys2Proof/Machine/Rings.lean ====
section
/-! DEFINITION. The host rings' commands (10): binding, doorbells and pushes, the ring entries, the legacy queues. -/

namespace Sys2Proof.Machine

variable {d0 : Dev}

/-! ### Ring commands (R298, R323) -/

/-- Run a YRD_RING_CMD command; `f` answers its result. DESIGN CHOICE, log 13. -/
def ringCmd (y : Nat) (f : M d0 Nat) : M d0 Unit := do
  let d ← dev
  if !(← yfReach y) then return
  let finish (code : Nat) : M d0 Unit := do
    wr (R.YRD_RING_STATUS_RESULT y) code
    wr (R.YRD_RING_STATUS_DONE y) 1
  if (d.yard y).fatal then wr (R.YRD_RING_STATUS_CMD_ERR y) 1
  else if d.frozen y then finish cYardFrozen
  else finish (← f)

/-- Whether a ring of a binding lies inside its context. -/
def Dev.ringPlaceOk (d : Dev) (y pasid sg addr len : Nat) (inSeg : Bool) : Bool :=
  if inSeg then decide (sg < 8) && (d.segAt y pasid sg addr len).isSome else d.hostCtx y pasid

/-- BIND (R298, R299). -/
def execBind (y conn : Nat) (desc : Option (List Byte)) (s : State) : Host.Outcome State Fault Refusal :=
  perform s (ringCmd y (do
    match ← fetchDesc y ((← dev).fld (R.YRD_RING_ADDR y)) 64 desc with
    | none => return cLocalProtection
    | some bs =>
      let d ← dev
      let sqa := le bs 0 8
      let rqa := le bs 8 8
      let sql := le bs 0x10 1
      let rql := le bs 0x11 1
      let es := le bs 0x12 1
      let loc := le bs 0x13 1
      let pasid := le bs 0x14 4
      let fetch := le bs 0x1A 2
      let vec := le bs 0x1C 2
      let logOk (l : Nat) : Bool := decide (4 ≤ l) && decide (l ≤ 16)
      let size (i : Nat) : Nat := if bit es i then 256 else 64
      if sqa % 4096 ≠ 0 ∨ rqa % 4096 ≠ 0 ∨ !logOk sql ∨ !logOk rql ∨ 4 ≤ es ∨ 4 ≤ loc ∨ 2 ^ 20 ≤ pasid ∨ fetch = 0 ∨
          min 1024 (2 ^ min sql rql - 1) < fetch ∨ (2048 ≤ vec ∧ vec ≠ 0xFFFF) ∨ 4 ≤ le bs 0x1E 1 ∨ 2 ≤ le bs 0x1F 1 ∨ !zeroAt bs 0x20 32 ∨
          !d.ringPlaceOk y pasid (le bs 0x18 1) sqa (2 ^ sql * size 0) (bit loc 0) ∨
          !d.ringPlaceOk y pasid (le bs 0x19 1) rqa (2 ^ rql * size 1) (bit loc 1) then return cLocalProtection
      if d.connCount y ≤ conn ∨ (d.conn y conn).st ≠ 1 ∨ d.planConn y conn ∨ bit (d.fld (R.YRD_MODE y)) 0 then return cResourceRefused
      let half (a l i o : Nat) : Half :=
        { Half.unbound with bound := true, addr := a, log := l, big := bit es i, inSeg := bit loc i, sg := le bs o 1, pasid := pasid }
      act (.ring (yk y conn) (some { sq := half sqa sql 0 0x18, rq := half rqa rql 1 0x19, fetch := fetch, vector := vec,
                                     irqMode := le bs 0x1E 1, push := bit (le bs 0x1F 1) 0, raw := bs.take 32 }))
      return cOk))

/-- UNBIND (R298). -/
def execUnbind (y conn : Nat) (s : State) : Host.Outcome State Fault Refusal :=
  perform s (ringCmd y (do
    let d ← dev
    if (d.conn y conn).st ≠ 1 ∨ d.planConn y conn ∨ bit (d.fld (R.YRD_MODE y)) 0 then return cResourceRefused
    act (.ring (yk y conn) none)
    return cOk))

/-- QUERY of a pair of rings (R323). -/
def execRingQuery (y conn : Nat) (s : State) : Host.Outcome State Fault Refusal :=
  perform s (ringCmd y (do
    let d ← dev
    let g := d.ring y conn
    hostBus y (d.fld (R.YRD_RING_ADDR y))
      (g.raw ++ leBytes 4 g.sq.n ++ leBytes 4 g.sq.written ++ leBytes 4 g.rq.n ++ leBytes 4 g.rq.written ++ zeros 16)
    return cOk))

/-! ### Doorbells and pushes (R303, R307, R308) -/

/-- A doorbell of a native ring. -/
def ringBell (y r : Nat) (recv : Bool) (mem : List (List Byte)) (xl : Xlat) : M d0 Unit := do
  let d ← dev
  let h := (d.ring y r).half recv
  if !h.bound ∨ h.cq.isSome ∨ (d.conn y r).st ≠ 2 then bump (R.YRD_DB_DROPPED y) 1
  else if d.frozen y then modHalf y r recv (fun h => { h with pendScan := true, ahead := if mem.isEmpty then h.ahead else mem })
  else scanFrom y r recv mem xl

/-- DOORBELL (R303). DESIGN CHOICE, log 55. -/
def execDoorbell (y r : Nat) (recv : Bool) (mem : List (List Byte)) (s : State) (xl : Xlat := .hit) :
    Host.Outcome State Fault Refusal :=
  perform s do
    let d ← dev
    if (← yfReach y) && decide (r < d.connCount y) then ringBell y r recv mem xl else pure ()

/-- PUSH (R307, R308): an accepted push is the fetch of entry n; any other write counts as a doorbell, the parts of a push that
is given up too. DESIGN CHOICE, log 55. -/
def execPush (y r off : Nat) (bytes : List Byte) (mem : List (List Byte)) (s : State) (xl : Xlat := .hit) :
    Host.Outcome State Fault Refusal :=
  perform s do
    let d ← dev
    if !(← yfReach y) ∨ d.connCount y ≤ r then return
    let g := d.ring y r
    let h := g.sq
    let asBell (n : Nat) : M s.dev Unit := do
      bump (R.YRD_PUSH_AS_DOORBELL y) n
      modHalf y r false (fun h => { h with parts := [] })
      ringBell y r false mem xl
    let native := h.bound && h.cq.isNone && g.push && (d.conn y r).st == 2 && !d.frozen y && !h.pendScan && bytes.length == 64
    if !native then
      if h.bound then asBell (1 + h.parts.length)
      else
        bump (R.YRD_PUSH_AS_DOORBELL y) 1
        bump (R.YRD_DB_DROPPED y) 1
    else
      let parts := if h.big && off != 0 then h.parts else []
      if off ≠ 64 * parts.length then asBell (1 + h.parts.length)
      else if h.big && decide (off < 0xC0) then
        if off = 0 && !h.parts.isEmpty then asBell h.parts.length else pure ()
        modHalf y r false (fun h => { h with parts := parts ++ [bytes] })
      else
        let e := (parts ++ [bytes]).flatten
        if le e 3 1 = h.n % 256 ∧ h.owns e ∧ h.live.length < g.fetch then
          bump (R.YRD_PUSH_ACCEPTED y) 1
          modHalf y r false (fun h => { h with
            n := (h.n + 1) % 2 ^ 32, parts := [],
            live := h.live ++ [{ n := h.n, bytes := e, started := false, out := none }] })
          scanFrom y r false (mem.drop 1) xl
        else asBell (1 + h.parts.length)

/-! ### Send entries (R300, R302) -/

/-- The first code of R302 that refuses a send entry, or 0. -/
def Dev.sendCode (d : Dev) (y r : Nat) (h : Half) (e : List Byte) : Nat :=
  let ctrl := le e 0 1
  let op := opOf e
  let inl := bit ctrl 2
  let len := le e 0x10 8
  let loc := entryLoc h.big false e
  let known := [0x00, 0x01, 0x02, 0x03, 0x05, 0x06, 0x07, 0x09, 0x0A, 0x0C, 0x0D, 0x0E].contains op
  let usesLocal := known && op != 0x00 && op != 0x0E
  let need := if op = 0x09 ∨ op = 0x0A then 8 else len
  if !known || bit ctrl 7 || (!inl && le e 0x2B 1 != 0) || (!inl && h.big && !zeroAt e 0x40 192) then cLocalProtection
  else if inl && !(op == 0x01 || op == 0x03 || op == 0x05 || op == 0x0C || op == 0x0D) then cLocalProtection
  else if (d.conn y r).roce && !(op == 0x00 || op == 0x01 || op == 0x05 || op == 0x07) then cLocalProtection
  else if !inl && usesLocal && need != 0 && !d.locOk y loc need then cLocalProtection
  else if inl && decide ((if h.big then 224 else 32) < le e 2 1) then cLocalLength
  else if (op = 0x0E ∧ len ≠ 0) ∨ ((op = 0x09 ∨ op = 0x0A) ∧ len ≠ 8) then cLocalLength
  else 0

/-- Mark an entry as started. -/
def startEntry (y r : Nat) (recv : Bool) (n : Nat) : M d0 Unit :=
  modHalf y r recv (fun h => { h with live := h.live.map (fun e => if e.n = n then { e with started := true } else e) })

/-- Take the next send entry of ring `r` when its opcode is `opc`: a refused one completes, a good one is handed to `f`
once its host buffer can be reached. A FENCE entry waits for every earlier one. -/
def sendEntry (y r opc : Nat) (host : HostSide) (f : List Byte → Nat → Loc → Nat → M d0 Unit) : M d0 Unit := do
  let d ← dev
  let h := (d.ring y r).sq
  if !d.live y ∨ (d.conn y r).st ≠ 2 ∨ d.cqFull y h then return
  match h.live.find? (fun e => !e.started) with
  | none => pure ()
  | some e =>
    if bit (le e.bytes 0 1) 4 && h.live.head? != some e then return
    let code := d.sendCode y r h e.bytes
    if opOf e.bytes ≠ opc ∧ (code = 0 ∨ [0x00, 0x01, 0x02, 0x03, 0x05, 0x06, 0x07, 0x09, 0x0A, 0x0C, 0x0D, 0x0E].contains (opOf e.bytes)) then return
    if code ≠ 0 then complete y r false e.n code 0 0 0 0
    else
      let loc := entryLoc h.big false e.bytes
      let len := entryLen h.big false e.bytes
      match ← reachLoc y (connBay y r) loc len (opc == 0x07 || opc == 0x09 || opc == 0x0A) (.ring r) host with
      | .wait => pure ()
      | .err c => complete y r false e.n c 0 0 0 0
      | .ok _ =>
        startEntry y r false e.n
        f e.bytes e.n loc len

/-- Queue a message; with FLUSHREAD a WRITE or ADDW is followed by a FLUSH_READ that ends the entry (R312). -/
def queueMsg (y r opc : Nat) (bytes : List Byte) (n : Nat) (loc : Loc) (len : Nat) : M d0 Unit := do
  let ctrl := le bytes 0 1
  let writes := opc == 0x05 || opc == 0x06 || opc == 0x0C || opc == 0x0D
  let flush := bit ctrl 3 && writes
  let o := SendOp.mk' opc len loc (le bytes 8 8) (le bytes 4 4) (if opc = 0x02 ∨ opc = 0x06 then le bytes 0x2C 4 else 0) (if flush then none else some n)
  enqueueOp y r { o with solicit := bit ctrl 6 }
  if flush then
    enqueueOp y r { SendOp.mk' 0x0E 0 (.inline []) (le bytes 8 8) (le bytes 4 4) 0 (some n) with operand := len, tail := true }
  else pure ()

/-- NOP_ENTRY (R302). -/
def execNopEntry (y r : Nat) (s : State) : Host.Outcome State Fault Refusal :=
  perform s (sendEntry y r 0x00 HostSide.there (fun _ n _ _ => complete y r false n cOk 0 0 0 0))

/-- SEND_ENTRY (R302). -/
def execSendEntry (y r : Nat) (host : HostSide) (s : State) : Host.Outcome State Fault Refusal :=
  perform s (sendEntry y r 0x01 host (queueMsg y r 0x01))

/-- SEND_IMM_ENTRY (R302). -/
def execSendImmEntry (y r : Nat) (host : HostSide) (s : State) : Host.Outcome State Fault Refusal :=
  perform s (sendEntry y r 0x02 host (queueMsg y r 0x02))

/-- TSEND_ENTRY (R302, R284): above 16,384 bytes the message goes by rendezvous, the entry's count as its HANDLE. -/
def execTsendEntry (y r : Nat) (host : HostSide) (s : State) : Host.Outcome State Fault Refusal :=
  perform s (sendEntry y r 0x03 host (fun bytes n loc len =>
    if 16384 < len then
      enqueueOp y r { SendOp.mk' 0x04 0 loc (le bytes 8 8) 0 0 (some n) with handle := n, operand := len, solicit := bit (le bytes 0 1) 6 }
    else queueMsg y r 0x03 bytes n loc len))

/-- WRITE_ENTRY (R302). -/
def execWriteEntry (y r : Nat) (host : HostSide) (s : State) : Host.Outcome State Fault Refusal :=
  perform s (sendEntry y r 0x05 host (queueMsg y r 0x05))

/-- WRITE_IMM_ENTRY (R302). -/
def execWriteImmEntry (y r : Nat) (host : HostSide) (s : State) : Host.Outcome State Fault Refusal :=
  perform s (sendEntry y r 0x06 host (queueMsg y r 0x06))

/-- READ (R302). -/
def execRead (y r : Nat) (host : HostSide) (s : State) : Host.Outcome State Fault Refusal :=
  perform s (sendEntry y r 0x07 host (fun bytes n loc len =>
    enqueueRead y r { SendOp.mk' 0x07 len loc (le bytes 8 8) (le bytes 4 4) 0 (some n) with solicit := bit (le bytes 0 1) 6 }))

/-- FADD_ENTRY (R302). -/
def execFaddEntry (y r : Nat) (host : HostSide) (s : State) : Host.Outcome State Fault Refusal :=
  perform s (sendEntry y r 0x09 host (fun bytes n loc _ =>
    enqueueOp y r { SendOp.mk' 0x09 8 loc (le bytes 8 8) (le bytes 4 4) 0 (some n) with
      operand := le bytes 0x30 8, solicit := bit (le bytes 0 1) 6 }))

/-- CSWAP_ENTRY (R302). -/
def execCswapEntry (y r : Nat) (host : HostSide) (s : State) : Host.Outcome State Fault Refusal :=
  perform s (sendEntry y r 0x0A host (fun bytes n loc _ =>
    enqueueOp y r { SendOp.mk' 0x0A 8 loc (le bytes 8 8) (le bytes 4 4) 0 (some n) with
      operand := le bytes 0x30 8, compare := le bytes 0x38 8, solicit := bit (le bytes 0 1) 6 }))

/-- ADDW_FP32_ENTRY (R302). -/
def execAddwFp32Entry (y r : Nat) (host : HostSide) (s : State) : Host.Outcome State Fault Refusal :=
  perform s (sendEntry y r 0x0C host (queueMsg y r 0x0C))

/-- ADDW_BF16_ENTRY (R302). -/
def execAddwBf16Entry (y r : Nat) (host : HostSide) (s : State) : Host.Outcome State Fault Refusal :=
  perform s (sendEntry y r 0x0D host (queueMsg y r 0x0D))

/-- FLUSH_READ_ENTRY (R302). -/
def execFlushReadEntry (y r : Nat) (s : State) : Host.Outcome State Fault Refusal :=
  perform s (sendEntry y r 0x0E HostSide.there (fun bytes n _ _ =>
    enqueueOp y r { SendOp.mk' 0x0E 0 (.inline []) (le bytes 8 8) (le bytes 4 4) 0 (some n) with solicit := bit (le bytes 0 1) 6 }))

/-! ### Receive entries (R301) -/

/-- The first code of R302 that refuses a receive entry, or 0. -/
def Dev.recvCode (d : Dev) (y r : Nat) (h : Half) (e : List Byte) : Nat :=
  let ctrl := le e 0 1
  let op := opOf e
  let inl := bit ctrl 2
  let len := le e 0x10 8
  if !(op == 0x20 || op == 0x21) || bit ctrl 4 || bit ctrl 6 || bit ctrl 7 || !zeroAt e 2 1 || (op == 0x20 && !zeroAt e 4 4) ||
      (op == 0x21 && !zeroAt e 7 1) || (!inl && le e 0x2B 1 != 0) || (!inl && h.big && !zeroAt e 0x40 192) then cLocalProtection
  else if op == 0x21 && !(d.conn y r).tagged then cLocalProtection
  else if !inl && len != 0 && !d.locOk y (entryLoc h.big true e) len then cLocalProtection
  else 0

/-- Take the next receive entry of ring `r` when its opcode is `opc`. -/
def recvEntry (y r opc : Nat) (f : List Byte → Nat → Loc → Nat → M d0 Unit) : M d0 Unit := do
  let d ← dev
  let h := (d.ring y r).rq
  if !d.live y ∨ (d.conn y r).st ≠ 2 ∨ d.cqFull y h then return
  match h.live.find? (fun e => !e.started) with
  | none => pure ()
  | some e =>
    let code := d.recvCode y r h e.bytes
    if opOf e.bytes ≠ opc ∧ (opOf e.bytes = 0x20 ∨ opOf e.bytes = 0x21) then return
    if code ≠ 0 then complete y r true e.n code 0 0 0 0
    else f e.bytes e.n (entryLoc h.big true e.bytes) (entryLen h.big true e.bytes)

/-- RECV (R301): the entry waits for the next untagged message. -/
def execRecv (y r : Nat) (s : State) : Host.Outcome State Fault Refusal :=
  perform s (recvEntry y r 0x20 (fun _ n _ _ => startEntry y r true n))

/-- Give an unexpected eager message to an entry (R284): its payload is copied from the slot. An entry whose host buffer cannot
be written yet stays as it was, and the message in its slot. -/
def takeEager (y r n : Nat) (p : Posted) (body : Bool) (l : MatchList) (u : Unexp) (host : HostSide) : M d0 Unit := do
  let d ← dev
  let m := min u.len p.len
  let bytes ← match d.slotAt y l u.slot 64 m with
    | none => pure (some [])
    | some (t, a) => readMem y t a m
  let put ← match bytes with
    | none => pure (LocRes.err cMemUncorrectable)
    | some bs => putLoc y (connBay y r) r n p.loc 0 bs (.ring r) host
  if put = .wait then return
  let code := match put with
    | .err c => c
    | _ => 0
  let li := (d.conn y r).matchList
  startEntry y r true n
  takesMsg y r n u.order
  act (.list (yk y li) (some { l with unexp := l.unexp.erase u }))
  if u.whole then
    let final := if code ≠ 0 then code else if p.len < u.len then cTagTruncated else 0
    complete y r true n final (2 * b2n u.solicit + 4 * b2n body) u.conn
      (if final = cTagTruncated then u.len else if final = 0 then u.len else 0) u.tag
  else
    modConn y u.conn (fun c => { c with msgs := c.msgs.map (fun m => if m.msn = u.msn then { m with sink := .entry r n, code := code } else m) })

/-- TRECV (R283, R301): it takes the earliest unexpected message that matches, else it is appended to the list. One with INLINE
has no mask and compares every bit. DESIGN CHOICE, log 51. -/
def execTrecv (y r : Nat) (s : State) (host : HostSide := HostSide.there) : Host.Outcome State Fault Refusal :=
  perform s (recvEntry y r 0x21 (fun bytes n loc len => do
    let d ← dev
    let li := (d.conn y r).matchList
    let body := bit (le bytes 0 1) 2
    match Tab.find d.lists (yk y li) with
    | none => complete y r true n cTargetUnavailable 0 0 0 0
    | some l =>
      let p : Posted := { tag := le bytes 8 8, mask := if body then 2 ^ 64 - 1 else le bytes 0x30 8, src := le bytes 4 3, ring := r, n := n,
                          loc := loc, len := len }
      match l.unexp.find? (fun u => p.hits u.tag u.conn) with
      | some u =>
        match u.rts with
        | some handle =>
          startEntry y r true n
          takesMsg y r n u.order
          act (.list (yk y li) (some { l with unexp := l.unexp.erase u }))
          rndvStart y u.conn handle u.len u.tag u.msn p false u.solicit
        | none => takeEager y r n p body l u host
      | none =>
        if l.posted.length < l.maxPosted then
          startEntry y r true n
          act (.list (yk y li) (some { l with posted := l.posted ++ [p] }))
        else pure ()))

/-! ### Legacy queues (R319 to R322) -/

/-- LGQ_AQ_SQ_TAIL (R320): the entries from the old tail to the new one are read from host memory, which holds `entries` there. -/
def execLgqAqSqTail (y value : Nat) (entries : List (List Byte)) (s : State) : Host.Outcome State Fault Refusal :=
  perform s do
    let d ← dev
    if !(← cmdReach y) ∨ !bit (d.fld (R.YRD_MODE y)) 0 ∨ !d.canMaster y then return
    let q := (d.yard y).adm
    let E := bits (d.fld (R.LGQ_AQ_SIZE y)) 0 12 + 1
    let tail := value % 2 ^ 16 % E
    let n := (tail + E - q.sqTail % E) % E
    each (List.range n) (fun i => emit (.hostRead (y + 1) (d.fld (R.LGQ_AQ_SQ_ADDR y) + (q.sqTail + i) % E * 64) 64))
    modYard y (fun r => { r with adm := { r.adm with
      waiting := r.adm.waiting ++ (entries ++ List.replicate n (zeros 64)).take n, sqTail := tail } })

/-- Take the next administrative command when its opcode is `opc` (or none of R320); `f` answers its CODE. The completion
entry carries CODE at 0x0C, the ID at 0x08 and the phase at 0x0F, as R321 places them. DESIGN CHOICE, log 54. -/
def admin (y opc : Nat) (f : List Byte → M d0 Nat) : M d0 Unit := do
  let d ← dev
  let q := (d.yard y).adm
  let size := d.fld (R.LGQ_AQ_SIZE y)
  let cqN := bits size 16 12 + 1
  if !d.live y ∨ !bit (d.fld (R.YRD_MODE y)) 0 ∨ cqN ≤ q.cqCount - q.cqHead then return
  match q.waiting with
  | [] => pure ()
  | e :: rest =>
    let op := le e 0 1
    let known := decide (1 ≤ op) && decide (op ≤ 6)
    if known && op != opc then return
    modYard y (fun r => { r with adm := { r.adm with waiting := rest, sqHead := (q.sqHead + 1) % (bits size 0 12 + 1) } })
    let code ← if known then f e else pure cLocalProtection
    hostBus y (d.fld (R.LGQ_AQ_CQ_ADDR y) + q.cqCount % cqN * 16)
      (zeros 8 ++ slice e 2 2 ++ zeros 2 ++ leBytes 1 code ++ zeros 2 ++ leBytes 1 (1 - q.cqCount / cqN % 2))
    modYard y (fun r => { r with adm := { r.adm with cqCount := q.cqCount + 1 } })

/-- Whether `l` is a legal log2 of entries. -/
def logOk (l : Nat) : Bool := decide (4 ≤ l) && decide (l ≤ 16)

/-- CREATE_CQ (R320). DESIGN CHOICE, log 54. -/
def execCreateCq (y : Nat) (s : State) : Host.Outcome State Fault Refusal :=
  perform s (admin y 1 (fun e => do
    let d ← dev
    let c := le e 2 2
    let log := le e 0x10 1
    if 2048 ≤ c ∨ !logOk log ∨ 2048 ≤ le e 0x12 2 ∨ le e 8 8 % 16 ≠ 0 then return cLocalProtection
    if (d.lcq y c).isSome then return cResourceRefused
    act (.lcq (yk y c) (some { base := le e 8 8, log := log, vector := le e 0x12 2, head := 0, count := 0 }))
    return cOk))

/-- Rings of a yard bound to completion queue `c`. -/
def Dev.ringsOnCq (d : Dev) (y c : Nat) : List (Nat × Bool) :=
  (ofYard d.rings y).flatMap (fun r =>
    (if r.2.sq.cq = some c then [(r.1, false)] else []) ++ (if r.2.rq.cq = some c then [(r.1, true)] else []))

/-- DELETE_CQ (R320). -/
def execDeleteCq (y : Nat) (s : State) : Host.Outcome State Fault Refusal :=
  perform s (admin y 2 (fun e => do
    let d ← dev
    let c := le e 2 2
    if (d.lcq y c).isNone ∨ !(d.ringsOnCq y c).isEmpty then return cResourceRefused
    act (.lcq (yk y c) none)
    return cOk))

/-- Create a legacy send or receive queue. DESIGN CHOICE, log 54. -/
def createQueue (y : Nat) (recv : Bool) (e : List Byte) : M d0 Nat := do
  let d ← dev
  let log := le e 0x10 1
  let c := le e 0x12 2
  let n := le e 0x14 4
  let pasid := le e 0x18 4
  if !logOk log ∨ 2 ^ 20 ≤ pasid ∨ !d.hostCtx y pasid ∨ le e 8 8 % 64 ≠ 0 then return cLocalProtection
  if d.connCount y ≤ n ∨ (d.conn y n).st ≠ 1 ∨ d.planConn y n ∨ (d.lcq y c).isNone ∨ ((d.ring y n).half recv).bound then return cResourceRefused
  let h : Half := { Half.unbound with bound := true, addr := le e 8 8, log := log, pasid := pasid, cq := some c }
  let g := d.ring y n
  act (.ring (yk y n) (some { (if recv then { g with rq := h } else { g with sq := h }) with fetch := 1024 }))
  return cOk

/-- Delete a legacy queue, named by ID. -/
def deleteQueue (y : Nat) (recv : Bool) (e : List Byte) : M d0 Nat := do
  let d ← dev
  let n := le e 2 2
  if (d.conn y n).st ≠ 1 ∨ ((d.ring y n).half recv).cq.isNone then return cResourceRefused
  modHalf y n recv (fun _ => Half.unbound)
  return cOk

/-- CREATE_SQ, DELETE_SQ, CREATE_RQ, DELETE_RQ (R320). -/
def execCreateSq (y : Nat) (s : State) : Host.Outcome State Fault Refusal := perform s (admin y 3 (createQueue y false))
def execDeleteSq (y : Nat) (s : State) : Host.Outcome State Fault Refusal := perform s (admin y 4 (deleteQueue y false))
def execCreateRq (y : Nat) (s : State) : Host.Outcome State Fault Refusal := perform s (admin y 5 (createQueue y true))
def execDeleteRq (y : Nat) (s : State) : Host.Outcome State Fault Refusal := perform s (admin y 6 (deleteQueue y true))

/-- TAIL_DOORBELL (R321): the entries up to the new tail are the W48's; the queue's memory holds `entries` from entry n mod E
on. -/
def execTailDoorbell (y r : Nat) (recv : Bool) (value : Nat) (entries : List (List Byte)) (s : State)
    (xl : Xlat := .hit) :
    Host.Outcome State Fault Refusal :=
  perform s do
    let d ← dev
    if !(← yfReach y) ∨ d.connCount y ≤ r then return
    let h := (d.ring y r).half recv
    if h.cq.isNone ∨ (d.conn y r).st ≠ 2 then bump (R.YRD_DB_DROPPED y) 1
    else
      modHalf y r recv (fun h => { h with tail := value % 2 ^ 16, ahead := entries, pendScan := d.frozen y })
      if d.frozen y then pure () else scanFrom y r recv entries xl

/-- LGQ_CQ_HEAD (R320, R322): entries of the completion queue become free, and the queues bound to it go on. A head equal
to the old one, written while the queue is full, frees all of it. -/
def execLgqCqHead (y c value : Nat) (s : State) : Host.Outcome State Fault Refusal :=
  perform s do
    let d ← dev
    if !(← yfReach y) then return
    match d.lcq y c with
    | none => pure ()
    | some q =>
      let E := 2 ^ q.log
      let k := (value % 2 ^ 16 % E + E - q.head % E) % E
      let k := if k = 0 ∧ q.full then E else k
      act (.lcq (yk y c) (some { q with head := min q.count (q.head + k) }))
      each (d.ringsOnCq y c) (fun r => do
        flushRing y r.1 r.2
        scan y r.1 r.2)

/-- LGQ_AQ_CQ_HEAD (R320). -/
def execLgqAqCqHead (y value : Nat) (s : State) : Host.Outcome State Fault Refusal :=
  perform s do
    let d ← dev
    if !(← yfReach y) then return
    let q := (d.yard y).adm
    let E := bits (d.fld (R.LGQ_AQ_SIZE y)) 16 12 + 1
    let k := (value % 2 ^ 16 % E + E - q.cqHead % E) % E
    let k := if k = 0 ∧ E ≤ q.cqCount - q.cqHead then E else k
    modYard y (fun r => { r with adm := { r.adm with cqHead := min q.cqCount (q.cqHead + k) } })

/-! ### Host link events without a reset, interrupts (R314, R316, R318) -/

/-- YRD_HOST_RESUME (R316). -/
def execYrdHostResume (y value : Nat) (s : State) : Host.Outcome State Fault Refusal :=
  perform s do
    let d ← dev
    if (← yfReach y) && bit value 0 && d.ctl.hostUp && d.hostLost y then
      wr (R.BAY_FN_STATE_HOST_LOST y) 0
      wr (R.YRD_STATE_HOST_LOST y) 0
    else pure ()

/-- Whether vector `v` of function `fn` exists and the function is there to be written to: 64 vectors on the physical
function, 2,048 on a yard function (R297, R318). -/
def Dev.vecThere (d : Dev) (fn v : Nat) : Bool :=
  if fn = 0 then d.pfOk && d.ctl.hostUp && decide (v < 64) else d.yfOk (fn - 1) && decide (v < 2048)

/-- Whether function `fn` may send an interrupt message (R296, R315, R436). -/
def Dev.mayIrq (d : Dev) (fn : Nat) : Bool := if fn = 0 then d.ctl.hostUp else d.canMaster (fn - 1)

/-- Clear the mask bit of an MSI-X entry: a pending vector sends one message (R318); while its function may send none the
bit stays. PRESUMED, log 8. -/
def unmaskVec (fn v : Nat) : M d0 Unit := do
  let d ← dev
  let c := d.ctl
  let k := mk fn v
  if Tab.num c.msixPend k != 0 && d.mayIrq fn then
    act (.ctl { c with msixOpen := Tab.setNum c.msixOpen k 1, msixPend := Tab.setNum c.msixPend k 0 })
    emit (.msix fn v (Tab.num c.msixEnt k))
  else act (.ctl { c with msixOpen := Tab.setNum c.msixOpen k 1 })

/-- MSIX_UNMASK (R318). PRESUMED, log 8. -/
def execMsixUnmask (fn v : Nat) (s : State) : Host.Outcome State Fault Refusal :=
  perform s do
    let _ ← if fn = 0 then pure true else yfReach (fn - 1)
    if (← dev).vecThere fn v then unmaskVec fn v else pure ()

/-- A 32-bit word written at `off` of BAR2 (R297): word 0 to 2 of a table entry are its address and data, word 3 its mask
bit. The pending-bit array is read only. PRESUMED, log 8. -/
def msixWord (fn off value : Nat) : M d0 Unit := do
  let v := off / 16
  let c := (← dev).ctl
  if 0x8000 ≤ off ∨ !(← dev).vecThere fn v then pure ()
  else if off % 16 = 12 then
    if bit value 0 then act (.ctl { c with msixOpen := Tab.setNum c.msixOpen (Machine.mk fn v) 0 })
    else unmaskVec fn v
  else act (.ctl { c with
    msixEnt := Tab.setNum c.msixEnt (Machine.mk fn v) (putBits (Tab.num c.msixEnt (Machine.mk fn v)) (8 * (off % 16)) 32 value) })

/-- What a 32-bit word of BAR2 reads as: an entry's word, 32 pending bits, or 0. -/
def Dev.msixRead (d : Dev) (fn off : Nat) : Nat :=
  let v := off / 16
  let n := if fn = 0 then 64 else 2048
  if off < 0x8000 then
    if n ≤ v then 0
    else if off % 16 = 12 then b2n (Tab.num d.ctl.msixOpen (Machine.mk fn v) == 0)
    else bits (Tab.num d.ctl.msixEnt (Machine.mk fn v)) (8 * (off % 16)) 32
  else
    let b := 8 * (off - 0x8000)
    if n ≤ b then 0
    else (List.range 32).foldl (fun t i => t + 2 ^ i * b2n (Tab.num d.ctl.msixPend (Machine.mk fn (b + i)) != 0)) 0

/-- PCIE_RETRAIN (R314): a retrain that ends without a reset changes nothing but that the link is up, which it may not have
been after a loss of the data link (R315). PRESUMED, log 28. -/
def execPcieRetrain (s : State) : Host.Outcome State Fault Refusal :=
  perform s do
    let d ← dev
    modCtl (fun c => { c with hostUp := !(c.perst || c.tripped || d.fld R.CRP_PSTATE_STATUS_STATE == 3) })

end Sys2Proof.Machine
end

