-- ==== Sys2Proof/Machine/Faults.lean ====
section
/-! DEFINITION. How page faults end (11: R341 to R345). -/

namespace Sys2Proof.Machine

variable {d0 : Dev}

/-- The active step of thread `t` ends with a code: a ring step through its op, a STREAM with its entries, any other by
itself. -/
def stepFail (y t code : Nat) : M d0 Unit := do
  match (← dev).activeStep y t with
  | none => return
  | some (_, st, a) =>
    if a.code.isSome then return
    if st.isRing then localFail y t code
    else if a.stream.isSome then streamFail y t code
    else setCode y t code

/-- A local engine that waits on a fault ends with FAULT_UNRESOLVED (R343, R344); a network access is refused or answered
RNR when it comes again. DESIGN CHOICE, log 42. -/
def failWaiter (y pasid page : Nat) (w : Waiter) : M d0 Unit := do
  let d ← dev
  match w with
  | .ctx 48 t => stepFail y t cFaultUnresolved
  | .ctx i x =>
    let c := d.ctx i x
    if c.yard = y ∧ c.spec.isSome ∧ (c.st = .wait ∨ c.st = .ready) then runFail y c.thread i x cFaultUnresolved else pure ()
  | .ring r =>
    -- a fetch gives up its scan; an entry whose buffer was wanted completes
    each [false, true] (fun recv => do
      let h := ((← dev).ring y r).half recv
      if h.pendScan && !h.inSeg && h.pasid == pasid && onPage page (h.at h.n) h.size then modHalf y r recv (fun h => { h with pendScan := false })
      else pure ())
    let q := (d.ring y r).sq
    match q.live.find? (fun e => !e.started) with
    | none => pure ()
    | some e =>
      match entryLoc q.big false e.bytes with
      | .host p va =>
        if p = pasid ∧ onPage page va (max 1 (entryLen q.big false e.bytes)) then complete y r false e.n cFaultUnresolved 0 0 0 0 else pure ()
      | _ => pure ()
  | .conn n =>
    match (d.conn y n).ops.find? (fun o => o.code.isNone && (match o.loc with
      | .host p va => p == pasid && onPage page va (max 1 o.len)
      | _ => false)) with
    | none => pure ()
    | some o =>
      modConn y n (fun c => { c with ops := c.ops.map (fun q => if q = o then { q with code := some cFaultUnresolved } else q) })
      flushOps y n
  | .seal => modYard y (fun r =>
      if r.sealWait.isSome then { r with sealWait := none, sealJob := some { result := cFaultUnresolved, outLen := 0, bytes := [] } } else r)
  | .inbound => pure ()

/-- What a served page lets go on by itself: ring fetches and laps; every other waiter tries again at its own command (R343). -/
def wakeWaiters (y pasid page : Nat) (ws : List Waiter) : M d0 Unit := do
  each ws (fun w => match w with
    | .ring r => wakeRing y r pasid page
    | _ => pure ())
  wakeLaps y (pasid, page)

/-- The entry of a page that has been sent to the host. -/
def Dev.sentFault (d : Dev) (y pasid page : Nat) : Option FaultEnt :=
  (d.yard y).faults.find? (fun f => f.pasid == pasid && f.page == page && f.grp != 0)

/-- What stalled at a full fault queue translates again: the fetches of the bay, and the yard's laps with its lowest bay (R345). -/
def retryStalled (y b : Nat) : M d0 Unit := do
  let d ← dev
  let entry (pasid page : Nat) : Bool := (d.yard y).faults.any (fun f => f.pasid == pasid && f.page == page)
  each ((ofYard d.rings y).filter (fun r => y + r.1 / 6144 == b)) (fun r => each [false, true] (fun recv => do
    let h := ((← dev).ring y r.1).half recv
    if h.bound && h.pendScan && !h.inSeg && !entry h.pasid (h.at h.n / 4096) then rescanHalf y r.1 recv else pure ()))
  if b = y && d.canMaster y then
    each (List.range (d.yard y).thrs.length) (fun t => do
      match ((← dev).lapCtx y t).bind (fun z => z.L.stall) with
      | none => pure ()
      | some q => if entry q.1 q.2 then pure () else emit (.atsRequest (y + 1) q.1 q.2))
  else pure ()

/-- Release an entry: its place and its group's credit are free again. -/
def releaseFault (y : Nat) (f : FaultEnt) : M d0 Unit := do
  modYard y (fun r => { r with faults := r.faults.filter (fun g => !(g.pasid == f.pasid && g.page == f.page)) })
  drop (R.XLT_FAULT_PENDING y) 1
  if (← dev).on (R.XLT_STATUS_PRI_FAILED y) then pure () else sendFaults y false
  retryStalled y f.bay

/-- An entry ends unresolved with a cause of XLT_FAULT_LAST_INFO; `bad` says that network accesses that meet the page again
are refused (R344). -/
def endFault (y : Nat) (f : FaultEnt) (cause : Nat) (bad : Bool) : M d0 Unit := do
  let b : BadPage := { pasid := f.pasid, page := f.page }
  releaseFault y f
  logUnresolved y f.pasid f.page f.write cause
  if bad then modYard y (fun r => { r with badPages := if r.badPages.contains b then r.badPages else b :: r.badPages }) else pure ()
  together y (each f.waiters (failWaiter y f.pasid f.page))

/-- ATS_INVALIDATE (R340): what holds the page's translation drops it. A frozen yard honours it too (R485). -/
def execAtsInvalidate (y pasid page tag : Nat) (s : State) : Host.Outcome State Fault Refusal :=
  perform s do
    if (← dev).present y then
      modYard y (fun r => { r with inval := r.inval ++ [(pasid, page, tag)] })
      dropHeld y (fun p g => p == pasid && g == page)
      dropPages y (fun q => q == (pasid, page))
    else pure ()

/-- INVALIDATE_COMPLETION (R340): every read of the old translation has its data and every write is issued, since an access of
this model is over with its command. Completions that waited are written. -/
def execInvalidateCompletion (y tag : Nat) (s : State) : Host.Outcome State Fault Refusal :=
  perform s do
    let r := (← dev).yard y
    match r.inval.find? (fun x => x.2.2 == tag) with
    | none => pure ()
    | some x =>
      act (.yard y { r with inval := r.inval.erase x })
      emit (.invalidateDone (y + 1) tag)
      each (ofYard (← dev).rings y) (fun g => each [false, true] (fun recv => do
        let h := ((← dev).ring y g.1).half recv
        if h.bound && !h.inSeg && h.pasid == x.1 then flushRing y g.1 recv else pure ()))

/-- Whether a local engine waits on an entry. -/
def FaultEnt.hasLocal (f : FaultEnt) : Bool := f.waiters.any (fun w => w != .inbound)

/-- PAGE_RESPONSE (R344). After Success a waiter translates again when its own command comes; `mapped` says what that
replay finds. DESIGN CHOICE, log 42. -/
def execPageResponse (y pasid page : Nat) (r : PageRsp) (s : State) : Host.Outcome State Fault Refusal :=
  perform s do
    let d ← dev
    match d.sentFault y pasid page with
    | none => return
    | some f =>
      match r with
      | .success true =>
        modYard y (fun r => { r with badPages := r.badPages.erase { pasid := pasid, page := page } })
        wakeWaiters y pasid page f.waiters
        releaseFault y f
      | .success false =>
        if !f.hasLocal then releaseFault y f
        else if f.limit ≤ f.replays then endFault y f 3 false
        else
          modYard y (fun r => { r with faults := r.faults.map (fun g =>
            if g.pasid == pasid && g.page == page then { g with
              grp := 0, replays := g.replays + 1, write := g.write || g.late, late := false } else g) })
          sendFaults y false
      | .invalidRequest => endFault y f 1 true
      | .failure =>
        wr (R.XLT_STATUS_PRI_FAILED y) 1
        together y (each (d.yard y).faults (fun g => endFault y g 2 false))

/-- FAULT_TIMEOUT (R344): no response within TIMEOUT. -/
def execFaultTimeout (y pasid page : Nat) (s : State) : Host.Outcome State Fault Refusal :=
  perform s do
    match (← dev).sentFault y pasid page with
    | none => return
    | some f => endFault y f 3 true

end Sys2Proof.Machine
end

