-- ==== Sys2Proof/Machine/Power.lean ====
section
/-! DEFINITION. The functions of yards, releases and the rake (10: R292 to R297, 14: R441 to R443), host resets (R315),
yard and warm resets, power states and thermal limits (16: R477 to R483). -/

namespace Sys2Proof.Machine

variable {d0 : Dev}

/-! ### What squash, rake and reset share (R441, R480) -/

/-- Discard the Ethernet frames of a yard: those queued to leave, and those received for it. -/
def dropEth (y : Nat) : M d0 Unit := do
  let d ← dev
  let mine := d.baysOf y
  each (List.range 16) (fun u => do
    modSub u (fun p => { p with
      queue := p.queue.filter (fun f => !mine.contains f.bay)
      clsOrder := (List.range 12).map (fun b => if mine.contains b then List.range 7 else p.clsOrder.getD b (List.range 7)) })
    retag u)
  let e := (← dev).eth
  setEth { e with rx := e.rx.filter (fun f => f.yard != some y) }

/-- Step 1 of the rake: the aborts that R151 requires leave, and every engine of the yard stops. -/
def squash (y cause : Nat) : M d0 Unit := do
  abortAll y cause
  each (List.range ((← dev).yard y).thrs.length) (fun t => freeThread y t)
  modYard y (fun r => { r with thrs := [], running := false, failed := false })
  dropEth y

/-- Remove every entry of a yard from a table. -/
def dropKeys {α : Type} (y : Nat) (t : Tab α) (f : Nat → Act) : M d0 Unit := each (ofYard t y) (fun e => act (f (yk y e.1)))

/-- Steps 2 to 6 of the rake: the drain ends, keys go, and every state of the yard is overwritten. The bay cores restart.
What the far range holds is unspecified from the next ENABLE on (new keys, R435). DESIGN CHOICE, log 24. -/
def rakeClean (y : Nat) : M d0 Unit := do
  let d ← dev
  let r := d.yard y
  let bs := d.baysOf y
  dropEth y
  dropKeys y d.comms (fun k => .comm k none)
  dropKeys y d.conns (fun k => .conn k none)
  dropKeys y d.rings (fun k => .ring k none)
  dropKeys y d.lists (fun k => .list k none)
  dropKeys y d.ctxs (fun k => .ctx k none)
  dropKeys y d.wins (fun k => .win k none)
  dropKeys y d.lcqs (fun k => .lcq k none)
  each (List.range (4 * bs.length)) (fun j => act (.pan (panIx y j) Pan.reset))
  act (.clear (d.addr y 0 0) (d.capacity y 0))
  act (.clear (d.addr y 1 0) (d.capacity y 1))
  each bs (fun b => act (.clear (scratchAt b) scratchBytes))
  act (.spoil (d.addr y 2 0) (d.capacity y 2))
  modSec (fun x => { x with ideKeys := x.ideKeys.filter (fun k => r.ideStream != some k.1) })
  if r.rakeFar = some true then modSec (fun x => { x with overKeys := (y, x.drbgIx) :: x.overKeys.filter (fun e => e.1 != y), drbgIx := x.drbgIx + 1 })
  else pure ()
  act (.yard y { Yard.empty with rakeFar := r.rakeFar, touchSeq := r.touchSeq, drained := true })
  each (List.range 16) (fun c => do
    let v ← rd (R.MBX_BIND c)
    let mine (e : Nat) : Bool := e == 0x10 + y || (decide (0x20 ≤ e) && bs.contains (e - 0x20))
    if mine (bits v 0 8) || mine (bits v 8 8) then clearChan c else pure ())
  modCtl (fun c => { c with
    unmask := Tab.del c.unmask (0x10 + y), vec := Tab.del c.vec (0x10 + y)
    msixOpen := Tab.keep c.msixOpen (fun k _ => k / 4096 != y + 1)
    msixPend := Tab.keep c.msixPend (fun k _ => k / 4096 != y + 1)
    msixEnt := Tab.keep c.msixEnt (fun k _ => k / 4096 != y + 1) })
  initYardRegs y
  endGrants (bayMask bs)
  each bs (fun b => do
    setCore b 1
    wr (R.FAB_SLUICE_LEVEL b) 16)

/-- The end of step 1 on the W-links of a yard's bays (R441): the ABORT packets leave, what else the yard's engines have queued
is discarded, and from then on these links send only IDLE and MGMT flits. DESIGN CHOICE, log 24. -/
def quietLinks (y : Nat) : M d0 Unit := do
  let mine := (← dev).baysOf y
  let own (p : Pkt) : Bool := mine.contains p.bay && p.inl == 48 && !p.transit && p.vc != 7
  each (mine.flatMap (fun b => (List.range 4).map (fun i => 4 * b + i))) (fun l => do
    each (((← dev).link l).queue.filter (fun p => p.typ == 0x21)) (fun p => do
      let d ← dev
      if d.linkState l = 3 ∧ (d.link l).ready p then sendPkt l p else pure ())
    modLink l (fun k => { k with queue := k.queue.filter (fun p => !own p), hold := [], slot := 0 }))
  let d ← dev
  act (.fab (d.fab.held.filter (fun p => !own p)) d.fab.draining d.fab.sampleSeq)

/-- A release passes an ENABLED function to DRAINING: it stops being present, and step 1 of the rake runs (R294, R296,
R441). DESIGN CHOICE, log 24. -/
def releaseYard (y : Nat) : M d0 Unit := do
  let d ← dev
  if d.fnState y ≠ 2 then return
  squash y cYardRaking
  quietLinks y
  each (d.baysOf y) (fun b => do
    wr (R.LAY_BAY_STATE.sub (2 * b) 2) 2
    setCore b 0)
  wr (R.BAY_FN_STATE_STATE y) 3
  wr (R.BAY_FN_STATE_HOST_LOST y) 0
  wr (R.YRD_FRZ_STATUS y) 0
  modSec (fun x => { x with
    sessions := x.sessions.filter (fun z => z.tr != .yardDoe y), spdm := x.spdm.filter (fun z => z.tr != .yardDoe y) })
  modYard y (fun r => { r with
    rakeFar := some (bit (d.fld R.SEC_RAKE_FAR) y), drained := false, frz := none, sealJob := none, sealWait := none, setSnap := none, queue := [], resetting := false, tdi := 0 })

/-! ### Power states (R481, R482) -/

/-- A bay holds nothing of a tenant: UNASSIGNED or RAKED. -/
def Dev.bayClean (d : Dev) (b : Nat) : Bool := d.bayState b == 0 || d.bayState b == 3

/-- Bays parked now. -/
def Dev.parked (d : Dev) : Nat := d.fld R.CRP_PSTATE_STATUS_PARKED

/-- Every link off: what P3 and a trip leave outside the standby supplies. -/
def powerDown : M d0 Unit := do
  each (List.range 48) (fun l => do
    modLink l (fun _ => Link.reset)
    setLink l 0
    wr (R.FAB_PORT_STATE_TRAINED l) 0)
  each (List.range 16) (fun u => do
    if (← dev).fld (R.ETH_SUB_STATE_LINK u) = 2 then subLink u false else pure ())
  each (List.range 16) (fun q => do
    wr (R.MEM_FAR_PORT_LINK_UP q) 0
    wr (R.MEM_FAR_PORT_IDE q) 0)
  modSec (fun x => { x with cxlKeys := [] })
  modCtl (fun c => { c with hostUp := false })

/-- Show the cores and clocks of the state now in force. DESIGN CHOICE, log 27. -/
def showPower : M d0 Unit := do
  let d ← dev
  let p3 := d.fld R.CRP_PSTATE_STATUS_STATE == 3
  each (List.range 14) (fun c => do
    let off := p3 || (decide (c < 12) && bit d.parked c)
    let now := d.fld ((R.DEV_CORE_STATE c).sub 0 2)
    if off then setCore c 0
    else if now = 0 ∧ (12 ≤ c ∨ d.bayState c ≠ 2) then setCore c 1
    else pure ())
  if p3 then wr R.CRP_CLK_STATUS 0x14 else orBits R.CRP_CLK_STATUS 0x7F

/-- Take over a power state: P1 and P2 enable low-power idle on every subport, and nothing disables it again (R407, R481). An unparked bay's loft holds zeros. DESIGN CHOICE, log 27. -/
def enterPower (s : Nat) : M d0 Unit := do
  let d ← dev
  let park := if s = 2 then bits (d.fld R.CRP_PARK) 0 12 else 0
  wr R.CRP_PSTATE_STATUS_STATE s
  wr R.CRP_PSTATE_STATUS_PARKED park
  endGrants (park + (if s = 3 then 0x1FFF - park else 0))
  each ((List.range 12).filter (fun b => bit d.parked b && !bit park b)) (fun b => act (.clear (b * loftBay) loftBay))
  if s = 1 ∨ s = 2 then each (List.range 16) (fun u => wr ((R.ETH_LPI_CTRL u).sub 0 1) 1) else pure ()
  if s = 0 ∨ s = 3 then each (List.range 48) (fun l => modLink l (fun k => { k with quiet := false })) else pure ()
  if s = 3 then
    each (List.range 48) downNotice
    powerDown
  else pure ()
  showPower

/-! ### Yard resets (R478, R480) -/

/-- Whether a register of a yard function belongs to what a yard reset keeps whole: the step counter and the seeds.
DEDUCED, log 25. -/
def keptReg (off : Nat) : Bool := off == 0x10030 || (decide (0x10080 ≤ off) && decide (off < 0x100C0))

/-- The settings of a yard at their reset values; counters and latched bits stay. -/
def resetSettings (y : Nat) : M d0 Unit := do
  let old := Tab.keep (← dev).regs (fun k _ => decide (yb y ≤ k) && decide (k < yb (y + 1)))
  initYardRegs y
  let new := Tab.keep (← dev).regs (fun k _ => decide (yb y ≤ k) && decide (k < yb (y + 1)))
  each (old.map (fun e => e.1) ++ new.map (fun e => e.1)) (fun k =>
    match rowAt yfTable (k - yb y) with
    | none => pure ()
    | some r =>
      if keptReg (k - yb y) then act (.reg k (Tab.num old k))
      else act (.reg k (mixFields r (fun a => a == .rw) (Tab.num old k) (Tab.num new k))))

/-- What a yard reset clears (R478): keys, memory, contexts, segments, the replay tables, the step counter and the seeds
stay; connections pass to QUARANTINE, windows become FREE with their generations. DEDUCED, log 25. -/
def clearYard (y : Nat) : M d0 Unit := do
  let r := (← dev).yard y
  match r.plan with
  | some p => if r.running then spoilLost y p else pure ()
  | none => pure ()
  squash y cInternal
  dropPlan y
  let d ← dev
  each (ofYard d.conns y) (fun e =>
    if e.2.st = 0 then pure ()
    else act (.conn (yk y e.1) (some { Conn.free with st := 5, lastInc := e.2.lastInc, gen := e.2.gen, ctr := e.2.ctr })))
  dropKeys y d.rings (fun k => .ring k none)
  dropKeys y d.lists (fun k => .list k none)
  dropKeys y d.lcqs (fun k => .lcq k none)
  let used := (ofYard d.wins y).filter (fun e => e.2.state != 0)
  each used (fun e => act (.win (yk y e.1) (some { e.2 with state := 0 })))
  each (List.range (4 * (d.baysOf y).length)) (fun j => act (.pan (panIx y j) Pan.reset))
  modYard y (fun r => { r with
    iters := 0, endless := false, lands := [], landReqs := [], setSnap := none, queue := [], sealWait := none, loadSnap := none
    winFree := r.winFree ++ used.map (fun e => e.1), faults := [], badPages := [], store := [], sealJob := none, frz := none
    fatal := false, adm := { waiting := [], sqHead := 0, cqHead := 0, cqCount := 0 }, drvOrder := List.replicate 12 [], drvSent := List.replicate 12 [], drvTie := List.replicate 12 (List.range 12), kat := none
    cvt := none, resetting := true })
  modCtl (fun c => { c with unmask := Tab.del c.unmask (0x10 + y), vec := Tab.del c.vec (0x10 + y) })
  resetSettings y
  wr (R.PLN_STATUS_STATE y) 0
  wr (R.PLN_STATUS_REFUSED y) 0
  each (List.range 64) (fun e => wr (R.PLN_EVENT y e) 0)
  wr (R.DRV_EPOCH y) 0
  wr (R.TRN_CMD_STATUS_BUSY y) 0
  wr (R.XLT_CMD_STATUS_BUSY y) 0
  wr (R.YRD_RING_STATUS_BUSY y) 0
  wr (R.YRD_SEAL_STATUS y) 0
  wr (R.YRD_SET_STATUS y) 0
  wr (R.PAN_KAT_STATUS y) 0
  wr (R.PAN_CVT_STATUS y) 0
  wr (R.XLT_FAULT_PENDING y) 0
  wr (R.XLT_WIN_OPEN y) 0
  wr (R.XLT_WIN_CLOSING y) 0
  wr (R.TRN_MATCH_FREE y) (32768 * (d.baysOf y).length)
  wr ((R.YRD_STATE y).sub 1 2) 0
  wr (R.YRD_FRZ_STATUS y) 0
  wr (R.YRD_FRZ_PARTS y) 0
  wr (R.YRD_FRZ_DONE y) 0
  wr (R.YRD_FRZ_BLOB_ID y) 0
  each (List.range (4 * (d.baysOf y).length)) (fun j => showPan (panIx y j))
  showDrovers y
  showPools y
  endGrants (bayMask (d.baysOf y))
  each (d.baysOf y) (fun b => do
    if bit (d.fld R.CRP_PSTATE_STATUS_PARKED) b then pure () else setCore b 1
    wr (R.FAB_SLUICE_LEVEL b) 16)

/-- A yard reset of an enabled yard; a RAKING yard is not touched (R480). DEDUCED, log 25. -/
def resetYard (y : Nat) : M d0 Unit := do
  let d ← dev
  if d.isYard y && d.bayState y != 2 then clearYard y else pure ()

/-! ### The warm reset (R475, R478, R479) -/

/-- Registers of the physical function that a warm reset leaves alone: offsets, and the bits kept. They hold what the
warm reset keeps or what it sets by itself. DESIGN CHOICE, log 26. -/
def warmKeep : List (Nat × Nat × Nat) :=
  [(0x0, 0x14, 0), (0x20, 0x800, 0), (0x10000, 0x10004, 0), (0x10030, 0x10070, 0), (0x10100, 0x10104, 0),
   (0x20000, 0x20014, 0), (0x2001C, 0x20020, 0), (0x2002C, 0x20034, 0), (0x30000, 0x32000, 0), (0x4FF04, 0x4FF08, 0),
   (0x50000, 0x50010, 0), (0x50020, 0x50024, 0), (0x50050, 0x50088, 0), (0x100000, 0x100010, 0), (0x100100, 0x100140, 0),
   (0x200000, 0x200008, 0), (0x300000, 0x30000C, 0), (0x300100, 0x300200, 0x10000),
   (0x300200, 0x300300, 0), (0x400000, 0x400004, 0), (0x1000000, 0x5000000, 0x10)]

/-- What a register of the physical function holds after a warm reset. DESIGN CHOICE, log 26. -/
def warmValue (d : Dev) (k : Nat) : Nat :=
  let v := Tab.num d.regs k
  let fresh := Tab.num Dev.reset.regs k
  if 0x100400 ≤ k ∧ k < 0x100700 ∧ k % 16 ≠ 8 then v
  else match warmKeep.find? (fun e => decide (e.1 ≤ k) && decide (k < e.2.1)) with
    | some e => if e.2.2 = 0 then v else if e.2.2 = 0x10 then putBits v 4 1 0 else v % e.2.2
    | none =>
      match rowAt pfTable k with
      | some r => mixFields r (fun a => a == .rws || a == .rwl) fresh v
      | none => fresh

/-- A warm reset starts. Yards are reset, rakes restart with a drain that ends at once (R443), the control cores restart on
staged firmware, links retrain, subports go down. DESIGN CHOICE, log 26. -/
def warmReset (cause : Nat) : M d0 Unit := do
  let d ← dev
  if d.ctl.tripped then return
  wr (R.CRP_RESET_CAUSE.sub cause 1) 1
  bump R.CRP_WARM_COUNT 1
  wr (R.CRP_STATUS.sub 0 2) 0
  each d.yardList (fun y => if d.bayState y = 2 then rakeClean y else resetYard y)
  if d.fld R.CRP_PSTATE_STATUS_STATE = 3 then
    act (.clear (tierBase 0) (12 * loftBay))
    act (.clear (tierBase 1) (12 * nearBay))
    each (List.range 48) (fun l => if (d.linkCfg l).role = 0 then pure () else enterTrain l)
  else
    each (List.range 48) (fun l =>
      if d.linkState l = 3 then do
        downNotice l
        enterTrain l
      else pure ())
  modCtl (fun c => { c with
    warm := true, pend := none, txNext := 0, hostUp := if d.fld R.CRP_PSTATE_STATUS_STATE = 3 then !c.perst else c.hostUp
    unmask := Tab.del c.unmask 1, vec := Tab.del c.vec 1, rate16 := 16
    ethWas := Nat.lor c.ethWas ((List.range 16).foldl (fun n u => n + 2 ^ u * b2n (d.fld (R.ETH_SUB_STATE_LINK u) == 2)) 0) })
  each ((List.range 16).filter d.subOk) (fun u => if d.fld (R.ETH_SUB_STATE_LINK u) = 2 then emit (.ethUp u false) else pure ())
  modLay (fun x => { x with staged := [], fetchErr := false, commitAfter := false, discarding := false, shadow := [], setSnap := none })
  wr R.CRP_PSTATE_STATUS 0
  endGrants 0x1FFF
  wr (R.CRP_STATUS.sub 2 1) 0
  let d ← dev
  each ((d.regs.filter (fun e => decide (e.1 < 2 ^ 28))).map (fun e => e.1) ++ resetRegs.map (fun e => e.1)) (fun k =>
    act (.reg k (warmValue d k)))
  each (List.range 16) (fun u => do
    modSub u (fun _ => SubPort.reset)
    if d.subOk u then
      wr (R.ETH_SUB_STATE_LINK u) 1
      wr (R.ETH_SUB_STATE_RATE u) (d.ethMode (u / 4))
    else pure ())
  setEth { Eth.reset with subs := d.eth.subs }
  each (List.range 14) (fun c => wr (R.DEV_CORE_STATE c) 0)
  showPower
  wr (R.DEV_STATUS.sub 0 1) 0
  showRing
  act (.fab d.fab.held false d.fab.sampleSeq)
  match d.sec.ccStaged with
  | none => pure ()
  | some h =>
    modSec (fun x => { x with ccFw := h, ccStaged := none })
    if d.sec.spStaged.isNone then
      wr R.SEC_STATUS_FW_PENDING 0
      if d.fld R.SEC_FW_STATUS_STATE = 3 then wr R.SEC_FW_STATUS_STATE 0 else pure ()
    else pure ()
  resetLinkOrders
  reroute

/-- WARM_RESET (R477, R500): WRST_N, which is not powered in P3. -/
def execWarmReset (s : State) : Host.Outcome State Fault Refusal :=
  perform s do
    if (← dev).fld R.CRP_PSTATE_STATUS_STATE = 3 then return
    warmReset 1

/-- CRP_RESET_CMD (R477). -/
def execCrpResetCmd (value : Nat) (s : State) : Host.Outcome State Fault Refusal :=
  perform s do
    if (← dev).pfOk && value == 0x57525354 then warmReset 2 else pure ()

/-- BMC_WARM_RESET (R461, R477): it works in every power state. -/
def execBmcWarmReset (value : Nat) (s : State) : Host.Outcome State Fault Refusal :=
  perform s (if value = 0x57525354 then warmReset 3 else pure ())

/-- WARM_RESET_DONE (R475, R479): the yard resets have ended, the muster is done, READY is set.
DESIGN CHOICE, log 26. -/
def execWarmResetDone (s : State) : Host.Outcome State Fault Refusal :=
  perform s do
    let d ← dev
    if !d.ctl.warm || d.ctl.tripped then return
    modCtl (fun c => { c with warm := false, ethWas := 0 })
    each d.yardList (fun y => if (d.yard y).resetting then modYard y (fun r => { r with resetting := false }) else pure ())
    each ((List.range 16).filter (fun u => d.subOk u && bit d.ctl.ethWas u)) (fun u => subLink u true)
    wr (R.CRP_STATUS.sub 0 2) 3

/-- FUNCTION_LEVEL_RESET (R296, R477). -/
def execFunctionLevelReset (y : Nat) (s : State) : Host.Outcome State Fault Refusal :=
  perform s do
    let d ← dev
    if d.present y && d.ctl.hostUp && !d.ctl.warm then resetYard y else pure ()

/-- CRP_BAY_RESET (R477, R493, R494). -/
def execCrpBayReset (value : Nat) (s : State) : Host.Outcome State Fault Refusal :=
  perform s do
    let d ← dev
    if d.pfOk then each (d.yardList.filter (fun y => bit value y)) resetYard else pure ()

/-- YARD_RESET_DONE (R480). -/
def execYardResetDone (y : Nat) (s : State) : Host.Outcome State Fault Refusal :=
  perform s do
    let d ← dev
    if d.isYard y && (d.yard y).resetting && !d.ctl.warm then modYard y (fun r => { r with resetting := false }) else pure ()

/-! ### Power-state and thermal commands -/

/-- A power-state change ends (R482). Leaving P3 runs steps 4 to 6 of R476 and a warm reset. DESIGN CHOICE, log 27. -/
def powerDone : M d0 Unit := do
  let d ← dev
  match d.ctl.pend with
  | none => pure ()
  | some s =>
    modCtl (fun c => { c with pend := none })
    wr R.CRP_PSTATE_STATUS_BUSY 0
    if d.fld R.CRP_PSTATE_STATUS_STATE = 3 ∧ s ≠ 3 then warmReset 2
    else enterPower s
    pfEvent R.CRP_EVENTS R.CRP_IRQ 0 0

/-- Judge a request (R481, R482): one change at a time. DESIGN CHOICE, log 27. -/
def powerReq (s : Nat) : M d0 Unit := do
  powerDone
  let d ← dev
  let ok := match s with
    | 2 => (List.range 12).all (fun b => !bit (d.fld R.CRP_PARK) b || d.bayClean b)
    | 3 => (List.range 12).all d.bayClean
    | _ => true
  if ok then
    wr R.CRP_PSTATE_STATUS_BUSY 1
    modCtl (fun c => { c with pend := some s })
  else
    wr R.CRP_PSTATE_STATUS_REFUSED 1
    pfEvent R.CRP_EVENTS R.CRP_IRQ 0 0

/-- CRP_PSTATE_REQ (R482). -/
def execCrpPstateReq (value : Nat) (s : State) : Host.Outcome State Fault Refusal :=
  perform s do
    if (← dev).pfOk then
      wr R.CRP_PSTATE_REQ (bits value 0 2)
      powerReq (bits value 0 2)
    else pure ()

/-- The BMC's request: in P3 only 0 and 3 may be requested. -/
def bmcPower (value : Nat) : M d0 Unit := do
  let d ← dev
  let v := bits value 0 2
  if d.ctl.warm || d.ctl.tripped then return
  if d.fld R.CRP_PSTATE_STATUS_STATE = 3 ∧ v ≠ 0 ∧ v ≠ 3 then wr R.CRP_PSTATE_STATUS_REFUSED 1
  else powerReq v

/-- BMC_PSTATE_REQ (R461, R482). -/
def execBmcPstateReq (value : Nat) (s : State) : Host.Outcome State Fault Refusal := perform s (bmcPower value)

/-- PSTATE_CHANGE_DONE (R482). -/
def execPstateChangeDone (s : State) : Host.Outcome State Fault Refusal :=
  perform s do
    let d ← dev
    if d.ctl.warm || d.ctl.tripped then return
    powerDone

/-- LINK_QUIET (R481): in P1 and P2 an idle transmitter goes quiet; each quiet frame carries ACK and CREDIT.
DESIGN CHOICE, log 27. -/
def execLinkQuiet (l : Nat) (s : State) : Host.Outcome State Fault Refusal :=
  perform s do
    let d ← dev
    let k := d.link l
    let p := d.fld R.CRP_PSTATE_STATUS_STATE
    if (p = 1 ∨ p = 2) ∧ d.linkState l = 3 ∧ k.queue.isEmpty ∧ k.unacked.isEmpty then
      modLink l (fun k => { k with quiet := true })
    else pure ()

/-- THERMAL_THROTTLE (R483): above the limit the issue rate of pans and drovers falls by 1/16.
DESIGN CHOICE, log 27. -/
def execThermalThrottle (temp : Nat) (s : State) : Host.Outcome State Fault Refusal :=
  perform s do
    let d ← dev
    if d.ctl.tripped then return
    wr (R.CRP_THERM.sub 0 8) (min temp 255)
    if temp ≤ d.fld (R.CRP_THERM_LIMIT.sub 0 8) then return
    modCtl (fun c => { c with rate16 := max 1 (c.rate16 - 1) })
    wr (R.CRP_STATUS.sub 2 1) 1
    if d.ctl.rate16 = 16 then pfEvent R.CRP_EVENTS R.CRP_IRQ 1 1 else pure ()

/-- THROTTLE_RAISE (R483). -/
def execThrottleRaise (temp : Nat) (s : State) : Host.Outcome State Fault Refusal :=
  perform s do
    let d ← dev
    if d.ctl.tripped then return
    wr (R.CRP_THERM.sub 0 8) (min temp 255)
    if d.fld (R.CRP_THERM_LIMIT.sub 0 8) < temp + 5 then return
    modCtl (fun c => { c with rate16 := min 16 (c.rate16 + 1) })
    wr (R.CRP_STATUS.sub 2 1) (b2n (decide (d.ctl.rate16 + 1 < 16)))

/-- THERMTRIP (R483, R505): the pin goes low and stays so until the supplies are removed; the logic loses its power.
DESIGN CHOICE, log 27. -/
def execThermtrip (temp : Nat) (s : State) : Host.Outcome State Fault Refusal :=
  perform s do
    if temp < 115 ∨ (← dev).ctl.tripped then return
    powerDown
    modCtl (fun c => { c with tripped := true, pend := none, warm := false })
    wr (R.CRP_STATUS.sub 0 2) 0
    emit (.pin "THERMTRIP_N" false)

/-! ### ENABLE, RELEASE and the rake (R294 to R296, R420, R421, R441) -/

/-- Whether a yard of this confidentiality may be ENABLED in a life cycle (R420). -/
def mayEnable (life : Nat) (conf : Bool) : Bool :=
  match life with
  | 1 | 3 => !conf
  | 2 => true
  | 4 => !conf
  | _ => false

/-- The function of yard `y` becomes ENABLED: a new XTS key pair, CONFIG_UNLOCKED, the bays ASSIGNED. Grants that a
confidential yard forbids end first (R421, R435, R436). DESIGN CHOICE, log 24. -/
def enableYard (y : Nat) : M d0 Unit := do
  let d ← dev
  if d.conf y then endGrants (bayMask (d.baysOf y) + 2 ^ 12) else pure ()
  act (.spoil (d.addr y 2 0) (d.capacity y 2))
  let ix := d.sec.drbgIx
  modSec (fun x => { x with drbgIx := x.drbgIx + 2 })
  modYard y (fun r => { r with xts := some ix, tdi := 0, rakeFar := none, drained := false })
  each (d.baysOf y) (fun b => wr (R.LAY_BAY_STATE.sub (2 * b) 2) 1)
  wr (R.BAY_FN_STATE_STATE y) 2

/-- Whether device core 0 refuses an ENABLE of yard `y`. -/
def Dev.enableBarred (d : Dev) (y : Nat) : Bool :=
  !mayEnable (d.fld R.SEC_STATUS_LIFECYCLE) (d.conf y) || (d.baysOf y).any (fun b => bit d.parked b) || d.on (R.DEV_STATUS.sub 0 1)

/-- ENABLE (R294, R420, R421, R464, R481). -/
def execEnable (b : Nat) (s : State) : Host.Outcome State Fault Refusal :=
  perform s do
    if !(← dev).pfOk ∨ 12 ≤ b then return
    powerDone
    let d ← dev
    match d.isYard b, d.fnState b with
    | true, 1 => if d.enableBarred b then wr (R.BAY_FN_STATE_CMD_ERR b) 1 else enableYard b
    | true, 3 => if d.enableBarred b then wr (R.BAY_FN_STATE_CMD_ERR b) 1 else wr (R.BAY_FN_STATE_STATE b) 4
    | true, 2 | true, 4 => if d.enableBarred b then wr (R.BAY_FN_STATE_CMD_ERR b) 1 else pure ()
    | _, _ => wr (R.BAY_FN_STATE_CMD_ERR b) 1

/-- RELEASE (R294, R296). -/
def execRelease (b : Nat) (s : State) : Host.Outcome State Fault Refusal :=
  perform s do
    let d ← dev
    if !d.pfOk ∨ 12 ≤ b then return
    match d.isYard b, d.fnState b with
    | true, 2 => releaseYard b
    | true, 4 => wr (R.BAY_FN_STATE_STATE b) 3
    | true, 1 | true, 3 => pure ()
    | _, _ => wr (R.BAY_FN_STATE_CMD_ERR b) 1

/-- YRD_RELEASE (R294, R323): the tenant releases its yard, after a yard-fatal error too (R463). -/
def execYrdRelease (y value : Nat) (s : State) : Host.Outcome State Fault Refusal :=
  perform s do
    if (← yfReach y) && value == 0x5253 then releaseYard y else pure ()

/-- RAKE_DRAIN_END (R441): steps 3 to 6. DESIGN CHOICE, log 24. -/
def execRakeDrainEnd (y : Nat) (s : State) : Host.Outcome State Fault Refusal :=
  perform s do
    let d ← dev
    if !d.isYard y || d.bayState y != 2 || (d.yard y).drained || d.ctl.tripped then return
    rakeClean y

/-- RAKE_COMPLETE (R294, R295, R441): one operation of device core 0. DESIGN CHOICE, log 24. -/
def execRakeComplete (y : Nat) (s : State) : Host.Outcome State Fault Refusal :=
  perform s do
    let d ← dev
    if !d.isYard y || d.bayState y != 2 || !(d.yard y).drained || d.ctl.tripped then return
    if (d.yard y).rakeFar = some true ∧ d.farPorts.any (fun q => !d.on (R.MEM_FAR_PORT_LINK_UP q)) then
      wr (R.SEC_RAKE_STATUS_FAR_PARTIAL.sub y 1) 1
    else pure ()
    each (d.baysOf y) (fun b => do
      bump (R.SEC_RAKE_GEN b) 1
      wr (R.LAY_BAY_STATE.sub (2 * b) 2) 3)
    modYard y (fun r => { r with rakeFar := none, drained := false })
    modSec (fun x => { x with overKeys := x.overKeys.filter (fun e => e.1 != y) })
    wr (R.BAY_FN_STATE_STATE y) 1
    if d.fnState y = 4 then
      if d.enableBarred y then wr (R.BAY_FN_STATE_CMD_ERR y) 1 else enableYard y
    else pure ()
    pfEvent R.SEC_EVENTS R.SEC_IRQ 2 2
    reroute

/-! ### The host side (R295, R315, R436, R500) -/

/-- Whether a response is read from host memory when it leaves. -/
def RspSrc.isHost (s : RspSrc) : Bool :=
  match s with
  | .host _ _ => true
  | _ => false

/-- Whether a local place lies in host memory. -/
def Loc.isHost (l : Loc) : Bool :=
  match l with
  | .host _ _ => true
  | _ => false

/-- Whether an operand of a step lies in host memory (a HOST buffer, or SRC 4). -/
def Plan.usesHost (p : Plan) (st : Step) : Bool :=
  (List.range 4).any (fun k =>
    let r := st.ref k
    r.buf != 0xFFFF && (r.src == 4 || ((p.bufs[r.buf]?).map (fun b => b.kind == 2)).getD false))

/-- End the entries of ring `r` that touch host memory (R315). PRESUMED, log 28. -/
def ringHostLost (y r : Nat) (recv : Bool) (h : Half) : M d0 Unit := do
  if !h.bound then return
  if recv then
    let es := h.live.filter (fun e => e.out.isNone && (entryLoc h.big true e.bytes).isHost)
    let c := (← dev).conn y r
    match Tab.find (← dev).lists (yk y c.matchList) with
    | some l => act (.list (yk y c.matchList) (some { l with posted := l.posted.filter (fun q => !(q.ring == r && q.loc.isHost)) }))
    | none => pure ()
    each es (fun e => complete y r true e.n cHostLost 0 0 0 0)
  else
    each (h.live.filter (fun e => e.out.isNone && !e.started && (entryLoc h.big false e.bytes).isHost)) (fun e =>
      complete y r false e.n cHostLost 0 0 0 0)
    modConn y r (fun c => { c with
      ops := c.ops.map (fun o => if o.loc.isHost && o.code.isNone then { o with code := some cHostLost } else o) })
    flushOps y r

/-- The responses of yard `y` that are still to be read from host memory are dropped; a window being revoked whose accesses
they are completes with HOST_LOST (R315, R350). PRESUMED, log 28. -/
def dropHostRsps (y : Nat) : M d0 Unit := do
  each (ofYard (← dev).conns y) (fun e => do
    let gone := e.2.rsps.filter (fun r => r.src.isHost)
    each (gone.filterMap (fun r => r.win)) (fun i => do
      modWin y i (fun w => { w with aborted := w.aborted || w.state == 2 })
      winLeave y i)
    if gone.isEmpty then pure () else modConn y e.1 (fun c => { c with rsps := c.rsps.filter (fun r => !r.src.isHost) }))

/-- A yard becomes host-lost (R315). A frozen yard's steps keep the code for their completion at resume; its ring steps
already have theirs (R484). PRESUMED, log 28. -/
def hostLose (y : Nat) : M d0 Unit := do
  let d ← dev
  if d.fnState y ≠ 2 then return
  wr (R.BAY_FN_STATE_HOST_LOST y) 1
  wr (R.YRD_STATE_HOST_LOST y) 1
  each (ofYard d.rings y) (fun e => do
    let inHost (h : Half) : Bool := h.bound && !h.inSeg
    if inHost e.2.sq || inHost e.2.rq then connError y e.1 cHostLost
    else
      ringHostLost y e.1 false e.2.sq
      ringHostLost y e.1 true e.2.rq)
  each (List.range (d.yard y).thrs.length) (fun t => do
    match (← dev).activeStep y t with
    | none => pure ()
    | some (p, st, a) =>
      if a.code.isSome || !p.usesHost st then pure ()
      else if (← dev).frozen y then
        if st.isRing then pure ()
        else
          freeThread y t
          modActive y t (fun a => { a with code := some cHostLost, runs := [], live := false, stream := none })
      else
        freeThread y t
        modActive y t (fun a => { a with live := false })
        stepFail y t cHostLost)
  dropHeld y (fun _ _ => true)
  dropPages y (fun _ => true)
  dropHostRsps y
  modYard y (fun r => { r with inval := [] })
  wr (R.XLT_STATUS_ATS_EN y) 0
  wr (R.XLT_STATUS_PRI_EN y) 0
  let st ← rd (R.YRD_FRZ_STATUS_STATE y)
  if st = 3 ∨ st = 4 then
    wr (R.YRD_FRZ_STATUS_RESULT y) cHostLost
    wr (R.YRD_FRZ_STATUS_DONE y) 1
    wr (R.YRD_FRZ_STATUS_STATE y) (if st = 3 then 2 else 5)
  else pure ()

/-- HOST_RESET (R315, R317): a hot reset retrains the link at once; a lost link stays down until it is retrained, and
PERST_N until it is deasserted. The IDE streams end, a layout fetch ends (R42), the management rings stop (R408). PRESUMED, log 8; PRESUMED, log 28. -/
def execHostReset (k : HostResetKind) (s : State) : Host.Outcome State Fault Refusal :=
  perform s do
    let d ← dev
    if d.ctl.tripped then return
    each d.yardList hostLose
    layFetchLost
    setEth { d.eth with rxOn := false, txOn := false }
    modSec (fun x => { x with ideKeys := [] })
    modCtl (fun c => { c with
      msixOpen := [], msixPend := [], msixEnt := [], perst := c.perst || k == .perst, hostUp := if k = .hotReset then c.hostUp else false })

/-- PERST_DEASSERT (R500): the link trains. PRESUMED, log 28. -/
def execPerstDeassert (s : State) : Host.Outcome State Fault Refusal :=
  perform s do
    let d ← dev
    modCtl (fun c => { c with
      perst := false
      hostUp := if c.perst then !c.tripped && d.fld R.CRP_PSTATE_STATUS_STATE != 3 else c.hostUp })

/-- What the SR-IOV capability of the physical function reads (R292): InitialVFs, TotalVFs and NumVFs; VF offset; VF
stride. -/
def vfCount : Nat := 12
def vfOffset : Nat := 1
def vfStride : Nat := 1

/-- The yard whose function stands at routing offset `fn` from the physical function (R26, R292). -/
def vfYard (fn : Nat) : Nat := (fn - vfOffset) / vfStride

/-- The W48 acts on a write to the configuration space of a yard function (R341, R353). -/
def cfgWrite (y : Nat) (w : CfgWrite) : M d0 Unit := do
  match w with
  | .ats on => wr (R.XLT_STATUS_ATS_EN y) (b2n on)
  | .pri on => wr (R.XLT_STATUS_PRI_EN y) (b2n on)
  | .allocation n =>
    modYard y (fun r => { r with alloc := n })
    sendFaults y false

/-- CONFIG_REQUEST (R292, R295, R436, R476): answered, retried or refused by the state of the function. A write to a field
that TDISP locks takes the TDI to ERROR, and its host traffic ends as in host-lost. -/
def execConfigRequest (fn : Nat) (locked : Bool) (s : State) (w : Option CfgWrite := none) : Host.Outcome State Fault Refusal :=
  perform s do
    let d ← dev
    if !d.ctl.hostUp || d.ctl.tripped then return
    if !d.on (R.CRP_STATUS.sub 0 1) && !d.ctl.warm then emit (.requestRetry fn)
    else if fn = 0 then emit (.configDone 0)
    else if vfCount < fn then emit (.unsupportedRequest fn)
    else if d.present (vfYard fn) then
      emit (.configDone fn)
      match w with
      | some c => cfgWrite (vfYard fn) c
      | none => pure ()
      if locked && ((d.yard (vfYard fn)).tdi == 1 || (d.yard (vfYard fn)).tdi == 2) then
        modYard (vfYard fn) (fun r => { r with tdi := 3 })
        hostLose (vfYard fn)
      else pure ()
    else if d.isYard (vfYard fn) && d.fnState (vfYard fn) == 4 then emit (.requestRetry fn)
    else emit (.unsupportedRequest fn)

end Sys2Proof.Machine
end

