-- ==== Sys2Proof/Machine/Security.lean ====
section
/-! DEFINITION. The security processor (14): the tack room, SPDM and the vendor messages, TDISP and IDE, firmware, debug,
JTAG, the seal service, and the cold reset (16: R476). -/

namespace Sys2Proof.Machine

variable {d0 : Dev}

/-! ### Wipes and cold resets (R412, R414, R476) -/

/-- Zero the tack room: key sets, XTS keys, throwaway keys, PCIe and CXL IDE keys and the identity keys go (R412, R414).
DESIGN CHOICE, log 29. -/
def wipe : M d0 Unit := do
  each (← dev).yardList (fun y => do
    modYard y (fun r => { r with keys := none, xts := none })
    wr ((R.YRD_KEY_STATE y).sub 0 1) 0)
  modSec (fun x => { x with idKeys := false, ideKeys := [], cxlKeys := [], overKeys := [] })

/-- The tweak of the far line of a yard that holds its far address `a`: 128 bits, little-endian (R435). -/
def xtsTweak (y a : Nat) : List Byte := leBytes 16 (a / 64 % 2 ^ 48 + 2 ^ 48 * (y % 16))

/-- What stands behind the far ports for the 64-byte line of yard `y` that holds its far address `a`: the line under the yard's
key pair; none without a pair (R435). The model keeps the line in the clear. DESIGN CHOICE, log 59. -/
def Dev.farLine (d : Dev) (y a : Nat) : Option (List Byte) :=
  (d.yard y).xts.map (fun k => Config.xtsSeal (leBytes 64 (Config.drbg k)) (xtsTweak y a) (d.mem.read (d.addr y 2 (a / 64 * 64)) 64))

/-- TAMPER (R414): the wipe, and the release of every ENABLED yard. -/
def execTamper (s : State) : Host.Outcome State Fault Refusal :=
  perform s do
    let d ← dev
    if d.ctl.tripped then return
    wipe
    wr R.SEC_STATUS_TAMPER 1
    wr R.SEC_STATUS_TAMPER_NOW 1
    bump R.SEC_TAMPER_COUNT 1
    emit (.flash "tamper count" (leBytes 4 (d.fld R.SEC_TAMPER_COUNT + 1)))
    each d.yardList releaseYard
    pfEvent R.SEC_EVENTS R.SEC_IRQ 0 0

/-- TAMPER_N_HIGH (R414). -/
def execTamperNHigh (s : State) : Host.Outcome State Fault Refusal := perform s (wr R.SEC_STATUS_TAMPER_NOW 0)

/-- A cold reset (R476, R478, R502): everything at its reset state but what fuses and flash hold. Staged control-core
firmware becomes active (R445). `low` says that TAMPER_N is low at step 2. DEDUCED, log 7; DESIGN CHOICE, log 29. -/
def coldReset (straps : Nat) (low : Bool) : M d0 Unit := do
  let d ← dev
  let x := d.sec
  let held : List Fld := [R.DEV_PAN_FAILED, R.SEC_OPKEY_SLOTS, R.SEC_STATUS_LIFECYCLE, R.SEC_TAMPER_COUNT]
  act (.cold { Sec.reset with
    idKeys := x.idMade && x.idWrap && !low, idMade := x.idMade, idWrap := x.idWrap, opKeys := x.opKeys, keyCount := x.keyCount
    transCount := x.transCount, dbgEntries := x.dbgEntries, drbgIx := x.drbgIx, spVersion := x.spVersion
    minVersion := x.minVersion, spFw := x.spFw, ccFw := x.ccStaged.getD x.ccFw })
  each held (fun f => wr f (d.fld f))
  modCtl (fun c => { c with straps := straps, perst := d.ctl.perst, hostUp := !d.ctl.perst })
  if d.ctl.tripped then emit (.pin "THERMTRIP_N" true) else pure ()
  if low then
    wr R.SEC_STATUS_TAMPER 1
    wr R.SEC_STATUS_TAMPER_NOW 1
    bump R.SEC_TAMPER_COUNT 1
    emit (.flash "tamper count" (leBytes 4 (d.fld R.SEC_TAMPER_COUNT + 1)))
  else pure ()

/-- Step 2 or 3 of a cold reset fails (R476): READY stays 0 and DEV_CORE_STATE shows the core that failed, 12 to 14. What
would have booted after it stays off. DESIGN CHOICE, log 7. -/
def bootFailed (c : Nat) : M d0 Unit := do
  wr (R.CRP_STATUS.sub 0 2) 0
  each (List.range 14) (fun k => if c = 14 ∨ k < 12 then setCore k 0 else pure ())
  setCore c 3

/-- Whether slot `i` is filled. -/
def Dev.slotFilled (d : Dev) (i : Nat) : Bool := ((d.sec.opKeys.getD i none)).isSome

/-- Show the filled slots (R444). -/
def showSlots : M d0 Unit := do
  let d ← dev
  wr (R.SEC_OPKEY_SLOTS.sub 0 4) ((List.range 4).foldl (fun n i => n + 2 ^ i * b2n (d.slotFilled i)) 0)

/-- COLD_RESET (R476, R477, R500, R501): POR_N, or a power-up. A running W48 notifies the far ends of its links (R362). The pan
self-test marks the pans of `failed` (R469); `core` names the core whose boot fails; the operator slots of `badSlots` fail their MAC
in flash and read as empty (R417). -/
def execColdReset (addr : Nat) (tamperLow : Bool) (s : State) (failed : Nat := 0) (core : Option Nat := none)
    (badSlots : Nat := 0) : Host.Outcome State Fault Refusal :=
  perform s do
    each (List.range 48) downNotice
    coldReset addr tamperLow
    if badSlots = 0 then pure ()
    else
      modSec (fun x => { x with opKeys := (List.range 4).map (fun i => if bit badSlots i then none else x.opKeys.getD i none) })
      showSlots
    match core with
    | some c => if c = 12 ∨ c = 13 ∨ c = 14 then bootFailed c else pure ()
    | none => pure ()
    if core = some 13 ∨ core = some 14 then pure () else orBits R.DEV_PAN_FAILED (failed % 2 ^ 52)

/-- RAIL_FAULT (R505): a cold reset, as POR_N low; a tripped device has no power left to lose (R483). -/
def execRailFault (s : State) : Host.Outcome State Fault Refusal :=
  perform s do
    let d ← dev
    if d.ctl.tripped then return
    each (List.range 48) downNotice
    coldReset d.ctl.straps (d.on R.SEC_STATUS_TAMPER_NOW)

/-! ### SPDM framing (R422, R423; message codes of DSP0274) -/

/-- What an SPDM transport holds. -/
def Dev.spdmAt (d : Dev) (tr : Transport) : SpdmSt :=
  (d.sec.spdm.find? (fun x => x.tr == tr)).getD { tr := tr, stage := 0, lastSig := none, ready := none, chunksIn := none, chunksOut := none }

/-- Change it. -/
def modSpdm (tr : Transport) (f : SpdmSt → SpdmSt) : M d0 Unit := do
  let v := f ((← dev).spdmAt tr)
  modSec (fun x => { x with spdm := v :: x.spdm.filter (fun z => z.tr != tr) })

/-- Put an SPDM 1.3 message out. -/
def spdmOut (tr : Transport) (code p1 p2 : Nat) (payload : List Byte) : M d0 Unit :=
  emit (.spdm tr (leBytes 1 0x13 ++ leBytes 1 code ++ leBytes 1 p1 ++ leBytes 1 p2 ++ payload))

/-- ErrorCode values. PRESUMED, log 30. -/
def eInvalidRequest : Nat := 0x01
def eInvalidSession : Nat := 0x02
def eUnexpected : Nat := 0x04
def eUnspecified : Nat := 0x05
def eUnsupported : Nat := 0x07
def eSessionLimit : Nat := 0x0A
def eLargeResponse : Nat := 0x0F
def eNotReady : Nat := 0x42

/-- An ERROR response. PRESUMED, log 30. -/
def spdmErr (tr : Transport) (e : Nat) : M d0 Unit := spdmOut tr 0x7F e 0 []

/-- Longest message of a transport. -/
def limitOf (tr : Transport) : Nat := Config.spdmLimit (if tr = .mctp then 1 else 0)

/-- A response; one longer than the transport's limit waits for CHUNK_GET (R422). DESIGN CHOICE, log 31. -/
def spdmRsp (tr : Transport) (code p1 p2 : Nat) (payload : List Byte) : M d0 Unit := do
  let bytes := leBytes 1 0x13 ++ leBytes 1 code ++ leBytes 1 p1 ++ leBytes 1 p2 ++ payload
  if bytes.length ≤ limitOf tr then emit (.spdm tr bytes)
  else
    let h := (← dev).sec.token % 256
    modSec (fun x => { x with token := x.token + 1 })
    modSpdm tr (fun z => { z with chunksOut := some (h, 0, bytes) })
    spdmOut tr 0x7F eLargeResponse 0 (leBytes 1 h)

/-- Whether a transport reaches the security processor. -/
def Dev.reaches (d : Dev) (tr : Transport) : Bool :=
  !d.ctl.tripped && d.fld ((R.DEV_CORE_STATE 14).sub 0 2) != 3 &&
  (match tr with
   | .pfDoe => d.ctl.hostUp
   | .yardDoe y => d.ctl.hostUp && d.isYard y && (d.present y || d.bayState y == 2)
   | .mctp => true)

/-- Whether a yard's attestation waits: a yard reset or a rake is in progress (R428). -/
def Dev.attestWaits (d : Dev) (y : Nat) : Bool := d.isYard y && ((d.yard y).resetting || d.bayState y == 2)

/-- Whether requests over a transport are answered ResponseNotReady (R428): a firmware activation or life-cycle restart, or
the reset or rake of the yard whose function carries them. -/
def Dev.notReady (d : Dev) (tr : Transport) : Bool :=
  d.sec.busy || (match tr with
    | .yardDoe y => d.attestWaits y
    | _ => false)

/-- ResponseNotReady: the request may be asked for again with the token. RDTExponent is the W48's estimate, a free value.
DESIGN CHOICE, log 31. -/
def answerLater (tr : Transport) (i : Instr) : M d0 Unit := do
  let t := (← dev).sec.token % 256
  let e ← fresh
  modSec (fun x => { x with token := x.token + 1 })
  modSpdm tr (fun z => { z with ready := some (t, i) })
  spdmOut tr 0x7F eNotReady 0 (leBytes 1 e ++ leBytes 1 0 ++ leBytes 1 t)

/-- Serve a request: `stage` is how far the connection must have been negotiated. PRESUMED, log 30. -/
def serve (tr : Transport) (stage : Nat) (i : Instr) (f : M d0 Unit) : M d0 Unit := do
  let d ← dev
  if !d.reaches tr then return
  if d.notReady tr then answerLater tr i
  else if (d.spdmAt tr).stage < stage then spdmErr tr eUnexpected
  else f

/-- A finished secure session of a transport. -/
def Dev.session (d : Dev) (tr : Transport) (id : Nat) : Option Session :=
  d.sec.sessions.find? (fun x => x.id == id && x.tr == tr)

/-- Serve a request inside a secure session. -/
def inSession (tr : Transport) (id : Nat) (i : Instr) (f : M d0 Unit) : M d0 Unit :=
  serve tr 3 i (do
    match (← dev).session tr id with
    | some z => if z.finished then f else spdmErr tr eUnexpected
    | none => spdmErr tr eInvalidSession)

/-- Sign bytes with identity A (RSA) and note the signed value for GET_PQ_SIG (R426); none while the identity keys are not
unwrapped (R414). -/
def signA (tr : Transport) (bytes : List Byte) : M d0 (Option (List Byte)) := do
  if !(← dev).sec.idKeys then return none
  modSpdm tr (fun z => { z with lastSig := some (sha bytes) })
  return some (Config.rsaSign bytes)

/-! ### Connection requests (R415, R422) -/

/-- GET_VERSION (R422): version 1.3 alone; the connection starts again. -/
def spdmGetVersion (tr : Transport) : M d0 Unit :=
  serve tr 0 (.getVersion tr) (do
    modSpdm tr (fun _ => { tr := tr, stage := 1, lastSig := none, ready := none, chunksIn := none, chunksOut := none })
    modSec (fun x => { x with sessions := x.sessions.filter (fun z => z.tr != tr) })
    emit (.spdm tr ([0x10, 0x04, 0, 0, 0, 1] ++ leBytes 2 0x1300)))

/-- GET_VERSION (R422): version 1.3 alone; the connection starts again. -/
def execGetVersion (tr : Transport) (s : State) : Host.Outcome State Fault Refusal := perform s (spdmGetVersion tr)

/-- Capability flags: CERT, CHAL, MEAS with signature, MEAS_FRESH, ENCRYPT, MAC, KEY_EX, HBEAT, KEY_UPD, CHUNK. -/
def capFlags : Nat := [1, 2, 4, 5, 6, 7, 9, 13, 14, 17].foldl (fun n b => n + 2 ^ b) 0

/-- GET_CAPABILITIES (R422). -/
def spdmGetCapabilities (tr : Transport) : M d0 Unit :=
  serve tr 1 (.getCapabilities tr) (do
    modSpdm tr (fun z => { z with stage := max z.stage 2 })
    spdmRsp tr 0x61 0 0 (leBytes 4 capFlags ++ Config.standardResponse 0x0274 0x61 []))

/-- GET_CAPABILITIES (R422). -/
def execGetCapabilities (tr : Transport) (s : State) : Host.Outcome State Fault Refusal := perform s (spdmGetCapabilities tr)

/-- NEGOTIATE_ALGORITHMS (R422): the DMTF measurement specification, RSAPSS_3072, SHA_384 for both hashes, secp384r1,
AES-256-GCM. -/
def spdmNegotiateAlgorithms (tr : Transport) : M d0 Unit :=
  serve tr 2 (.negotiateAlgorithms tr) (do
    modSpdm tr (fun z => { z with stage := 3 })
    spdmRsp tr 0x63 0 0 (leBytes 1 0x01 ++ leBytes 4 0x08 ++ leBytes 4 0x02 ++ leBytes 4 0x04 ++ leBytes 2 0x10 ++ leBytes 2 0x02))

/-- NEGOTIATE_ALGORITHMS (R422): RSAPSS_3072, SHA_384 for both hashes, secp384r1, AES-256-GCM. -/
def execNegotiateAlgorithms (tr : Transport) (s : State) : Host.Outcome State Fault Refusal := perform s (spdmNegotiateAlgorithms tr)

/-- GET_DIGESTS (R415, R422): certificate slots 0 and 1. -/
def spdmGetDigests (tr : Transport) : M d0 Unit :=
  serve tr 3 (.getDigests tr) (do
    if !(← dev).sec.idMade then spdmErr tr eUnspecified
    else spdmRsp tr 0x01 0 3 (sha (Config.certificate 0) ++ sha (Config.certificate 1)))

/-- GET_DIGESTS (R415, R422): certificate slots 0 and 1. -/
def execGetDigests (tr : Transport) (s : State) : Host.Outcome State Fault Refusal := perform s (spdmGetDigests tr)

/-- GET_CERTIFICATE (R415). -/
def spdmGetCertificate (tr : Transport) (slot : Nat) : M d0 Unit :=
  serve tr 3 (.getCertificate tr slot) (do
    if 2 ≤ slot then spdmErr tr eInvalidRequest
    else if !(← dev).sec.idMade then spdmErr tr eUnspecified
    else spdmRsp tr 0x02 slot 0 (Config.certificate slot))

/-- GET_CERTIFICATE (R415). -/
def execGetCertificate (tr : Transport) (slot : Nat) (s : State) : Host.Outcome State Fault Refusal := perform s (spdmGetCertificate tr slot)

/-- CHALLENGE (R422). -/
def spdmChallenge (tr : Transport) (nonce : List Byte) : M d0 Unit :=
  serve tr 3 (.challenge tr nonce) (do
    let t := Config.standardResponse 0x0274 0x03 nonce
    match ← signA tr t with
    | none => spdmErr tr eUnspecified
    | some g => spdmRsp tr 0x03 0 0 (t ++ g))

/-- CHALLENGE (R422). -/
def execChallenge (tr : Transport) (nonce : List Byte) (s : State) : Host.Outcome State Fault Refusal := perform s (spdmChallenge tr nonce)

/-- KEY_EXCHANGE (R422): at most 16 sessions in the whole device. -/
def spdmKeyExchange (tr : Transport) (share : List Byte) : M d0 Unit :=
  serve tr 3 (.keyExchange tr share) (do
    let x := (← dev).sec
    if 16 ≤ x.sessions.length then spdmErr tr eSessionLimit
    else
      let t := leBytes 2 x.nextSession ++ Config.standardResponse 0x0274 0x64 share
      match ← signA tr t with
      | none => spdmErr tr eUnspecified
      | some g =>
        modSec (fun x => { x with
          sessions := x.sessions ++ [{ id := x.nextSession, tr := tr, finished := false }]
          nextSession := x.nextSession + 1, drbgIx := x.drbgIx + 1 })
        spdmRsp tr 0x64 0 0 (t ++ g))

/-- KEY_EXCHANGE (R422): at most 16 sessions in the whole device. -/
def execKeyExchange (tr : Transport) (share : List Byte) (s : State) : Host.Outcome State Fault Refusal := perform s (spdmKeyExchange tr share)

/-- FINISH (R422). -/
def spdmFinish (tr : Transport) (session : Nat) : M d0 Unit :=
  serve tr 3 (.finish tr session) (do
    match (← dev).session tr session with
    | none => spdmErr tr eInvalidSession
    | some z =>
      if z.finished then spdmErr tr eUnexpected
      else
        modSec (fun x => { x with sessions := x.sessions.map (fun q => if q = z then { q with finished := true } else q) })
        spdmRsp tr 0x65 0 0 (Config.standardResponse 0x0274 0x65 (leBytes 2 session)))

/-- FINISH (R422). -/
def execFinish (tr : Transport) (session : Nat) (s : State) : Host.Outcome State Fault Refusal := perform s (spdmFinish tr session)

/-- HEARTBEAT (R422). -/
def spdmHeartbeat (tr : Transport) (session : Nat) : M d0 Unit :=
  inSession tr session (.heartbeat tr session) (spdmRsp tr 0x68 0 0 [])

/-- HEARTBEAT (R422). -/
def execHeartbeat (tr : Transport) (session : Nat) (s : State) : Host.Outcome State Fault Refusal := perform s (spdmHeartbeat tr session)

/-- KEY_UPDATE (R422). -/
def spdmKeyUpdate (tr : Transport) (session : Nat) : M d0 Unit :=
  inSession tr session (.keyUpdate tr session) (spdmRsp tr 0x69 0 0 [])

/-- KEY_UPDATE (R422). -/
def execKeyUpdate (tr : Transport) (session : Nat) (s : State) : Host.Outcome State Fault Refusal := perform s (spdmKeyUpdate tr session)

/-- END_SESSION (R422). -/
def spdmEndSession (tr : Transport) (session : Nat) : M d0 Unit :=
  inSession tr session (.endSession tr session) (do
    modSec (fun x => { x with sessions := x.sessions.filter (fun q => !(q.id == session && q.tr == tr)) })
    spdmRsp tr 0x6C 0 0 [])

/-- END_SESSION (R422). -/
def execEndSession (tr : Transport) (session : Nat) (s : State) : Host.Outcome State Fault Refusal := perform s (spdmEndSession tr session)

/-- CHUNK_SEND (R422): parts in order; the request they carry takes effect by its own command.
DESIGN CHOICE, log 31. -/
def spdmChunkSend (tr : Transport) (handle seq : Nat) (last : Bool) (bytes : List Byte) : M d0 Unit :=
  serve tr 2 (.chunkSend tr handle seq last bytes) (do
    let have_ := (← dev).spdmAt tr
    let part := match have_.chunksIn with
      | some (h, n, bs) => if h = handle ∧ n = seq then some bs else if seq = 0 then some [] else none
      | none => if seq = 0 then some [] else none
    match part with
    | none =>
      modSpdm tr (fun z => { z with chunksIn := none })
      spdmErr tr eInvalidRequest
    | some bs =>
      modSpdm tr (fun z => { z with chunksIn := if last then none else some (handle, seq + 1, bs ++ bytes) })
      spdmRsp tr 0x05 0 (handle % 256) (leBytes 2 seq))

/-- CHUNK_SEND (R422): parts in order; the request they carry takes effect by its own command.
DESIGN CHOICE, log 31. -/
def execChunkSend (tr : Transport) (handle seq : Nat) (last : Bool) (bytes : List Byte) (s : State) : Host.Outcome State Fault Refusal := perform s (spdmChunkSend tr handle seq last bytes)

/-- CHUNK_GET (R422). DESIGN CHOICE, log 31. -/
def spdmChunkGet (tr : Transport) (handle seq : Nat) : M d0 Unit :=
  serve tr 2 (.chunkGet tr handle seq) (do
    match ((← dev).spdmAt tr).chunksOut with
    | none => spdmErr tr eUnexpected
    | some (h, n, bs) =>
      if h ≠ handle ∨ n ≠ seq then spdmErr tr eInvalidRequest
      else
        let k := max 1 (limitOf tr)
        let last := decide (bs.length ≤ k)
        modSpdm tr (fun z => { z with chunksOut := if last then none else some (h, n + 1, bs.drop k) })
        spdmOut tr 0x06 (b2n last) (handle % 256) (leBytes 2 seq ++ bs.take k))

/-- CHUNK_GET (R422). DESIGN CHOICE, log 31. -/
def execChunkGet (tr : Transport) (handle seq : Nat) (s : State) : Host.Outcome State Fault Refusal := perform s (spdmChunkGet tr handle seq)

/-! ### Measurements and reports (R424 to R428) -/

/-- The commitment of a key set (R429). -/
def KeySet.commit (k : KeySet) : List Byte :=
  sha ([0x47, 0x56, 0x57, 0x34, 0x38, 0x20, 0x63, 0x6F, 0x6D, 0x6D, 0x69, 0x74, 0x20, 0x76, 0x31] ++ k.id ++ k.jms ++ k.mig)

/-- The block of yard `y` (R425): `own` for a request through its own function. A yard in a rake or a reset shows DRAINING
and zero digests (R428). -/
def Dev.yardBlock (d : Dev) (y : Nat) (own : Bool) : List Byte :=
  let waits := d.attestWaits y
  let commit := match (d.yard y).keys with
    | some k => if waits then zeros 48 else k.commit
    | none => zeros 48
  let plan := if waits ∨ (d.conf y ∧ !own) then zeros 48 else d.words (R.PLN_MEASURE y) 12
  leBytes 1 y ++ leBytes 1 (d.baysOf y).length ++ leBytes 1 (if waits then 3 else d.fnState y) ++ leBytes 1 (b2n (d.conf y)) ++
    leBytes 4 (d.fld (R.SEC_RAKE_GEN y)) ++ leBytes 8 (d.yard y).touchSeq ++ commit ++ plan

/-- Whether an image is staged, then its digest or zeros (R424, blocks 4 and 5). -/
def stagedBlock (h : Option (List Byte)) : List Byte :=
  match h with
  | some x => [1] ++ x
  | none => [0] ++ zeros 48

/-- An operator slot as its bytes: modulus, then the SLH-DSA key; an empty slot has none. -/
def slotBytes (k : Option (List Byte × List Byte)) : List Byte :=
  match k with
  | some (r, h) => r ++ h
  | none => []

/-- Value of measurement block `i` below 9 (R424). -/
def Dev.fixedBlock (d : Dev) (i : Nat) : List Byte :=
  let x := d.sec
  match i with
  | 1 => beBytes 48 Config.romDigest.toNat
  | 2 => x.spFw
  | 3 => x.ccFw
  | 4 => stagedBlock x.spStaged
  | 5 => stagedBlock x.ccStaged
  | 6 => d.words R.LAY_MEASURE 12 ++ leBytes 8 (d.fld R.LAY_SEQ)
  | 7 => leBytes 1 (d.fld R.SEC_STATUS_LIFECYCLE) ++ leBytes 1 (d.fld R.SEC_STATUS_TAMPER) ++ zeros 2 ++
      leBytes 4 (d.fld R.SEC_TAMPER_COUNT) ++ leBytes 4 x.grants ++ leBytes 1 x.dbgEntries ++ zeros 3 ++
      sha (x.opKeys.flatMap slotBytes)
  | _ => leBytes 4 x.spVersion ++ leBytes 4 x.minVersion

/-- DMTF value types of the blocks (bit 7: raw). -/
def blockType (i : Nat) : Nat :=
  match i with
  | 1 => 0x00
  | 2 => 0x01
  | 3 => 0x01
  | 4 => 0x81
  | 5 => 0x81
  | 6 => 0x83
  | 7 => 0x85
  | 8 => 0x87
  | _ => 0x83

/-- A measurement block in the DMTF format. PRESUMED, log 30. -/
def dmtf (i : Nat) (v : List Byte) : List Byte :=
  leBytes 1 i ++ leBytes 1 1 ++ leBytes 2 (v.length + 3) ++ leBytes 1 (blockType i) ++ leBytes 2 v.length ++ v

/-- The blocks a request through `tr` may see, ascending (R424). -/
def Dev.blocks (d : Dev) (tr : Transport) : List (Nat × List Byte) :=
  let ys := match tr with
    | .yardDoe y => [y]
    | _ => d.yardList
  ((List.range 8).map (fun i => (i + 1, d.fixedBlock (i + 1)))) ++
    ys.map (fun y => (0x10 + y, d.yardBlock y (tr == .yardDoe y)))

/-- The blocks of an INDEX; none when it names none. -/
def Dev.chosen (d : Dev) (tr : Transport) (index : Nat) : Option (List (Nat × List Byte)) :=
  if index = 0xFF then some (d.blocks tr)
  else match (d.blocks tr).find? (fun b => b.1 == index) with
    | some b => some [b]
    | none => none

/-- Whether a request for an INDEX waits: the block of a yard in a rake or a reset (R428). -/
def Dev.indexWaits (d : Dev) (index : Nat) : Bool := decide (0x10 ≤ index) && decide (index < 0x1C) && d.attestWaits (index - 0x10)

/-- GET_MEASUREMENTS, its work (R424). INDEX 0 asks for the number of blocks. The response carries the responder's own nonce
(R413); the signature covers the requester's too. -/
def rowMeasurements (tr : Transport) (index : Nat) (nonce : List Byte) (sign : Bool) : M d0 Unit := do
  let d ← dev
  if d.indexWaits index then answerLater tr (.getMeasurements tr index nonce sign)
  else
    let all := d.blocks tr
    let pick := if index = 0 then some [] else d.chosen tr index
    match pick with
    | none => spdmErr tr eInvalidRequest
    | some bs =>
      let record := bs.flatMap (fun b => dmtf b.1 b.2)
      modSec (fun x => { x with drbgIx := x.drbgIx + 1 })
      let body := leBytes 1 bs.length ++ leBytes 3 record.length ++ record ++ beBytes 32 (Config.drbg d.sec.drbgIx)
      let p1 := if index = 0 then all.length else 0
      if sign then
        match ← signA tr (Config.standardResponse 0x0274 0x60 (nonce ++ body)) with
        | none => spdmErr tr eUnspecified
        | some g => spdmRsp tr 0x60 p1 0 (body ++ g)
      else spdmRsp tr 0x60 p1 0 body

/-- GET_MEASUREMENTS (R424, R425, R428). -/
def spdmGetMeasurements (tr : Transport) (index : Nat) (nonce : List Byte) (sign : Bool) : M d0 Unit :=
  serve tr 3 (.getMeasurements tr index nonce sign) (rowMeasurements tr index nonce sign)

/-- GET_MEASUREMENTS (R424, R425, R428). -/
def execGetMeasurements (tr : Transport) (index : Nat) (nonce : List Byte) (sign : Bool) (s : State) : Host.Outcome State Fault Refusal := perform s (spdmGetMeasurements tr index nonce sign)

/-- A vendor response: StandardID, vendor ID and length; then CMD, STATUS, and what follows (R426). PRESUMED, log 30. -/
def vendorRsp (tr : Transport) (cmd status : Nat) (body : List Byte) : M d0 Unit :=
  spdmRsp tr 0x7E 0 0 (leBytes 2 3 ++ leBytes 1 2 ++ leBytes 2 Config.pciVendor ++ leBytes 2 (2 + body.length) ++
    leBytes 1 cmd ++ leBytes 1 status ++ body)

/-- The signed part of a report (R427). -/
def Dev.report (d : Dev) (nonce : List Byte) (bs : List (Nat × List Byte)) : List Byte :=
  let body := bs.flatMap (fun b => dmtf b.1 b.2)
  let n := 0x60 + body.length
  leBytes 4 0x52415647 ++ leBytes 2 0x0100 ++ leBytes 2 0x60 ++ leBytes 4 n ++ leBytes 4 (n + 16608) ++ leBytes 8 Config.serial ++
    fitBytes 32 nonce ++ leBytes 8 d.now ++ leBytes 1 (d.fld R.SEC_STATUS_LIFECYCLE) ++ leBytes 1 bs.length ++ zeros 30 ++ body

/-- GET_REPORT, its work (R427). -/
def rowReport (tr : Transport) (index : Nat) (nonce : List Byte) : M d0 Unit := do
  let d ← dev
  if d.indexWaits index then answerLater tr (.getReport tr index nonce)
  else match d.chosen tr index with
    | none => spdmErr tr eInvalidRequest
    | some bs =>
      let part := d.report nonce bs
      match ← signA tr part with
      | none => spdmErr tr eUnspecified
      | some g => vendorRsp tr 1 0 (part ++ fitBytes 384 g ++ fitBytes 16224 (Config.slhSign part))

/-- GET_REPORT (R426, R427). -/
def spdmGetReport (tr : Transport) (index : Nat) (nonce : List Byte) : M d0 Unit :=
  serve tr 3 (.getReport tr index nonce) (rowReport tr index nonce)

/-- GET_REPORT (R426, R427). -/
def execGetReport (tr : Transport) (index : Nat) (nonce : List Byte) (s : State) : Host.Outcome State Fault Refusal := perform s (spdmGetReport tr index nonce)

/-- GET_PQ_SIG (R426): STATUS 2 when no RSA signature has been made on the transport. A vendor request of a CMD that the table
does not name comes by this row too, `cmd` its code. -/
def spdmGetPqSig (tr : Transport) (cmd : Nat) : M d0 Unit :=
  serve tr 3 (.getPqSig tr cmd) (do
    let d ← dev
    if cmd ≠ 3 then
      spdmErr tr eUnsupported
      return
    match (d.spdmAt tr).lastSig with
    | none => vendorRsp tr 3 2 []
    | some v => if d.sec.idKeys then vendorRsp tr 3 0 (fitBytes 16224 (Config.slhSign v)) else spdmErr tr eUnspecified)

/-- GET_PQ_SIG (R426): STATUS 2 when no RSA signature has been made on the transport. A vendor request of a CMD that the table
does not name comes by this row too, `cmd` its code. -/
def execGetPqSig (tr : Transport) (s : State) (cmd : Nat := 3) : Host.Outcome State Fault Refusal := perform s (spdmGetPqSig tr cmd)

/-! ### Key sets, operator slots and the life cycle (R417 to R419, R429) -/

/-- STATUS of a SET_KEYS (R429): the first condition that fails. DEDUCED, log 32. -/
def Dev.setKeysStatus (d : Dev) (tr : Transport) (y : Nat) : Nat :=
  if (d.yard y).keys.isSome then 1
  else if !d.isYard y || d.fnState y != 2 || d.bayState y != 1 then 2
  else if d.conf y && tr != .yardDoe y then 3
  else if !mayEnable (d.fld R.SEC_STATUS_LIFECYCLE) (d.conf y) then 4
  else if d.conf y && !((d.yard y).tdi == 1 || (d.yard y).tdi == 2) then 5
  else if d.on R.SEC_STATUS_TAMPER_NOW then 6
  else 0

/-- SET_KEYS (R426, R429). DEDUCED, log 32. -/
def spdmSetKeys (tr : Transport) (session lowest keySetId : Nat) (jms mig : List Byte) : M d0 Unit :=
  inSession tr session (.setKeys tr session lowest keySetId jms mig) (do
    let st := (← dev).setKeysStatus tr lowest
    if st ≠ 0 then vendorRsp tr 2 st []
    else
      let k : KeySet := { id := leBytes 8 keySetId, jms := jms, mig := mig }
      modYard lowest (fun r => { r with keys := some k })
      wr ((R.YRD_KEY_STATE lowest).sub 0 1) 1
      vendorRsp tr 2 0 k.commit)

/-- SET_KEYS (R426, R429). DEDUCED, log 32. -/
def execSetKeys (tr : Transport) (session lowest keySetId : Nat) (jms mig : List Byte) (s : State) : Host.Outcome State Fault Refusal := perform s (spdmSetKeys tr session lowest keySetId jms mig)

/-- Whether both signatures by operator slot `k` verify over a message (R416). -/
def Dev.slotSigns (d : Dev) (k : Nat) (msg : List Byte) (a : Auth) : Bool :=
  match d.sec.opKeys.getD k none with
  | some (r, h) => Config.rsaVerify r msg a.rsa && Config.slhVerify h msg a.slh
  | none => false

/-- What an operator signature or a token covers: the request's fields, the serial number and the count it names.
DEDUCED, log 32. -/
def authMsg (fields : List Byte) (a : Auth) : List Byte := fields ++ leBytes 8 a.serial ++ leBytes 4 a.count ++ a.body

/-- STATUS of an OPERATOR_KEY (R417, R426): 2 not permitted, 4 stale count, 1 signature. DEDUCED, log 32. -/
def Dev.operatorStatus (d : Dev) (install : Bool) (slot : Nat) (rsaKey slhKey : List Byte) (a : Auth) : Nat :=
  let filled := (List.range 4).filter d.slotFilled
  if 4 ≤ slot ∨ (!install ∧ (!d.slotFilled slot ∨ filled.length < 2)) then 2
  else if a.count ≠ d.sec.keyCount then 4
  else if filled.isEmpty then (if slot = 0 then 0 else 2)
  else if 4 ≤ a.slot ∨ a.slot = slot ∨ !d.slotFilled a.slot then 2
  else if a.serial = Config.serial ∧
      d.slotSigns a.slot (authMsg (leBytes 1 (if install then 1 else 2) ++ leBytes 1 slot ++ rsaKey ++ slhKey) a) a then 0
  else 1

/-- OPERATOR_KEY (R417, R426). -/
def spdmOperatorKey (tr : Transport) (install : Bool) (slot : Nat) (rsaKey slhKey : List Byte) (a : Auth) : M d0 Unit :=
  serve tr 3 (.operatorKey tr install slot rsaKey slhKey a) (do
    let d ← dev
    match tr with
    | .yardDoe _ => spdmErr tr eUnsupported
    | _ =>
      let st := d.operatorStatus install slot rsaKey slhKey a
      if st = 0 then
        modSec (fun x => { x with opKeys := x.opKeys.set slot (if install then some (rsaKey, slhKey) else none), keyCount := x.keyCount + 1 })
        showSlots
        emit (.flash "operator slot" (leBytes 1 slot ++ (if install then rsaKey ++ slhKey else [])))
      else pure ()
      vendorRsp tr 4 st [])

/-- OPERATOR_KEY (R417, R426). -/
def execOperatorKey (tr : Transport) (install : Bool) (slot : Nat) (rsaKey slhKey : List Byte) (a : Auth) (s : State) : Host.Outcome State Fault Refusal := perform s (spdmOperatorKey tr install slot rsaKey slhKey a)

/-- Who may make a transition (R418): none when the table has none; by a token, by an operator. -/
def transition (cur target dbg : Nat) : Option (Bool × Bool) :=
  if target = 5 then (if cur = 5 then none else some (true, true))
  else match cur, target with
    | 0, 1 => some (true, false)
    | 1, 2 => some (true, false)
    | 2, 3 => if dbg < 15 then some (true, false) else none
    | 3, 2 => some (false, true)
    | 2, 4 => some (true, false)
    | 3, 4 => some (true, false)
    | _, _ => none

/-- STATUS of a SET_LIFECYCLE (R418, R419, R426). DEDUCED, log 32. -/
def Dev.lifeStatus (d : Dev) (target : Nat) (a : Auth) : Nat :=
  match transition (d.fld R.SEC_STATUS_LIFECYCLE) target d.sec.dbgEntries with
  | none => 2
  | some (byToken, byOp) =>
    if (List.range 12).any (fun b => d.bayState b == 1 || d.bayState b == 2) then 3
    else if d.on R.SEC_STATUS_TAMPER_NOW then 2
    else if a.slot = 4 then
      if !byToken then 2
      else if a.serial ≠ Config.serial ∨ a.count ≠ d.sec.transCount then 4
      else
        let msg := authMsg (leBytes 1 target) a
        if Config.rsaVerify (Config.romKey 2) msg a.rsa && Config.slhVerify (Config.romKey 3) msg a.slh then 0 else 1
    else if !byOp ∨ !d.slotFilled a.slot then 2
    else if a.serial ≠ Config.serial ∨ a.count ≠ d.sec.transCount then 4
    else if d.slotSigns a.slot (authMsg (leBytes 1 target) a) a then 0
    else 1

/-- The security processor stops to restart: every session ends (R419, R428, R445). What a transport has negotiated and its tokens
stay, so that a request deferred by the restart is served when it comes again (R423, R428). DESIGN CHOICE, log 31. -/
def spDown : M d0 Unit := do
  modSec (fun x => { x with
    busy := true, sessions := []
    spdm := x.spdm.map (fun z => { z with lastSig := none, chunksIn := none, chunksOut := none }) })
  wr R.SEC_STATUS_SP_READY 0
  wr (R.DEV_STATUS.sub 3 1) 0
  wr ((R.DEV_CORE_STATE 14).sub 0 2) 0

/-- SET_LIFECYCLE (R418, R419): the wipe, the fuses, the restart. -/
def spdmSetLifecycle (tr : Transport) (target : Nat) (a : Auth) : M d0 Unit :=
  serve tr 3 (.setLifecycle tr target a) (do
    let d ← dev
    match tr with
    | .yardDoe _ => spdmErr tr eUnsupported
    | _ =>
      let st := d.lifeStatus target a
      vendorRsp tr 5 st []
      if st = 0 then
        wipe
        wr R.SEC_STATUS_LIFECYCLE target
        modSec (fun x => { x with
          transCount := x.transCount + 1
          dbgEntries := if target = 3 then x.dbgEntries + 1 else x.dbgEntries
          idMade := x.idMade || target == 1
          idWrap := if target = 5 then false else x.idWrap || target == 1
          drbgIx := if target = 1 then x.drbgIx + 2 else x.drbgIx
          opKeys := if 4 ≤ target then [none, none, none, none] else x.opKeys })
        if 4 ≤ target then showSlots else pure ()
        recheckGrants
        spDown
      else pure ())

/-- SET_LIFECYCLE (R418, R419): the wipe, the fuses, the restart. -/
def execSetLifecycle (tr : Transport) (target : Nat) (a : Auth) (s : State) : Host.Outcome State Fault Refusal := perform s (spdmSetLifecycle tr target a)

/-! ### TDISP and IDE (R436) -/

/-- A TDISP request to the TDI of yard `y`: the new state, or an error, by its present state. PRESUMED, log 34. -/
def tdisp (y : Nat) (i : Instr) (code : Nat) (f : Nat → Option Nat) (body : Dev → List Byte) : M d0 Unit := do
  let d ← dev
  if !d.ctl.hostUp || d.ctl.tripped then return
  if !d.present y then emit (.unsupportedRequest (y + 1))
  else if d.sec.busy || (d.yard y).resetting then answerLater (.yardDoe y) i
  else match f (d.yard y).tdi with
    | none => emit (.tdisp y 0x7F (leBytes 4 0x0104))
    | some t =>
      modYard y (fun r => { r with tdi := t })
      emit (.tdisp y code (body (← dev)))

/-- GET_TDISP_VERSION (R436): version 1.0. -/
def tdispGetTdispVersion (y : Nat) : M d0 Unit :=
  tdisp y (.getTdispVersion y) 0x01 some (fun _ => [1, 0x10])

/-- GET_TDISP_VERSION (R436): version 1.0. -/
def execGetTdispVersion (y : Nat) (s : State) : Host.Outcome State Fault Refusal := perform s (tdispGetTdispVersion y)

/-- GET_TDISP_CAPABILITIES (R436). -/
def tdispGetTdispCapabilities (y : Nat) : M d0 Unit :=
  tdisp y (.getTdispCapabilities y) 0x02 some (fun _ => Config.standardResponse 0x1D15 0x02 [])

/-- GET_TDISP_CAPABILITIES (R436). -/
def execGetTdispCapabilities (y : Nat) (s : State) : Host.Outcome State Fault Refusal := perform s (tdispGetTdispCapabilities y)

/-- LOCK_INTERFACE_REQUEST (R436): `stream` is the IDE stream that the request names for the TDI. PRESUMED, log 34. -/
def tdispLockInterfaceRequest (y stream : Nat) : M d0 Unit := do
  let before := ((← dev).yard y).tdi
  tdisp y (.lockInterfaceRequest y stream) 0x03 (fun t => if t = 0 then some 1 else none) (fun _ => Config.standardResponse 0x1D15 0x03 [])
  if before = 0 ∧ ((← dev).yard y).tdi = 1 then modYard y (fun r => { r with ideStream := some stream }) else pure ()

/-- LOCK_INTERFACE_REQUEST (R436). PRESUMED, log 34. -/
def execLockInterfaceRequest (y : Nat) (s : State) (stream : Nat := 0) : Host.Outcome State Fault Refusal :=
  perform s (tdispLockInterfaceRequest y stream)

/-- GET_DEVICE_INTERFACE_REPORT (R436): answered in CONFIG_LOCKED and RUN. PRESUMED, log 34. -/
def tdispGetDeviceInterfaceReport (y : Nat) : M d0 Unit :=
  tdisp y (.getDeviceInterfaceReport y) 0x04 (fun t => if t = 1 ∨ t = 2 then some t else none)
    (fun d => Config.standardResponse 0x1D15 0x04 (leBytes 1 y ++ leBytes 1 (d.baysOf y).length))

/-- GET_DEVICE_INTERFACE_REPORT (R436): answered in CONFIG_LOCKED and RUN. PRESUMED, log 34. -/
def execGetDeviceInterfaceReport (y : Nat) (s : State) : Host.Outcome State Fault Refusal := perform s (tdispGetDeviceInterfaceReport y)

/-- GET_DEVICE_INTERFACE_STATE (R436). -/
def tdispGetDeviceInterfaceState (y : Nat) : M d0 Unit :=
  tdisp y (.getDeviceInterfaceState y) 0x05 some (fun d => leBytes 1 (d.yard y).tdi)

/-- GET_DEVICE_INTERFACE_STATE (R436). -/
def execGetDeviceInterfaceState (y : Nat) (s : State) : Host.Outcome State Fault Refusal := perform s (tdispGetDeviceInterfaceState y)

/-- START_INTERFACE_REQUEST (R436). PRESUMED, log 34. -/
def tdispStartInterfaceRequest (y : Nat) : M d0 Unit :=
  tdisp y (.startInterfaceRequest y) 0x06 (fun t => if t = 1 then some 2 else none) (fun _ => [])

/-- START_INTERFACE_REQUEST (R436). PRESUMED, log 34. -/
def execStartInterfaceRequest (y : Nat) (s : State) : Host.Outcome State Fault Refusal := perform s (tdispStartInterfaceRequest y)

/-- STOP_INTERFACE_REQUEST (R436). -/
def tdispStopInterfaceRequest (y : Nat) : M d0 Unit :=
  tdisp y (.stopInterfaceRequest y) 0x07 (fun _ => some 0) (fun _ => [])

/-- STOP_INTERFACE_REQUEST (R436). -/
def execStopInterfaceRequest (y : Nat) (s : State) : Host.Outcome State Fault Refusal := perform s (tdispStopInterfaceRequest y)

/-- IDE_KM (R436): the keys of a stream, inside a session on the physical function's DOE. -/
def spdmIdeKm (session streamId : Nat) (key : List Byte) : M d0 Unit :=
  inSession .pfDoe session (.ideKm session streamId key) (do
    if 5 ≤ streamId then spdmErr .pfDoe eInvalidRequest
    else
      modSec (fun x => { x with ideKeys := (streamId, key) :: x.ideKeys.filter (fun e => e.1 != streamId) })
      spdmRsp .pfDoe 0x7E 0 0 (Config.standardResponse 0x1DE0 streamId []))

/-- IDE_KM (R436): the keys of a stream, inside a session on the physical function's DOE. -/
def execIdeKm (session streamId : Nat) (key : List Byte) (s : State) : Host.Outcome State Fault Refusal := perform s (spdmIdeKm session streamId key)

/-- Serve again a request that was answered ResponseNotReady. -/
def serveAgain (tr : Transport) (i : Instr) : M d0 Unit :=
  match i with
  | .getVersion tr => spdmGetVersion tr
  | .getCapabilities tr => spdmGetCapabilities tr
  | .negotiateAlgorithms tr => spdmNegotiateAlgorithms tr
  | .getDigests tr => spdmGetDigests tr
  | .getCertificate tr slot => spdmGetCertificate tr slot
  | .challenge tr nonce => spdmChallenge tr nonce
  | .keyExchange tr share => spdmKeyExchange tr share
  | .finish tr session => spdmFinish tr session
  | .heartbeat tr session => spdmHeartbeat tr session
  | .keyUpdate tr session => spdmKeyUpdate tr session
  | .endSession tr session => spdmEndSession tr session
  | .chunkSend tr handle seq last bytes => spdmChunkSend tr handle seq last bytes
  | .chunkGet tr handle seq => spdmChunkGet tr handle seq
  | .getMeasurements tr index nonce sign => spdmGetMeasurements tr index nonce sign
  | .getReport tr index nonce => spdmGetReport tr index nonce
  | .getPqSig tr cmd => spdmGetPqSig tr cmd
  | .setKeys tr session lowest keySetId jms mig => spdmSetKeys tr session lowest keySetId jms mig
  | .operatorKey tr install slot rsaKey slhKey a => spdmOperatorKey tr install slot rsaKey slhKey a
  | .setLifecycle tr target a => spdmSetLifecycle tr target a
  | .getTdispVersion y => tdispGetTdispVersion y
  | .getTdispCapabilities y => tdispGetTdispCapabilities y
  | .lockInterfaceRequest y stream => tdispLockInterfaceRequest y stream
  | .getDeviceInterfaceReport y => tdispGetDeviceInterfaceReport y
  | .getDeviceInterfaceState y => tdispGetDeviceInterfaceState y
  | .startInterfaceRequest y => tdispStartInterfaceRequest y
  | .stopInterfaceRequest y => tdispStopInterfaceRequest y
  | .ideKm session streamId key => spdmIdeKm session streamId key
  | _ => spdmErr tr eUnexpected

/-- RESPOND_IF_READY (R423): the request is served when it can be by now. DESIGN CHOICE, log 31. -/
def execRespondIfReady (tr : Transport) (token : Nat) (s : State) : Host.Outcome State Fault Refusal :=
  perform s do
    let d ← dev
    if !d.reaches tr then return
    match (d.spdmAt tr).ready with
    | none => spdmErr tr eUnexpected
    | some (t, i) =>
      if t ≠ token then spdmErr tr eUnexpected
      else
        modSpdm tr (fun z => { z with ready := none })
        serveAgain tr i

/-! ### Firmware (R416, R444, R445) -/

/-- A firmware command ends. -/
def fwEvent : M d0 Unit := pfEvent R.SEC_EVENTS R.SEC_IRQ 1 1

/-- A firmware command is ignored. -/
def fwErr : M d0 Unit := wr R.SEC_FW_STATUS_CMD_ERR 1

/-- Show whether an image is staged. -/
def showPending : M d0 Unit := do
  let x := (← dev).sec
  wr R.SEC_STATUS_FW_PENDING (b2n (x.spStaged.isSome || x.ccStaged.isSome))

/-- STAGE (R445). -/
def execStage (s : State) : Host.Outcome State Fault Refusal :=
  perform s do
    let d ← dev
    if !d.pfOk then return
    let st := d.fld R.SEC_FW_STATUS_STATE
    if d.sec.busy ∨ st = 1 ∨ st = 2 ∨ st = 5 then fwErr
    else
      wr R.SEC_FW_STATUS_STATE 1
      wr R.SEC_FW_STATUS_REASON 0
      emit (.hostRead 0 (d.fld R.SEC_FW_ADDR) (d.fld R.SEC_FW_LEN))

/-- The reason a fetched image is refused (R444, R445); 0 when it is not. DESIGN CHOICE, log 33. -/
def Dev.fwReason (d : Dev) (data : Option (List Byte)) : Nat :=
  match d.pfFetched data with
  | none => 1
  | some bs =>
    if 33554432 < bs.length ∨ !Config.fwFormat bs then 2
    else if !Config.rsaVerify (Config.romKey 0) bs bs then 3
    else if !Config.slhVerify (Config.romKey 1) bs bs then 4
    else if Config.fwVersion bs < d.sec.minVersion then 5
    else 0

/-- FW_STAGE_DONE (R445): the verified image is in the inactive flash bank. DESIGN CHOICE, log 33. -/
def execFwStageDone (core : Bool) (data : Option (List Byte)) (s : State) : Host.Outcome State Fault Refusal :=
  perform s do
    let d ← dev
    let st := d.fld R.SEC_FW_STATUS_STATE
    if st ≠ 1 ∧ st ≠ 2 then return
    let why := d.fwReason data
    wr R.SEC_FW_STATUS_REASON why
    wr R.SEC_FW_STATUS_STATE (if why = 0 then 3 else 4)
    match why, data with
    | 0, some bs =>
      if core then modSec (fun x => { x with ccStaged := some (sha bs) })
      else modSec (fun x => { x with spStaged := some (sha bs), stagedVersion := Config.fwVersion bs })
      emit (.flash "inactive bank" bs)
      showPending
    | _, _ => pure ()
    fwEvent

/-- ACTIVATE (R445). DESIGN CHOICE, log 33. -/
def execActivate (s : State) : Host.Outcome State Fault Refusal :=
  perform s do
    let d ← dev
    if !d.pfOk then return
    if d.fld R.SEC_FW_STATUS_STATE ≠ 3 ∨ d.sec.spStaged.isNone ∨ d.sec.busy ∨ (List.range 12).any (fun b => d.bayState b == 2) then fwErr
    else
      wr R.SEC_FW_STATUS_STATE 5
      spDown

/-- FW_DISCARD (R444). DESIGN CHOICE, log 33. -/
def execFwDiscard (s : State) : Host.Outcome State Fault Refusal :=
  perform s do
    let d ← dev
    if !d.pfOk then return
    let st := d.fld R.SEC_FW_STATUS_STATE
    if d.sec.busy ∨ st = 1 ∨ st = 2 ∨ st = 5 then fwErr
    else
      modSec (fun x => { x with spStaged := none, ccStaged := none })
      wr R.SEC_FW_STATUS_STATE 0
      wr R.SEC_FW_STATUS_REASON 0
      showPending
      fwEvent

/-- SECURITY_PROCESSOR_RESTARTED (R419, R445): the new or the previous firmware serves requests. Identity keys are
unwrapped unless TAMPER_N has wiped them since the last cold reset (R414). -/
def execSecurityProcessorRestarted (ok : Bool) (s : State) : Host.Outcome State Fault Refusal :=
  perform s do
    let d ← dev
    if !d.sec.busy || d.ctl.tripped then return
    if d.fld R.SEC_FW_STATUS_STATE = 5 then
      if ok then
        modSec (fun x => { x with spFw := x.spStaged.getD x.spFw, spVersion := x.stagedVersion, spStaged := none })
        wr R.SEC_FW_STATUS_STATE (if d.sec.ccStaged.isSome then 3 else 0)
      else
        modSec (fun x => { x with spStaged := none })
        wr R.SEC_FW_STATUS_STATE 4
        wr R.SEC_FW_STATUS_REASON 6
      showPending
      fwEvent
    else pure ()
    modSec (fun x => { x with busy := false, idKeys := x.idMade && x.idWrap && !d.on R.SEC_STATUS_TAMPER })
    wr R.SEC_STATUS_SP_READY 1
    wr (R.DEV_STATUS.sub 3 1) 1
    wr ((R.DEV_CORE_STATE 14).sub 0 2) 1

/-! ### Debug and JTAG (R420, R421, R503) -/

/-- A debug request is refused: both status registers say so. -/
def debugRefused : M d0 Unit := do
  modCtl (fun c => { c with jtagRefused := true })
  pfEvent R.SEC_EVENTS R.SEC_IRQ 3 3

/-- TRACE or HALT of a target: a bay, or 0xFF for the device cores. DESIGN CHOICE, log 29. -/
def debugReq (halt : Bool) (target : Nat) : M d0 Unit := do
  let d ← dev
  if d.ctl.tripped then return
  let p := d.fld R.CRP_PSTATE_STATUS_STATE
  if target ≠ 0xFF ∧ 12 ≤ target then wr (R.SEC_DEBUG_STATUS.sub 0 2) 3
  else
    let t := min target 12
    let o := if p = 2 ∧ bit d.parked t then 3 else debugOutcome (d.fld R.SEC_STATUS_LIFECYCLE) (d.targetConf t) halt (p == 3)
    wr (R.SEC_DEBUG_STATUS.sub 0 2) o
    if o = 1 then
      modSec (fun x => { x with
        grants := x.grants + 1
        traceOn := if halt then x.traceOn else Nat.lor x.traceOn (2 ^ t)
        haltOn := if halt then Nat.lor x.haltOn (2 ^ t) else x.haltOn })
      wr (R.SEC_DEBUG_STATUS.sub (16 + t) 1) 1
      modCtl (fun c => { c with jtagRefused := false })
      if halt then
        each (if t < 12 then [t] else [12, 13]) (fun c =>
          if d.fld ((R.DEV_CORE_STATE c).sub 0 2) = 1 then wr ((R.DEV_CORE_STATE c).sub 0 2) 2 else pure ())
      else pure ()
    else if o = 2 then debugRefused
    else pure ()

/-- TRACE (R420). -/
def execTrace (target : Nat) (s : State) : Host.Outcome State Fault Refusal := perform s (debugReq false target)

/-- HALT (R420). -/
def execHalt (target : Nat) (s : State) : Host.Outcome State Fault Refusal := perform s (debugReq true target)

/-- SEC_DEBUG_END (R421, R444). -/
def execSecDebugEnd (value : Nat) (s : State) : Host.Outcome State Fault Refusal :=
  perform s do
    if (← dev).pfOk && bit value 0 then endGrants 0x1FFF else pure ()

/-- SCAN (R420): a grant wipes the tack room and releases every ENABLED yard; no yard traffic until a cold reset. -/
def execScan (s : State) : Host.Outcome State Fault Refusal :=
  perform s do
    let d ← dev
    if d.ctl.tripped then return
    let o := scanOutcome (d.fld R.SEC_STATUS_LIFECYCLE)
    wr (R.SEC_DEBUG_STATUS.sub 0 2) o
    if o = 1 then
      wipe
      each d.yardList releaseYard
      modSec (fun x => { x with scanOn := true, grants := x.grants + 1 })
      modCtl (fun c => { c with jtagRefused := false })
      emit (.tdo "scan chains" 0)
    else debugRefused

/-- IDCODE (R503): always available. -/
def execIdcode (s : State) : Host.Outcome State Fault Refusal := perform s (emit (.tdo "IDCODE" 0x100485CF))

/-- BYPASS (R503): always available. -/
def execBypass (s : State) : Host.Outcome State Fault Refusal := perform s (emit (.tdo "BYPASS" 0))

/-- A boundary-scan instruction: accepted only while no yard function is ENABLED. -/
def boundary (name : String) : M d0 Unit := do
  let d ← dev
  if d.yardList.any (fun y => d.fnState y == 2) then modCtl (fun c => { c with jtagRefused := true })
  else
    modCtl (fun c => { c with jtagRefused := false })
    emit (.tdo name 0)

/-- SAMPLE_PRELOAD (R503). -/
def execSamplePreload (s : State) : Host.Outcome State Fault Refusal := perform s (boundary "SAMPLE/PRELOAD")

/-- EXTEST (R503). -/
def execExtest (s : State) : Host.Outcome State Fault Refusal := perform s (boundary "EXTEST")

/-- EXTEST_PULSE (R503). -/
def execExtestPulse (s : State) : Host.Outcome State Fault Refusal := perform s (boundary "EXTEST_PULSE")

/-- EXTEST_TRAIN (R503). -/
def execExtestTrain (s : State) : Host.Outcome State Fault Refusal := perform s (boundary "EXTEST_TRAIN")

/-! ### The seal service (R438 to R440) -/

/-- The key of a seal object. -/
def sealKey (k : KeySet) (key gen : Nat) : List Byte :=
  yardKey k (key == 1) (if key = 1 then labelMigr else labelSeal) 0 0 gen

/-- GEN and CTR for the next object of a yard under KEY; none when they are exhausted (R432). -/
def takeSealNonce (y key : Nat) : M d0 (Option (Nat × Nat)) := do
  let d ← dev
  if !d.keyed y then return none
  let r := d.yard y
  let g := r.sealGen.getD key 0
  let c := r.sealCtr.getD key 0
  if c + 1 < 2 ^ 64 then act (.yard y { r with sealCtr := r.sealCtr.set key (c + 1) })
  else if g + 1 < 2 ^ 16 then act (.yard y { r with sealCtr := r.sealCtr.set key 0, sealGen := r.sealGen.set key (g + 1) })
  else wr ((R.YRD_KEY_STATE y).sub 1 1) 1
  return some (g, c)

/-- The header of an object of `len` plaintext bytes, its IV at 0x08 (R439). -/
def sealHeader (addr key gen ctr len : Nat) : List Byte :=
  leBytes 4 0x4C535647 ++ [1] ++ leBytes 1 key ++ leBytes 2 gen ++ beBytes 2 addr ++ zeros 2 ++ beBytes 8 ctr ++ zeros 4 ++ leBytes 8 len

/-- An object: the header, then ciphertext and tag with the header as additional data. -/
def sealObjectBytes (k : KeySet) (addr key gen ctr : Nat) (plain : List Byte) : List Byte :=
  let h := sealHeader addr key gen ctr plain.length
  h ++ fitBytes (plain.length + 16) (Config.gcmSeal (sealKey k key gen) (slice h 8 12) h plain)

/-- The plaintext of an object, once its header is good and its tag verifies (R438). -/
def openObject (k : KeySet) (key : Nat) (obj : List Byte) : Option (List Byte) :=
  let h := obj.take 32
  if le h 0 4 = 0x4C535647 ∧ le h 4 1 = 1 ∧ le h 5 1 = key ∧ zeroAt h 0x14 4 ∧ obj.length = 48 + le h 0x18 8 then
    Config.gcmOpen (sealKey k key (le h 6 2)) (slice h 8 12) h (obj.drop 32)
  else none

/-- The source or destination that YRD_SEAL_CTX names. -/
def Dev.sealLoc (d : Dev) (y : Nat) (dst : Bool) : Loc :=
  let c := d.fld (R.YRD_SEAL_CTX y)
  let a := d.fld (if dst then R.YRD_SEAL_DST y else R.YRD_SEAL_SRC y)
  if bit c (if dst then 27 else 23) then .seg (bits c 0 20) (bits c (if dst then 24 else 20) 3) a else .host (bits c 0 20) a

/-- Take a seal command: `n` source and `m` destination bytes for a plaintext of LEN bytes; `f` makes the output of the
source. The result and the output wait for SEAL_DONE, and so does a command, `self`, whose source lies in a page that is
still to come. DESIGN CHOICE, log 35. -/
def sealCmd (y : Nat) (self : Bool × Nat) (host : HostSide) (n m : Nat → Nat) (f : KeySet → Nat → List Byte → M d0 (Nat × List Byte)) : M d0 Unit := do
  let d ← dev
  if !(← yfReach y) then return
  let busy := bit (d.fld (R.YRD_SEAL_STATUS y)) 0
  if (d.yard y).fatal || (busy && ((d.yard y).sealJob.isSome || (d.yard y).sealWait.isSome)) then wr ((R.YRD_SEAL_STATUS y).sub 2 1) 1
  else
    wr ((R.YRD_SEAL_STATUS y).sub 0 1) 1
    let stop (r : Nat) (bs : List Byte) : M d0 Unit :=
      modYard y (fun x => { x with sealJob := some { result := r, outLen := bs.length, bytes := bs } })
    let len := bits (d.fld (R.YRD_SEAL_LEN y)) 0 36
    if d.frozen y then stop cYardFrozen []
    else match (d.yard y).keys with
      | none => stop cResourceRefused []
      | some k =>
        if len = 0 ∨ 2 ^ 36 - 32 < len then stop cLocalLength []
        else if !d.locOk y (d.sealLoc y false) (n len) || !d.locOk y (d.sealLoc y true) (m len) then stop cLocalProtection []
        else match ← getLoc y y (d.sealLoc y false) 0 (n len) .seal host with
          | .wait => modYard y (fun x => { x with sealWait := some (self.1, self.2, host) })
          | .err c => stop c []
          | .ok bs =>
            let r ← f k len bs
            stop r.1 r.2

/-- SEAL_OBJECT (R439). DESIGN CHOICE, log 35. -/
def sealObjectDo (y key : Nat) (host : HostSide) : M d0 Unit :=
  sealCmd y (false, key) host (fun n => n) (fun n => n + 48) (fun k _ bs => do
    match ← takeSealNonce y key with
    | none => return (cAuthFailed, [])
    | some (g, c) => return (cOk, sealObjectBytes k ((← dev).addrOf y) key g c bs))

@[inherit_doc sealObjectDo] def execSealObject (y key : Nat) (host : HostSide) (s : State) : Host.Outcome State Fault Refusal :=
  perform s (coreTake y (.sealObject y key host) (some ((R.YRD_SEAL_STATUS y).sub 0 1, (R.YRD_SEAL_STATUS y).sub 2 1)) (sealObjectDo y key host))

/-- UNSEAL (R438, R439): nothing is written unless the tag verifies. DESIGN CHOICE, log 35. -/
def unsealDo (y key : Nat) (host : HostSide) : M d0 Unit :=
  sealCmd y (true, key) host (fun n => n + 48) (fun n => n) (fun k len bs =>
    if le bs 0 4 = 0x4C535647 ∧ le bs 0x18 8 ≠ len then pure (cLocalLength, [])
    else match openObject k key bs with
      | none => pure (cAuthFailed, [])
      | some plain => pure (cOk, plain))

@[inherit_doc unsealDo] def execUnseal (y key : Nat) (host : HostSide) (s : State) : Host.Outcome State Fault Refusal :=
  perform s (coreTake y (.unseal y key host) (some ((R.YRD_SEAL_STATUS y).sub 0 1, (R.YRD_SEAL_STATUS y).sub 2 1)) (unsealDo y key host))

/-- The output of a seal command is written and the command ends; while the host cannot be written it stays BUSY. -/
def sealFinish (y : Nat) : M d0 Unit := do
  let d ← dev
  match (d.yard y).sealJob with
  | none => return
  | some j =>
    let res ←
      if j.result ≠ 0 then pure (some j.result)
      else match ← putLoc y y 0 0 (d.sealLoc y true) 0 j.bytes .seal HostSide.there with
        | .err c => pure (some c)
        | .wait => pure none
        | .ok _ => pure (some cOk)
    match res with
    | none => return
    | some res =>
      modYard y (fun r => { r with sealJob := none })
      wr (R.YRD_SEAL_OUT_LEN y) (if res = 0 then j.outLen else 0)
      wr ((R.YRD_SEAL_STATUS y).sub 8 8) res
      wr ((R.YRD_SEAL_STATUS y).sub 0 2) 2

/-- SEAL_DONE (R439, R440): a command whose source page has come reads it; then the output is written and the command ends.
DESIGN CHOICE, log 35. -/
def execSealDone (y : Nat) (s : State) : Host.Outcome State Fault Refusal :=
  perform s do
    let d ← dev
    if !d.yfOk y then return
    match (d.yard y).sealWait with
    | none => pure ()
    | some (opens, key, host) =>
      modYard y (fun r => { r with sealWait := none })
      if opens then unsealDo y key { host with xl := .hit } else sealObjectDo y key { host with xl := .hit }
    sealFinish y

end Sys2Proof.Machine
end

