-- ==== Sys2Proof/Machine/Control.lean ====
section
/-! DEFINITION. Mailboxes, the record RAM and its mirror, the BMC's view, error classes, pan failures and spares (15). -/

namespace Sys2Proof.Machine

variable {d0 : Dev}

/-! ### Mailbox channels (R449 to R454) -/

/-- Whether an identity can act: the host and yard functions through their BAR0, cores and the security processor while
they run, the BMC while the control domain has power. DESIGN CHOICE, log 36. -/
def Dev.idActs (d : Dev) (id : Nat) : Bool :=
  if id = 0x01 then d.pfOk
  else if 0x10 ≤ id ∧ id < 0x1C then d.yfOk (id - 0x10)
  else if 0x20 ≤ id ∧ id < 0x2C then !d.ctl.tripped && d.fld ((R.DEV_CORE_STATE (id - 0x20)).sub 0 2) == 1
  else if id = 0x30 ∨ id = 0x31 then !d.ctl.tripped && d.fld ((R.DEV_CORE_STATE (id - 0x30 + 12)).sub 0 2) == 1
  else if id = 0x40 then !d.ctl.tripped && d.on R.SEC_STATUS_SP_READY
  else id == 0x50 && !d.ctl.tripped && d.fld R.CRP_PSTATE_STATUS_STATE != 3

/-- Channel `c`. -/
def Dev.chan (d : Dev) (c : Nat) : Chan := d.ctl.chans.getD c { ab := MsgBlk.reset, ba := MsgBlk.reset }

/-- Which end of channel `c` an identity is: true for A; none when the channel is not bound to it. -/
def Dev.endOf (d : Dev) (id c : Nat) : Option Bool :=
  let b := d.fld (R.MBX_BIND c)
  if 16 ≤ c ∨ id = 0 then none else if bits b 0 8 = id then some true else if bits b 8 8 = id then some false else none

/-- The block an end sends, and the block it receives. -/
def Dev.txBlk (d : Dev) (c : Nat) (isA : Bool) : MsgBlk := if isA then (d.chan c).ab else (d.chan c).ba
def Dev.rxBlk (d : Dev) (c : Nat) (isA : Bool) : MsgBlk := if isA then (d.chan c).ba else (d.chan c).ab

/-- Change the block that end `isA` of channel `c` sends. -/
def modTx (c : Nat) (isA : Bool) (f : MsgBlk → MsgBlk) : M d0 Unit := do
  let h := (← dev).chan c
  let h' : Chan := if isA then { h with ab := f h.ab } else { h with ba := f h.ba }
  modCtl (fun x => { x with chans := x.chans.set c h' })

/-- The lowest set bit of a 32-bit word. -/
def lowestBit (v : Nat) : Nat := ((List.range 32).find? (fun i => bit v i)).getD 0

/-- The interrupt of an identity (R454). -/
def bellIrq (id : Nat) : M d0 Unit := do
  let d ← dev
  let vec := Tab.num d.ctl.vec id
  if id = 0x01 then irqFn 0 vec
  else if 0x10 ≤ id ∧ id < 0x1C then irqYard (id - 0x10) vec
  else if id = 0x50 then emit (.ibi (lowestBit (Nat.land (Tab.num d.ctl.bell id) (Tab.num d.ctl.unmask id))))
  else emit (.bell id)

/-- Set bell bit `k` of an identity; it interrupts while its mask bit is 0. -/
def raiseBell (id k : Nat) : M d0 Unit := do
  modCtl (fun x => { x with bell := Tab.setNum x.bell id (Nat.lor (Tab.num x.bell id) (2 ^ k)) })
  if bit (Tab.num (← dev).ctl.unmask id) k then bellIrq id else pure ()

/-- Raise the bell of one end of a channel. -/
def ringEnd (c : Nat) (isA : Bool) : M d0 Unit := do
  let b ← rd (R.MBX_BIND c)
  if isA then raiseBell (bits b 0 8) (bits b 16 5) else raiseBell (bits b 8 8) (bits b 24 5)

/-- A GO (R453). -/
def sendMsg (id c len : Nat) : M d0 Unit := do
  let d ← dev
  match d.endOf id c with
  | none => pure ()
  | some a =>
    if (d.txBlk c a).go ∨ len < 8 ∨ 16 < len then modTx c a (fun b => { b with err := true })
    else
      modTx c a (fun b => { b with len := len, go := true })
      ringEnd c (!a)

/-- Put a reply into the block that identity `id` sends on channel `c`, and send it. -/
def putReply (id c : Nat) (a : Bool) (words : List Nat) : M d0 Unit := do
  modTx c a (fun b => { b with data := (words ++ List.replicate 16 0).take 16 })
  sendMsg id c (max 8 (min 16 words.length))

/-- A TAKE (R453); a reply of the other end that has waited for it leaves (R455). -/
def takeMsg (id c : Nat) : M d0 Unit := do
  let d ← dev
  match d.endOf id c with
  | none => pure ()
  | some a =>
    if (d.rxBlk c a).go then
      modTx c (!a) (fun b => { b with go := false })
      ringEnd c (!a)
      let far := bits (d.fld (R.MBX_BIND c)) (if a then 8 else 0) 8
      match d.ctl.replies.find? (fun e => e.1 == far && e.2.1 == c) with
      | none => pure ()
      | some e =>
        modCtl (fun x => { x with replies := x.replies.erase e })
        putReply far c (!a) e.2.2
    else pure ()

/-- A write of the mask bits (R454). -/
def maskBells (id value : Nat) : M d0 Unit := do
  let x := (← dev).ctl
  let old := Tab.num x.unmask id
  let new := 2 ^ 32 - 1 - value % 2 ^ 32
  let opened := (List.range 32).any (fun i => bit new i && !bit old i && bit (Tab.num x.bell id) i)
  modCtl (fun x => { x with unmask := Tab.setNum x.unmask id new })
  if opened then bellIrq id else pure ()

/-- GO (R453). -/
def execGo (id c len : Nat) (s : State) : Host.Outcome State Fault Refusal :=
  perform s do
    if (← dev).idActs id then sendMsg id c len else pure ()

/-- TAKE (R453). -/
def execTake (id c : Nat) (s : State) : Host.Outcome State Fault Refusal :=
  perform s do
    if (← dev).idActs id then takeMsg id c else pure ()

/-- MBX_BELL_MASK (R454). -/
def execMbxBellMask (id value : Nat) (s : State) : Host.Outcome State Fault Refusal :=
  perform s do
    if (← dev).idActs id then maskBells id value else pure ()

/-- Whether offset `off` of the mailbox view of identity `id` holds a word (R452, R471, R473): of a channel only where it is
bound to that end. -/
def Dev.mbxThere (d : Dev) (id off : Nat) : Bool :=
  let r := off % 0x100
  if off < 0x1000 then (d.endOf id (off / 0x100)).isSome && (decide (r < 0x44) || (decide (0x80 ≤ r) && decide (r < 0xC4)))
  else if off < 0x1040 then (d.endOf id ((off - 0x1000) / 4)).isSome
  else decide (0x1100 ≤ off) && decide (off < 0x110C)

/-- The bits of a word of the mailbox view that are write only or reserved (R7, R8, R471). -/
def mbxOpen (id off : Nat) : Nat :=
  let r := off % 0x100
  if off < 0x1000 then (if r = 0x40 then 0xFFFFFCE0 else if r = 0xC0 then 0xFFFFFEE0 else 0)
  else if off < 0x1040 then 0xE0E00000
  else if off = 0x1108 then (if 0x10 ≤ id ∧ id < 0x1C then 0xFFFFF800 else 0xFFFFFFC0)
  else 0

/-- The number a 32-bit word of an end's mailbox view holds, in the layout of R471; of a binding, an end sees its own
channels' (R473). -/
def Dev.mbxRead (d : Dev) (id off : Nat) : Nat :=
  if off < 0x1000 then
    let c := off / 0x100
    let r := off % 0x100
    match d.endOf id c with
    | none => 0
    | some a =>
      if r < 0x40 then (d.txBlk c a).data.getD (r / 4) 0
      else if r = 0x40 then (d.txBlk c a).len + 2 ^ 8 * b2n (d.txBlk c a).go + 2 ^ 9 * b2n (d.txBlk c a).err
      else if 0x80 ≤ r ∧ r < 0xC0 then (d.rxBlk c a).data.getD ((r - 0x80) / 4) 0
      else if r = 0xC0 then (d.rxBlk c a).len + 2 ^ 8 * b2n (d.rxBlk c a).go
      else 0
  else if off < 0x1040 then (if (d.endOf id ((off - 0x1000) / 4)).isSome then d.fld (R.MBX_BIND ((off - 0x1000) / 4)) else 0)
  else if off = 0x1100 then Tab.num d.ctl.bell id
  else if off = 0x1104 then 2 ^ 32 - 1 - Tab.num d.ctl.unmask id % 2 ^ 32
  else if off = 0x1108 then Tab.num d.ctl.vec id
  else 0

/-- What a 32-bit read of an end's mailbox view gives: free values in its write-only and reserved bits (R7, R8), 0 where there
is no word (R9). DESIGN CHOICE, log 9. -/
def mbxLook (id off : Nat) : M d0 Nat := do
  let d ← dev
  if !d.mbxThere id off then return 0
  let k := d.mbxRead id off
  if mbxOpen id off = 0 then return k
  let v ← fresh
  return k - Nat.land k (mbxOpen id off) + Nat.land v (mbxOpen id off)

/-- A 32-bit write to an end's mailbox view, in the layout of R471. -/
def mbxWrite (id off value : Nat) : M d0 Unit := do
  let d ← dev
  if off < 0x1000 then
    let c := off / 0x100
    let r := off % 0x100
    match d.endOf id c with
    | none => pure ()
    | some a =>
      if r < 0x40 then
        if (d.txBlk c a).go then modTx c a (fun b => { b with err := true })
        else modTx c a (fun b => { b with data := b.data.set (r / 4) (value % 2 ^ 32) })
      else if r = 0x40 then
        if bit value 9 then modTx c a (fun b => { b with err := false }) else pure ()
        if bit value 8 then sendMsg id c (bits value 0 5)
        else if (d.txBlk c a).go then pure ()
        else modTx c a (fun b => { b with len := bits value 0 5 })
      else if r = 0xC0 ∧ bit value 9 then takeMsg id c
      else pure ()
  else if off = 0x1100 then
    modCtl (fun x => { x with
      bell := Tab.setNum x.bell id ((List.range 32).foldl (fun n i => n + 2 ^ i * b2n (bit (Tab.num x.bell id) i && !bit value i)) 0) })
  else if off = 0x1104 then maskBells id value
  else if off = 0x1108 then modCtl (fun x => { x with vec := Tab.setNum x.vec id (bits value 0 (if 0x10 ≤ id ∧ id < 0x1C then 11 else 6)) })
  else pure ()

/-! ### Answers of the cores (R455) -/

/-- The request that waits for identity `id` on channel `c`, when it can be answered: its end, D0 and the block. -/
def Dev.request (d : Dev) (id c : Nat) : Option (Bool × Nat × MsgBlk) :=
  match d.endOf id c with
  | none => none
  | some a =>
    let b := d.rxBlk c a
    if d.idActs id && decide (0x20 ≤ id) && id != 0x50 && b.go then some (a, b.data.getD 0 0, b) else none

/-- Take the request and send the reply: D0 with STATUS and REPLY, then the given words. While the previous reply has not been
taken the new one waits for it (R455). DESIGN CHOICE, log 36. -/
def reply (id c : Nat) (a : Bool) (d0' status : Nat) (words : List Nat) : M d0 Unit := do
  takeMsg id c
  let head := bits d0' 0 16 + 2 ^ 16 * status + 2 ^ 24
  if ((← dev).txBlk c a).go then modCtl (fun x => { x with replies := x.replies ++ [(id, c, head :: words)] })
  else putReply id c a (head :: words)

/-- PING (R455): D1 to D15 come back unchanged. A CMD that is none of the three receives STATUS 1; one whose reserved bits
are not 0, STATUS 2. DESIGN CHOICE, log 36. -/
def execPing (id c : Nat) (s : State) : Host.Outcome State Fault Refusal :=
  perform s do
    match (← dev).request id c with
    | none => return
    | some (a, w, b) =>
      let cmd := bits w 0 8
      if bits w 25 7 ≠ 0 then reply id c a w 2 []
      else if cmd = 1 then reply id c a w 0 (b.data.drop 1)
      else if cmd = 2 ∨ cmd = 3 then pure ()
      else reply id c a w 1 []

/-- GET_INFO (R455). -/
def execGetInfo (id c : Nat) (s : State) : Host.Outcome State Fault Refusal :=
  perform s do
    let d ← dev
    match d.request id c with
    | none => return
    | some (a, w, _) =>
      if bits w 25 7 ≠ 0 ∨ bits w 0 8 ≠ 2 then return
      let fw := if id = 0x40 then d.sec.spFw else d.sec.ccFw
      reply id c a w 0 [id, Config.fwInfo 0 fw % 2 ^ 32, (if id = 0x40 then d.sec.spVersion else Config.fwInfo 1 fw) % 2 ^ 32]

/-- The newest error record. -/
def Dev.newestErr (d : Dev) : Nat := if d.on R.DEV_ERRLOG_HEAD then d.fld (R.DEV_ERRLOG ((d.fld R.DEV_ERRLOG_HEAD + 63) % 64)) else 0

/-- GET_ERR (R455). -/
def execGetErr (id c : Nat) (s : State) : Host.Outcome State Fault Refusal :=
  perform s do
    let d ← dev
    match d.request id c with
    | none => return
    | some (a, w, _) =>
      if bits w 25 7 ≠ 0 ∨ bits w 0 8 ≠ 3 then return
      reply id c a w 0 ((List.range 4).map (fun i => bits d.newestErr (32 * i) 32) ++ [d.fld R.DEV_ERRLOG_HEAD])

/-! ### The record RAM (R457 to R460) -/

/-- An access to a word by a port collides while the other port's write occupies it; both ports are warned (R458, R459).
DESIGN CHOICE, log 36. -/
def ramTouch (o : Nat) (portB : Bool) : M d0 Unit := do
  let d ← dev
  if d.ctl.recBusy.contains (o, !portB) then
    if portB then
      modCtl (fun c => { c with recB := Nat.lor c.recB 3 })
      wr (R.REC_STATUS.sub 1 1) 1
      emit (.pin "REC_BUSY_N" false)
    else
      modCtl (fun c => { c with recB := Nat.lor c.recB 2 })
      wr (R.REC_STATUS.sub 0 2) 3
      irqPf (R.REC_IRQ.sub 0 1) (R.REC_IRQ.sub 16 6)
  else pure ()

/-- A read of a word by a port: undefined data when it collides with a write by the other port (R458). -/
def ramRead (o : Nat) (portB : Bool) : M d0 Nat := do
  let d ← dev
  ramTouch o portB
  if d.ctl.recBusy.contains (o, !portB) then return (← fresh) % 2 ^ 32 else return Tab.num d.ctl.ram o % 2 ^ 32

/-- Put a word; it is occupied until the next tick. -/
def ramPut (o v : Nat) (portB : Bool) : M d0 Unit :=
  modCtl (fun c => { c with ram := Tab.setNum c.ram o (v % 2 ^ 32), recBusy := (o, portB) :: c.recBusy.filter (fun e => e != (o, portB)) })

/-- A write by the physical function (port A) or the BMC (port B): ignored in the mirror area (R457). -/
def ramWrite (o v : Nat) (portB : Bool) : M d0 Unit := do
  if o % 4 ≠ 0 ∨ 0x10000 ≤ o then return
  ramTouch o portB
  if o < 0xF000 then ramPut o v portB else pure ()

/-- The mirror beside MIR_SEQ (R460): offset and word. -/
def Dev.mirror (d : Dev) : List (Nat × Nat) :=
  let wide (o n v : Nat) : List (Nat × Nat) := (List.range n).map (fun i => (o + 4 * i, bits v (32 * i) 32))
  [(0xF004, 1)] ++ wide 0xF008 2 (d.fld R.LAY_SEQ) ++ wide 0xF010 1 (d.fld R.LAY_CURRENT) ++ wide 0xF014 1 (d.fld R.LAY_BAY_STATE) ++
    wide 0xF018 3 ((List.range 12).foldl (fun n b => n + 2 ^ (8 * b) * (if d.isYard b then d.fnState b else 0)) 0) ++
    wide 0xF024 1 (d.fld R.DEV_STATUS) ++ wide 0xF028 1 (d.fld R.SEC_STATUS) ++ wide 0xF030 2 (d.fld R.DEV_PAN_FAILED) ++
    wide 0xF038 1 (d.fld R.DEV_SPARE_USE) ++ (List.range 12).map (fun b => (0xF040 + 4 * b, d.fld (R.SEC_RAKE_GEN b))) ++
    wide 0xF070 1 (d.fld R.DEV_ERRLOG_HEAD) ++ wide 0xF080 4 d.newestErr

/-- MIRROR_UPDATE (R460): MIR_SEQ odd, the fields that have changed, MIR_SEQ even. Device core 0 must run.
DESIGN CHOICE, log 36. -/
def execMirrorUpdate (s : State) : Host.Outcome State Fault Refusal :=
  perform s do
    let d ← dev
    if !d.idActs 0x30 then return
    let ws := d.mirror.filter (fun e => Tab.num d.ctl.ram e.1 != e.2)
    if ws.isEmpty then return
    each ws (fun e => ramPut e.1 e.2 false)
    ramPut 0xF000 (Tab.num d.ctl.ram 0xF000 + 2) false

/-! ### The BMC's register target (R461, R501) -/

/-- I3C_PRIVATE_WRITE (R461). -/
def execI3cPrivateWrite (off value : Nat) (s : State) : Host.Outcome State Fault Refusal :=
  perform s do
    let d ← dev
    let up := d.idActs 0x50
    modCtl (fun c => { c with i3cOff := off })
    if off < 0x10000 then (if up then ramWrite off value true else pure ())
    else if off = 0x10000 then
      if up then
        let v := (List.range 2).foldl (fun n i => n + 2 ^ i * b2n (bit d.ctl.recB i && !bit value i)) 0
        modCtl (fun c => { c with recB := v })
        if bit d.ctl.recB 0 && !bit v 0 then emit (.pin "REC_BUSY_N" true) else pure ()
      else pure ()
    else if 0x20000 ≤ off ∧ off < 0x21200 then (if up ∧ off % 4 = 0 then mbxWrite 0x50 (off - 0x20000) value else pure ())
    else if off = 0x30000 then bmcPower value
    else if off = 0x30004 ∧ value = 0x57525354 then warmReset 3
    else pure ()

/-- A private read of one word of the register target (R461): it goes on from the last offset written. Offsets not listed
read 0; what is not powered in P3 gives a free value; the write-only registers give free values (R7). The operation a read
performs; the table has no row for one. DESIGN CHOICE, log 36. -/
def i3cRead : M d0 Nat := do
  let d ← dev
  let off := d.ctl.i3cOff
  modCtl (fun c => { c with i3cOff := off + 4 })
  if off < 0x30000 ∧ !d.idActs 0x50 then return (← fresh) % 2 ^ 32
  else if off % 4 ≠ 0 then return 0
  else if off < 0x10000 then ramRead off true
  else if off = 0x10000 then return d.ctl.recB % 4 + 4 * ((← fresh) % 2 ^ 30)
  else if 0x20000 ≤ off ∧ off < 0x21200 then mbxLook 0x50 (off - 0x20000)
  else if off = 0x30000 ∨ off = 0x30004 then return (← fresh) % 2 ^ 32
  else if off = 0x30008 then
    let v ← fresh
    return d.fld R.CRP_PSTATE_STATUS - Nat.land (d.fld R.CRP_PSTATE_STATUS) 0xF000FFF0 + Nat.land v 0xF000FFF0
  else return 0

/-- SETDASA (R501). -/
def execSetdasa (static dynamic : Nat) (s : State) : Host.Outcome State Fault Refusal :=
  perform s do
    let d ← dev
    if static = 0x30 + d.ctl.straps ∨ static = 0x38 + d.ctl.straps then
      modCtl (fun c => { c with i3cDyn := Tab.put c.i3cDyn static dynamic })
      emit (.i3cAck static dynamic)
    else pure ()

/-! ### Error classes (R448, R462 to R465) -/

/-- A device-fatal error (R464). -/
def deviceFatal (src detail : Nat) : M d0 Unit := do
  let d ← dev
  wr (R.DEV_STATUS.sub 0 1) 1
  modCtl (fun c => { c with aerUie := true })
  if d.ctl.hostUp then emit .errFatal else pure ()
  logErr 4 src 0xFF cInternal detail
  each d.yardList (fun y => yardFatal y src detail)
  if src = 3 then
    modSec (fun x => { x with sessions := [], spdm := [] })
    wr R.SEC_STATUS_SP_READY 0
    wr (R.DEV_STATUS.sub 3 1) 0
    wr ((R.DEV_CORE_STATE 14).sub 0 2) 3
  else pure ()
  pfEvent R.DEV_EVENTS R.DEV_IRQ 4 0

/-- CORE_WATCHDOG_EXPIRY (R448). DEDUCED, log 37. -/
def execCoreWatchdogExpiry (c : Nat) (s : State) : Host.Outcome State Fault Refusal :=
  perform s do
    let d ← dev
    if 14 ≤ c ∨ d.ctl.tripped ∨ d.fld ((R.DEV_CORE_STATE c).sub 0 2) ≠ 1 then return
    bumpSat ((R.DEV_CORE_STATE c).sub 16 16)
    setCore c 3
    logErr 5 (if c < 12 then 1 else 2) (if c < 12 then c else 0xFF) cInternal c
    if c < 12 then
      match d.yardOf c with
      | some y => yardFatal y 1 c
      | none => pure ()
    else deviceFatal 2 c

/-- DEVICE_FATAL (R464). -/
def execDeviceFatal (source : Nat) (s : State) : Host.Outcome State Fault Refusal :=
  perform s do
    if (← dev).ctl.tripped then pure () else deviceFatal source 0

/-! ### Pan failure and spares (R466 to R469) -/

/-- PAN_CHECK_FAIL (R466): a beat of logical pan 4 b + k is discarded, its physical pan is marked failed, and every context
of the pan waits at its last committed beat. DEDUCED, log 37. -/
def execPanCheckFail (b k : Nat) (s : State) : Host.Outcome State Fault Refusal :=
  perform s do
    let d ← dev
    let i := 4 * b + k
    match d.yardOf b with
    | none => return
    | some y =>
      if !d.live y || !d.panWorks i || (d.pan i).choose.isNone then return
      orBits R.DEV_PAN_FAILED (2 ^ d.panPhys i)
      emit (.flash "failed pans" (leBytes 8 (Nat.lor (d.fld R.DEV_PAN_FAILED) (2 ^ d.panPhys i))))

/-- Show the physical pan of logical pan `i` in its yard. -/
def showPhys (i : Nat) : M d0 Unit := do
  let d ← dev
  match d.yardOf (i / 4) with
  | none => pure ()
  | some y =>
    let p := d.panPhys i
    wr (R.PAN_LP_STATE_PHYS y (i - 4 * y)) p
    wr (R.PAN_LP_STATE_ON_SPARE y (i - 4 * y)) (b2n (decide (48 ≤ p) && decide (p < 52)))

/-- Move the run of context `(i, x)` of a LOST pan to a free context of another pan of its step, where it waits to fetch its
next beat's operands again; false when there is none. -/
def moveRun (y i x : Nat) : M d0 Bool := do
  let d ← dev
  let c := d.ctx i x
  match d.activeStep y c.thread with
  | none => return true
  | some (p, st, _) =>
    match (d.slots y p st).find? (fun e => (d.ctx e.1 e.2).st == .free) with
    | none => return false
    | some e =>
      modCtx e.1 e.2 (fun z => { c with f := z.f, st := .wait, ahead := none })
      freeCtx i x
      return true

/-- SPARE_SUBSTITUTION (R467, R468): the spare of the triad takes over, or the pan is LOST and its runs move.
DEDUCED, log 37. -/
def execSpareSubstitution (b k : Nat) (s : State) : Host.Outcome State Fault Refusal :=
  perform s do
    let d ← dev
    let i := 4 * b + k
    let phys := d.panPhys i
    let t := b / 3
    if phys = 0xFF || d.panWorks i || !d.idActs 0x31 || 12 ≤ b || 4 ≤ k then return
    let free := !bit (d.fld R.DEV_SPARE_USE) (8 * t + 7) && !bit (d.fld R.DEV_PAN_FAILED) (48 + t)
    let map : Fld := (R.DEV_PAN_MAP (i / 4)).sub (8 * (i % 4)) 8
    if free then
      wr map (48 + t)
      wr (R.DEV_SPARE_USE.sub (8 * t) 8) (0x80 + i)
      showPhys i
      bump R.DEV_PAN_SUBS 1
      logErr 1 0 b 0 (48 + t + 2 ^ 8 * i)
      pfEvent R.DEV_EVENTS R.DEV_IRQ 1 1
    else
      wr map 0xFF
      showPhys i
      logErr 2 0 b cInternal (phys + 2 ^ 8 * i)
      pfEvent R.DEV_EVENTS R.DEV_IRQ 2 1
      match d.yardOf b with
      | none => pure ()
      | some y =>
        each (List.range 8) (fun x => do
          if ((← dev).ctx i x).spec.isSome then
            let ok ← moveRun y i x
            if ok then pure () else yardFatal y 0 (phys + 2 ^ 8 * i)
          else pure ())

end Sys2Proof.Machine
end

