-- ==== Sys2Proof/Machine/EthRx.lean ====
section
/-! DEFINITION. Reception of Ethernet frames (13: R392 to R397, R408). -/

namespace Sys2Proof.Machine

variable {d0 : Dev}

/-- The requested receive Tw in ns of an EEE TLV in an LLDP frame, whose TLVs start at byte 14 (clause 79 of IEEE 802.3:
type 127, OUI 00-12-0F, subtype 5, transmit Tw and receive Tw in µs). PRESUMED, log 57. -/
def eeeTlv : Nat → List Byte → Option Nat
  | 0, _ => none
  | fuel + 1, bs =>
    let h := be bs 0 2
    let len := h % 512
    if h = 0 ∨ bs.length < 2 then none
    else if h / 512 = 127 ∧ be bs 2 4 = 0x00120F05 then some (1000 * be bs 8 2)
    else eeeTlv fuel (bs.drop (2 + len))

/-! ### Reception (R392 to R397, R408) -/

/-- The yard that owns a valid local address, an IPv4 one in the low 32 bits (R409). PRESUMED, log 57. -/
def Dev.localYard (d : Dev) (ip : Nat) (ip6 : Bool) : Option Nat :=
  let w := if ip6 then 2 ^ 128 else 2 ^ 32
  d.yardList.find? (fun y => (List.range 16).any (fun i =>
    let c := d.fld (R.ETH_LADDR_CTRL y i)
    bit c 0 && bit c 1 == ip6 && d.fld (R.ETH_LADDR y i) % w == ip % w))

/-- Write a frame into the management receive ring, or drop it when the ring is full or stopped (R408). -/
def mgmtRx (u cls flags : Nat) (f : EthFrame) : M d0 Unit := do
  let d ← dev
  let cfg := d.fld R.ETH_MGMT_RING_CFG
  let log := bits cfg 0 5
  let slot := 2 ^ bits cfg 8 4
  let head := d.fld R.ETH_MGMT_RX_HEAD
  if !d.eth.rxOn || (head + 2 ^ 32 - d.fld R.ETH_MGMT_RX_TAIL) % 2 ^ 32 == 2 ^ log then
    bump (R.ETH_CLS_DROPS 0 7) 1
    pfEvent R.ETH_EVENTS R.ETH_IRQ 1 1
  else
    let body := f.bytes.take (slot - 32)
    let fl := if body.length < f.bytes.length then Nat.lor flags 8 else flags
    pfWr (d.fld R.ETH_MGMT_RX_ADDR + head % 2 ^ log * slot)
      (leBytes 2 body.length ++ leBytes 1 fl ++ leBytes 1 u ++ leBytes 1 cls ++ zeros 3 ++ leBytes 8 (d.fld R.ETH_TIME) ++
        leBytes 4 f.len ++ zeros 12 ++ body)
    bump R.ETH_MGMT_RX_HEAD 1
    pfEvent R.ETH_EVENTS R.ETH_IRQ 2 2

/-- Bytes held by (port, bay, class), and by the port. -/
def Dev.rxHeld (d : Dev) (p b c : Nat) : Nat :=
  (d.eth.rx.filter (fun r => r.port == p && r.bay == b && r.cls == c)).foldl (fun n r => n + r.len) 0
def Dev.rxPort (d : Dev) (p : Nat) : Nat := (d.eth.rx.filter (fun r => r.port == p)).foldl (fun n r => n + r.len) 0

/-- Whether a frame meets tail drop (R397); it is then counted. -/
def tailDrop (p b c len : Nat) : M d0 Bool := do
  let d ← dev
  if 1024 * d.fld (R.ETH_CLS_RXLIM b c) < d.rxHeld p b c + len ∨ 25165824 < d.rxPort p + len then
    bump (R.ETH_CLS_DROPS b c) 1
    pfEvent R.ETH_EVENTS R.ETH_IRQ 1 1
    return true
  else return false

/-- The answer to an ARP request or a neighbour solicitation, from the receiving subport's MAC address (R395, row 3).
PRESUMED, log 57. -/
def neighbourAnswer (mac : List Byte) (f : EthFrame) : List Byte :=
  if f.ndSolicit then Config.standardResponse 4861 136 (mac ++ f.bytes)
  else
    let sha' := slice f.bytes 22 6
    let spa := slice f.bytes 28 4
    let tpa := slice f.bytes 38 4
    sha' ++ mac ++ beBytes 2 0x0806 ++ slice f.bytes 14 6 ++ beBytes 2 2 ++ mac ++ tpa ++ sha' ++ spa ++ zeros 18

/-! ### What the transport takes of a frame at once (R249, R261, R287, R396) -/

/-- Byte `i` and on of the UDP payload of an IP frame. -/
def udpAt (f : EthFrame) (i n : Nat) : Nat :=
  be f.bytes ((if f.ip6 then 62 else 22 + 4 * bits (be f.bytes 14 1) 0 4) + i) n

/-- The source address of an IP frame. -/
def srcIpOf (f : EthFrame) : Nat := if f.ip6 then be f.bytes 22 16 else be f.bytes 26 4

/-- The connection a frame names: DST_CONN of the base header, or the destination queue pair of a RoCEv2 frame. -/
def connNoOf (f : EthFrame) (roce : Bool) : Nat := if roce then udpAt f 5 3 else udpAt f 4 4 % 2 ^ 24

/-- The bay whose buffer a frame for a connection of yard `y` takes. DESIGN CHOICE, log 48. -/
def Dev.rxBay (d : Dev) (y n : Nat) : Nat := if (d.baysOf y).contains (connBay y n) then connBay y n else y

/-- The header of a RoCEv2 request frame as the transport judges it (R288). -/
def roceHdr (f : EthFrame) (n : Nat) : WrtHdr :=
  { conn := n, inc := 0, psn := udpAt f 9 3, src := 0, ackreq := bit (udpAt f 8 1) 7, first := true, last := true, solicit := false,
    ts := 0, ce := (if f.ip6 then be f.bytes 14 2 / 16 else be f.bytes 15 1) % 4 == 3, tagOk := f.icrcOk, ip := srcIpOf f }

/-- What needs no command of its own: a truncated frame fails its tag or ICRC (R396), a packet with a reserved opcode is
counted (R261), a CNP of the connection's peer is one mark (R287), a send with invalidate is refused, and a RoCEv2 opcode
outside the subset is discarded (R288). True when the frame has been consumed. PRESUMED, log 53. -/
def rxOwn (y n : Nat) (roce trunc : Bool) (f : EthFrame) : M d0 Bool := do
  let d ← dev
  let c := d.conn y n
  if !roce then
    if trunc then
      bump (R.TRN_AUTH_FAIL y) 1
      return true
    else if !wrtOpcode (udpAt f 1 1) then
      bump (R.TRN_SRC_DISCARD y) 1
      return true
    else return false
  else if trunc || !f.icrcOk then return true
  else
    let opc := udpAt f 0 1
    if opc = 0x81 then
      if c.roce ∧ (c.st = 2 ∨ c.st = 3) ∧ srcIpOf f = c.peerIp then
        bump (R.TRN_ECN_MARKS y) 1
        modConn y n (fun c => d.ccAck y c none 1)
      else pure ()
      return true
    else if opc = 0x16 ∨ opc = 0x17 then
      if c.roce then
        match ← classify y (roceHdr f n) with
        | .new => nakPkt y n (udpAt f 9 3) 1 0x61
        | .behind => behindPkt y n
        | .drop => pure ()
      else pure ()
      return true
    else return decide (0x15 ≤ opc) || opc == 0x12

/-- ETH_FRAME_RECEIVED (R392 to R397): the first row of R395 that applies takes the frame. -/
def execEthFrameReceived (u : Nat) (f : EthFrame) (s : State) : Host.Outcome State Fault Refusal :=
  perform s do
    let d ← dev
    if !d.subOk u || d.fld (R.ETH_SUB_STATE_LINK u) != 2 then return
    bump (R.ETH_RX_FRAMES u) 1
    let maxf := d.fld R.ETH_MAX_FRAME
    let trunc := decide (maxf < f.len)
    let len := min f.len maxf
    let f := if trunc then { f with bytes := f.bytes.take maxf } else f
    let cls := if f.isIp then bits (d.fld (R.ETH_DSCP_MAP (f.dscp / 8))) (4 * (f.dscp % 8)) 3 else 7
    let mac := d.fld (R.ETH_SUB_MAC u) % 2 ^ 48
    let noMatch : M s.dev Unit := bump (R.ETH_RX_NOMATCH u) 1
    let f := { f with runt := f.runt || decide (f.len < 64) }
    let flags := b2n f.bad + 2 * b2n f.runt + 4 * b2n f.codeErr + 8 * b2n trunc
    let row7 := (f.isIp && !f.ip6 && f.dstIp == d.fld R.ETH_MGMT_IP && f.dstIp != 0) || f.etherType == 0x88F7 || f.dstMac == mac
    let macOk := f.dstMac == mac || f.dstMac == 0xFFFFFFFFFFFF || f.dstMac == 0x0180C200000E || f.dstMac / 2 ^ 32 == 0x3333
    let toMgmt : M s.dev Unit := do
      if ← tailDrop (u / 4) 0 cls len then pure () else mgmtRx u cls flags f
    if f.bad || f.runt || f.codeErr then
      bump (R.ETH_RX_BAD u) 1
      if cls != 7 && bit (d.fld R.ETH_CLASS_KIND) cls && bit (d.fld R.ETH_RX_CTRL) 0 then
        if row7 && macOk then
          if trunc then bump (R.ETH_RX_TRUNC u) 1 else pure ()
          toMgmt
        else noMatch
      else pure ()
      return
    if f.etherType = 0x8808 then
      bump (R.ETH_RX_PAUSE u) 1
      return
    if !macOk then
      noMatch
      return
    if trunc then bump (R.ETH_RX_TRUNC u) 1 else pure ()
    if f.etherType = 0x88CC then
      match eeeTlv 64 (f.bytes.drop 14) with
      | some tw =>
        wr (R.ETH_SUB_STATE_EEE_PEER u) 1
        modSub u (fun p => { p with peerTw := tw })
        resolveTw u
      | none => pure ()
      if bit (d.fld R.ETH_RX_CTRL) 1 then toMgmt else pure ()
      return
    let yard := d.localYard f.dstIp f.ip6
    match yard with
    | some y =>
      if (f.etherType == 0x0806 && be f.bytes 20 2 == 1 || f.ndSolicit) && d.bayState y != 2 then
        ethSend u { bay := y, cls := 7, len := if f.ndSolicit then 90 else 64, bytes := neighbourAnswer (beBytes 6 mac) f, weight := 0, slot := none, stamp := false }
        return
      else pure ()
      if f.isIp then
        if d.bayState y = 1 ∧ (f.udpPort = d.fld (R.TRN_UDP_PORT y) ∨ f.udpPort = 4791) then
          let roce := f.udpPort != d.fld (R.TRN_UDP_PORT y)
          let conn := connNoOf f roce
          let b := d.rxBay y conn
          if ← tailDrop (u / 4) b cls len then pure ()
          else if ← rxOwn y conn roce trunc f then pure ()
          else
            let e := (← dev).eth
            setEth { e with rx := e.rx ++ [{ port := u / 4, bay := b, cls := cls, len := len, yard := some y, conn := conn }] }
        else noMatch
      else if row7 && !(f.etherType == 0x0806 || f.ndSolicit) then toMgmt else noMatch
    | none => if row7 then toMgmt else noMatch

end Sys2Proof.Machine
end

