-- ==== Sys2Proof/Machine/SaveForm.lean ====
section
/-! DEFINITION. What a save blob carries of a yard beside its memory (16: R487), and the internal encoding of FORMAT 1,
which the spec leaves to the W48: two constants with no body. -/

namespace Sys2Proof.Machine

/-- Sections 2 to 10 of a blob as data: settings and counters by offset, the yard's record, and its table entries by
number. Addresses in it are yard addresses, bays and pans are counted from the yard's first. DESIGN CHOICE, log 21. -/
structure Saved where
  regs : List (Nat × Nat)
  yard : Yard
  pans : List Pan
  comms : List (Nat × Comm)
  conns : List (Nat × Conn)
  rings : List (Nat × Ring)
  lists : List (Nat × MatchList)
  ctxs : List (Nat × AddrCtx)
  wins : List (Nat × Win)
  lcqs : List (Nat × LCq)
deriving DecidableEq, Repr

end Sys2Proof.Machine

namespace Sys2Proof.Config

/-- Section `type` (2 to 10) of a blob in the internal encoding of FORMAT 1 (R487), uninterpreted.
DESIGN CHOICE, log 21. -/
opaque saveSection : (type : Nat) → Machine.Saved → List Byte

/-- What a W48 that accepts FORMAT 1 reads from sections 2 to 10, uninterpreted. DESIGN CHOICE, log 21. -/
opaque readSections : List (List Byte) → Option Machine.Saved

end Sys2Proof.Config
end

