-- ==== Sys2Proof/Machine/Freeze.lean ====
section
/-! DEFINITION. Freeze and resume, the save blob and the restore (16: R484 to R490, R494, R495). -/

namespace Sys2Proof.Machine

variable {d0 : Dev}

/-! ### Freeze (R484, R485, R494) -/

/-- A freeze command is ignored (R495). -/
def frzErr (y : Nat) : M d0 Unit := wr (R.YRD_FRZ_STATUS_CMD_ERR y) 1

/-- A freeze command ends. -/
def frzDone (y code : Nat) : M d0 Unit := do
  wr (R.YRD_FRZ_STATUS_RESULT y) code
  wr (R.YRD_FRZ_STATUS_DONE y) 1
  let d ← dev
  if bit (d.fld (R.YRD_FRZ_IRQ y)) 1 then irqYard y (d.fld ((R.YRD_FRZ_IRQ y).sub 16 11)) else pure ()

/-- The freeze takes effect: the yard is FROZEN with its sequencer. -/
def freezeNow (y : Nat) : M d0 Unit := do
  let d ← dev
  match (d.yard y).frz with
  | none => pure ()
  | some f =>
    modYard y (fun r => { r with frz := some { f with prior := d.plnState y } })
    wr (R.YRD_FRZ_STATUS_STATE y) 2
    wr (R.YRD_FRZ_STATUS_SAVED y) 0
    wr (R.YRD_STATE_FROZEN y) 1
    wr (R.PLN_STATUS_STATE y) 6
    frzDone y cOk
    if f.byOp then pfEvent R.CRP_EVENTS R.CRP_IRQ 2 2 else pure ()

/-- The aborts of a freeze at once (R151, R152, R484): a member sends them and is STOPPED; a coordinator sends its verdict
and keeps it, as a frozen yard keeps every verdict. DEDUCED, log 23. -/
def freezeAborts (y : Nat) : M d0 Unit := do
  let n := ((((← dev).yard y).plan).map (fun p => p.comms.length)).getD 0
  each (List.range n) (fun c => do
    let d ← dev
    match d.decl y c with
    | none => pure ()
    | some k =>
      if k.n < 2 ∨ d.commSt y c = 4 ∨ d.commSt y c = 5 ∨ !d.undecided y c then pure ()
      else if k.pos = 0 then
        let v : CtlHdr := { d.ctlHdr y c with code := cCollAbortPeer, originValid := true, cause := cYardFrozen, verdict := 2 }
        stopLap y c
        sendBoth y c 4 v
        modComm y c (fun x => { x with kept := some v })
      else originateAbort y c cCollAbortPeer cYardFrozen)

/-- FREEZE of a present yard: with no iteration under way it takes effect at once in either mode. DEDUCED, log 23. -/
def freezeYard (y mode : Nat) (byOp : Bool) : M d0 Unit := do
  let d ← dev
  if d.fld (R.YRD_FRZ_STATUS_STATE y) ≠ 0 then frzErr y
  else
    modYard y (fun r => { r with frz := some { prior := d.plnState y, mode := mode, byOp := byOp, stream := [] } })
    if mode = 1 then
      freezeAborts y
      freezeNow y
    else if d.plnState y = 3 ∨ d.plnState y = 4 then wr (R.YRD_FRZ_STATUS_STATE y) 1
    else freezeNow y

/-- FREEZE (R484). -/
def execFreeze (y mode : Nat) (s : State) : Host.Outcome State Fault Refusal :=
  perform s do
    if ← yfReach y then freezeYard y (mode % 2) false else pure ()

/-- CRP_FREEZE_REQ (R484, R494): the named yards, confidential ones too. -/
def execCrpFreezeReq (value : Nat) (s : State) : Host.Outcome State Fault Refusal :=
  perform s do
    let d ← dev
    if d.pfOk then each (d.yardList.filter (fun y => bit value y && d.yfOk y)) (fun y => freezeYard y (bits value 12 1) true)
    else pure ()

/-- FREEZE_TAKES_EFFECT (R484): at a step boundary, when no step is active and no op is open. -/
def execFreezeTakesEffect (y : Nat) (s : State) : Host.Outcome State Fault Refusal :=
  perform s do
    let d ← dev
    let r := d.yard y
    if !d.live y ∨ d.fld (R.YRD_FRZ_STATUS_STATE y) ≠ 1 then return
    let busy := r.thrs.any (fun h => h.active.isSome) ||
      (!r.failed && (List.range r.thrs.length).any (fun t => (r.plan.map (fun p => d.opOpen y t p)).getD false))
    if busy then return
    freezeNow y

/-! ### Resume (R486) -/

/-- RESUME (R486): kept verdicts are applied, rings with a pending doorbell are scanned, the sequencer goes on.
DEDUCED, log 23. -/
def execResume (y : Nat) (s : State) : Host.Outcome State Fault Refusal :=
  perform s do
    let d ← dev
    if !(← yfReach y) then return
    match d.fld (R.YRD_FRZ_STATUS_STATE y), (d.yard y).frz with
    | 2, some f =>
      modYard y (fun r => { r with frz := none })
      wr (R.YRD_FRZ_STATUS_STATE y) 0
      wr (R.YRD_FRZ_STATUS_SAVED y) 0
      wr (R.YRD_STATE_FROZEN y) 0
      wr (R.PLN_STATUS_STATE y) f.prior
      let n := (((d.yard y).plan).map (fun p => p.comms.length)).getD 0
      together y (each (List.range n) (fun c => do
        match (← dev).comm y c with
        | none => pure ()
        | some x => match x.kept with
          | none => pure ()
          | some h => applyVerdict y c (h.verdict == 1) h.code h.origin h.originValid h.cause x.keptByHost))
      each (ofYard (← dev).rings y) (fun e => rescan y e.1)
      sendReadys y
      each (List.range n) (fun c => do
        landRetry y c
        flushNotes y c)
      each (List.range (d.yard y).thrs.length) (fun t => lapKick y t)
      pumpRuns y
      showDrovers y
      frzDone y cOk
    | _, _ => frzErr y

/-! ### The save blob (R487, R488) -/

/-- Registers of a yard function that a blob carries whole, as ranges of offsets: the step counter and what the sequencer
counts, seeds, PLN_MEASURE, PLN_THREAD, events, the communicators, landing buffers open and EPOCH, free match slots,
windows open and closing, the first plan connection. -/
def savedWhole : List (Nat × Nat) :=
  [(0x10030, 0x10048), (0x10080, 0x100C0), (0x100C0, 0x100F0), (0x10100, 0x10160), (0x10200, 0x10400), (0x30058, 0x30060),
   (0x40018, 0x4001C), (0x4003C, 0x40040), (0x48000, 0x4E000), (0x4F008, 0x4F00C), (0x50058, 0x50060)]

/-- What a blob carries of the register at offset `off` that holds `v`: all of it, its settings, or nothing (the set and
freeze registers are no settings). -/
def savedPart (off v : Nat) : Nat :=
  if savedWhole.any (fun e => decide (e.1 ≤ off) && decide (off < e.2)) then v
  else if 0x200 ≤ off ∧ off < 0x330 then 0
  else match rowAt yfTable off with
    | none => 0
    | some r => fieldBits r (fun a => a == .rw) v

/-- The state of a frozen yard as sections 2 to 10 carry it: no key is in it (R411, R435). DESIGN CHOICE, log 21. -/
def Dev.saved (d : Dev) (y : Nat) : Saved :=
  let mine := Tab.keep d.regs (fun k _ => decide (yb y ≤ k) && decide (k < yb (y + 1)))
  { regs := (mine.map (fun e => (e.1 - yb y, savedPart (e.1 - yb y) e.2))).filter (fun e => e.2 != 0)
    yard := { d.yard y with keys := none, xts := none }
    pans := (List.range (4 * (d.baysOf y).length)).map (fun j => d.pan (panIx y j))
    comms := ofYard d.comms y
    conns := ofYard d.conns y
    rings := ofYard d.rings y
    lists := ofYard d.lists y
    ctxs := ofYard d.ctxs y
    wins := ofYard d.wins y
    lcqs := ofYard d.lcqs y }

/-- A section of the stream. -/
def blobSection (type : Nat) (bytes : List Byte) : List Byte := leBytes 4 type ++ zeros 4 ++ leBytes 8 bytes.length ++ bytes

/-- KEY_SET_ID of the held key set. -/
def Yard.keySetId (r : Yard) : List Byte := fitBytes 8 ((r.keys.map (fun k => k.id)).getD [])

/-- The manifest (R488). -/
def Dev.manifest (d : Dev) (y mode : Nat) : List Byte :=
  let n := (d.baysOf y).length
  leBytes 4 1 ++ leBytes 1 n ++ leBytes 1 y ++ leBytes 1 (b2n (d.conf y)) ++ leBytes 1 mode ++
    leBytes 8 (d.fld (R.PLN_STEP_COUNT y)) ++
    (List.range 12).flatMap (fun i => leBytes 2 (if i < n then d.addrOf (y + i) else 0xFFFF)) ++ (d.yard y).keySetId ++
    (List.range 3).flatMap (fun t => leBytes 8 (rangeBytes (d.heldRanges y t))) ++
    leBytes 8 ((d.heldRanges y 2).foldl (fun m r => max m r.2) 0) ++ d.words (R.PLN_MEASURE y) 12

/-- The memory section of a tier: runs of yard address, length and bytes; none when a byte cannot be read. -/
def memSection (y tier : Nat) : M d0 (Option (List Byte)) := do
  let d ← dev
  let rs ← gather (d.heldRanges y tier) (fun r => do
    match ← readMem y tier r.1 (r.2 - r.1) with
    | none => return none
    | some bs => return some (leBytes 8 r.1 ++ leBytes 8 (r.2 - r.1) ++ bs))
  if rs.all (fun r => r.isSome) then return some (rs.flatMap (fun r => r.getD []))
  return none

/-- SAVE (R487): the stream of a frozen yard, and the parts it takes. DESIGN CHOICE, log 22. -/
def execSave (y : Nat) (s : State) : Host.Outcome State Fault Refusal :=
  perform s do
    let d ← dev
    if !(← yfReach y) then return
    match d.fld (R.YRD_FRZ_STATUS_STATE y), (d.yard y).frz, (d.yard y).keys with
    | 2, some f, some _ =>
      wr (R.YRD_FRZ_BLOB_ID y) (Config.drbg d.sec.drbgIx)
      modSec (fun x => { x with drbgIx := x.drbgIx + 1 })
      match ← memSection y 0, ← memSection y 1, ← memSection y 2 with
      | some m0, some m1, some m2 =>
        let v := d.saved y
        let stream := blobSection 1 (d.manifest y f.mode) ++
          (List.range 9).flatMap (fun i => blobSection (i + 2) (Config.saveSection (i + 2) v)) ++
          blobSection 11 m0 ++ blobSection 12 m1 ++ blobSection 13 m2
        modYard y (fun r => { r with frz := some { f with stream := stream } })
        wr (R.YRD_FRZ_PARTS y) (max 1 (ceilDiv stream.length (2 ^ d.fld (R.YRD_FRZ_PART_LOG y))))
        wr (R.YRD_FRZ_DONE y) 0
        wr (R.YRD_FRZ_STATUS_STATE y) 3
      | _, _, _ => frzDone y cMemUncorrectable
    | _, _, _ => frzErr y

/-- The host slot of part `k` (R489). -/
def Dev.frzSlot (d : Dev) (y k : Nat) : Nat := d.fld (R.YRD_FRZ_BUF y) + k % 2 * (2 ^ d.fld (R.YRD_FRZ_PART_LOG y) + 4096)

/-- Part `k` has been written or applied. -/
def partDone (y k : Nat) : M d0 Unit := do
  wr (R.YRD_FRZ_DONE y) (k + 1)
  let d ← dev
  if bit (d.fld (R.YRD_FRZ_IRQ y)) 0 then irqYard y (d.fld ((R.YRD_FRZ_IRQ y).sub 16 11)) else pure ()

/-- Whether part work of yard `y` can go on: its function is up and its parts can pass. -/
def Dev.partsMove (d : Dev) (y : Nat) : Bool := d.canMaster y && !d.ctl.warm && !d.ctl.tripped && !(d.yard y).resetting

/-- SAVE_PART (R487, R489): one part sealed with KEY 1 into its slot. DESIGN CHOICE, log 22. -/
def execSavePart (y : Nat) (s : State) : Host.Outcome State Fault Refusal :=
  perform s do
    let d ← dev
    match d.fld (R.YRD_FRZ_STATUS_STATE y), (d.yard y).frz, (d.yard y).keys with
    | 3, some f, some ks =>
      let k := d.fld (R.YRD_FRZ_DONE y)
      let parts := d.fld (R.YRD_FRZ_PARTS y)
      let size := 2 ^ d.fld (R.YRD_FRZ_PART_LOG y)
      if !d.partsMove y ∨ parts ≤ k ∨ d.fld (R.YRD_FRZ_ACK y) + 2 ≤ k then return
      match ← takeSealNonce y 1 with
      | none =>
        wr (R.YRD_FRZ_STATUS_STATE y) 2
        frzDone y cAuthFailed
      | some (gen, ctr) =>
        let content := slice f.stream (k * size) size
        let plain := leBytes 8 (d.fld (R.YRD_FRZ_BLOB_ID y)) ++ leBytes 4 k ++ leBytes 4 parts ++ (d.yard y).keySetId ++
          leBytes 8 (k * size) ++ leBytes 8 content.length ++ zeros 24 ++ content
        hostWr y (bits (d.fld (R.YRD_FRZ_CTX y)) 0 20) (d.frzSlot y k) (sealObjectBytes ks (d.addrOf y) 1 gen ctr plain)
        partDone y k
        if k + 1 = parts then
          modYard y (fun r => { r with frz := some { f with stream := [] } })
          wr (R.YRD_FRZ_STATUS_STATE y) 2
          wr (R.YRD_FRZ_STATUS_SAVED y) 1
          frzDone y cOk
        else pure ()
    | _, _, _ => return

/-- YRD_FRZ_ACK (R489). -/
def execYrdFrzAck (y value : Nat) (s : State) : Host.Outcome State Fault Refusal :=
  perform s do
    if ← yfReach y then wr (R.YRD_FRZ_ACK y) value else pure ()

/-! ### The restore (R490) -/

/-- RESTORE (R490). -/
def execRestore (y : Nat) (s : State) : Host.Outcome State Fault Refusal :=
  perform s do
    let d ← dev
    if !(← yfReach y) then return
    match d.fld (R.YRD_FRZ_STATUS_STATE y), (d.yard y).frz with
    | 2, some f =>
      if (d.yard y).keys.isSome && f.prior == 0 && (ofYard d.conns y).all (fun e => e.2.st == 0) && d.ctxCount y == 0 then
        modYard y (fun r => { r with frz := some { f with stream := [] } })
        wr (R.YRD_FRZ_DONE y) 0
        wr (R.YRD_FRZ_STATUS_STATE y) 4
      else frzDone y cResourceRefused
    | _, _ => frzErr y

/-- A restore fails: what the yard holds is unspecified. DESIGN CHOICE, log 22. -/
def restoreFail (y code : Nat) : M d0 Unit := do
  let d ← dev
  each (List.range 3) (fun t => act (.spoil (d.addr y t 0) (d.capacity y t)))
  wr (R.YRD_FRZ_STATUS_STATE y) 5
  frzDone y code

/-- What the manifest of part 0 must agree with (R490); `m` is its content. -/
def Dev.manifestCode (d : Dev) (y : Nat) (m : List Byte) : Nat :=
  let b := m.drop 16
  let n := (d.baysOf y).length
  if le m 0 4 ≠ 1 ∨ le m 8 8 ≠ 128 ∨ le b 0 4 ≠ 1 ∨ le b 4 1 ≠ n ∨ le b 6 1 ≠ b2n (d.conf y) ∨
      (List.range 12).any (fun i => le b (0x10 + 2 * i) 2 != (if i < n then d.addrOf (y + i) else 0xFFFF)) then cResourceRefused
  else if d.capacity y 2 < le b 0x48 8 then cResourceRefused
  else cOk

/-- Judge part `k` in the order of R490; `p` is the plaintext of its object when the tag verifies. -/
def Dev.partCode (d : Dev) (y k : Nat) (p : Option (List Byte)) : Nat :=
  match p with
  | none => cAuthFailed
  | some h =>
    if le h 8 4 ≠ k ∨ (k ≠ 0 ∧ (le h 0 8 ≠ d.fld (R.YRD_FRZ_BLOB_ID y) ∨ le h 12 4 ≠ d.fld (R.YRD_FRZ_PARTS y))) then cAuthFailed
    else if k = 0 ∧ slice h 0x10 8 ≠ (d.yard y).keySetId then cAuthFailed
    else if k = 0 then d.manifestCode y (h.drop 64)
    else cOk

/-- The sections of a stream: type and bytes. DESIGN CHOICE, log 21. -/
def blobSections (fuel : Nat) (bs : List Byte) : List (Nat × List Byte) :=
  match fuel with
  | 0 => []
  | n + 1 => if bs.length < 16 then [] else (le bs 0 4, slice bs 16 (le bs 8 8)) :: blobSections n (bs.drop (16 + le bs 8 8))

/-- The bytes of section `type`. -/
def sectionOf (ss : List (Nat × List Byte)) (type : Nat) : List Byte := ((ss.find? (fun e => e.1 == type)).map (fun e => e.2)).getD []

/-- The memory runs of a section: yard address and bytes. -/
def blobRuns (fuel : Nat) (bs : List Byte) : List (Nat × List Byte) :=
  match fuel with
  | 0 => []
  | n + 1 => if bs.length < 16 then [] else (le bs 0 8, slice bs 16 (le bs 8 8)) :: blobRuns n (bs.drop (16 + le bs 8 8))

/-- The yard's record after a restore: the saved one with what belongs to the target, every GEN raised by 1 and every CTR
0 (R434). -/
def mergeYard (now old : Yard) : Yard :=
  { old with
    keys := now.keys, xts := now.xts, tdi := now.tdi, rakeFar := now.rakeFar, drained := now.drained
    touchSeq := now.touchSeq, inval := now.inval, fatal := now.fatal, resetting := now.resetting
    faults := [], badPages := [], store := [], sealJob := none, sealWait := none, kat := none, cvt := none, setSnap := none, queue := [], loadSnap := none
    fabGen := old.fabGen.map (fun g => g + 1), fabCtr := old.fabCtr.map (fun _ => 0), genAdd := old.genAdd + 1
    sealGen := old.sealGen.map (fun g => g + 1), sealCtr := old.sealCtr.map (fun _ => 0)
    frz := now.frz.map (fun f => { f with prior := (old.frz.map (fun g => g.prior)).getD 0, stream := [] }) }

/-- Whether raising a GEN has left it no value (R432). DESIGN CHOICE, log 22. -/
def genSpent (r : Yard) (cs : List (Nat × Conn)) : Bool :=
  r.fabGen.any (fun g => decide (256 ≤ g)) || r.sealGen.any (fun g => decide (2 ^ 16 ≤ g)) ||
    decide (2 ^ 16 ≤ r.genAdd) || cs.any (fun e => decide (2 ^ 16 ≤ e.2.gen + r.genAdd))

/-- Apply what a blob carries to yard `y`: its memory where the blob has bytes and zero elsewhere, and every state of
sections 2 to 10. DESIGN CHOICE, log 21. -/
def applySaved (y : Nat) (v : Saved) (ss : List (Nat × List Byte)) : M d0 Unit := do
  let d ← dev
  each (List.range 3) (fun t => do
    act (.clear (d.addr y t 0) (d.capacity y t))
    let bs := sectionOf ss (11 + t)
    each (blobRuns bs.length bs) (fun r => if r.1 + r.2.length ≤ d.capacity y t then act (.poke (d.addr y t r.1) r.2) else pure ()))
  each v.regs (fun e => do
    let k := yb y + e.1
    let now := Tab.num (← dev).regs k
    act (.reg k (now - savedPart e.1 now + savedPart e.1 e.2)))
  wr (R.YRD_STATE_LEGACY y) (bits ((← dev).fld (R.YRD_MODE y)) 0 1)
  let r := mergeYard (d.yard y) v.yard
  act (.yard y r)
  each (List.range (4 * (d.baysOf y).length)) (fun j => do
    act (.pan (panIx y j) (let p := v.pans.getD j Pan.reset; { p with ctxs := p.ctxs.map (fun c => { c with yard := y }) }))
    showPan (panIx y j))
  dropKeys y d.comms (fun k => .comm k none)
  dropKeys y d.conns (fun k => .conn k none)
  dropKeys y d.rings (fun k => .ring k none)
  dropKeys y d.lists (fun k => .list k none)
  dropKeys y d.wins (fun k => .win k none)
  dropKeys y d.lcqs (fun k => .lcq k none)
  each v.comms (fun e => act (.comm (yk y e.1) (some e.2)))
  each v.conns (fun e => act (.conn (yk y e.1) (some { e.2 with ctr := 0 })))
  each v.rings (fun e => act (.ring (yk y e.1) (some e.2)))
  each v.lists (fun e => act (.list (yk y e.1) (some e.2)))
  each v.ctxs (fun e => act (.ctx (yk y e.1) (some e.2)))
  each v.wins (fun e => act (.win (yk y e.1) (some e.2)))
  each v.lcqs (fun e => act (.lcq (yk y e.1) (some e.2)))
  dropHeld y (fun _ _ => true)
  dropPages y (fun _ => true)
  if genSpent r v.conns then wr ((R.YRD_KEY_STATE y).sub 1 1) 1 else pure ()
  showPools y
  showDrovers y

/-- RESTORE_PART (R489, R490): `object` is what the slot holds. The stream is applied with its last part; until then the
frozen yard shows nothing of it. DESIGN CHOICE, log 22. -/
def execRestorePart (y : Nat) (object : List Byte) (s : State) : Host.Outcome State Fault Refusal :=
  perform s do
    let d ← dev
    match d.fld (R.YRD_FRZ_STATUS_STATE y), (d.yard y).frz, (d.yard y).keys with
    | 4, some f, some ks =>
      let k := d.fld (R.YRD_FRZ_DONE y)
      if !d.partsMove y ∨ d.fld (R.YRD_FRZ_ACK y) ≤ k then return
      emit (.hostVRead (y + 1) (bits (d.fld (R.YRD_FRZ_CTX y)) 0 20) (d.frzSlot y k) (48 + le object 0x18 8))
      let p := openObject ks 1 (object.take (48 + le object 0x18 8))
      let code := d.partCode y k p
      if code ≠ 0 then restoreFail y code
      else
        let h := p.getD []
        let stream := f.stream ++ slice h 64 (le h 0x20 8)
        if k = 0 then
          wr (R.YRD_FRZ_BLOB_ID y) (le h 0 8)
          wr (R.YRD_FRZ_PARTS y) (le h 12 4)
        else pure ()
        if k + 1 < le h 12 4 then
          modYard y (fun r => { r with frz := some { f with stream := stream } })
          partDone y k
        else
          let ss := blobSections 13 stream
          match Config.readSections ((List.range 9).map (fun i => sectionOf ss (i + 2))) with
          | none => restoreFail y cResourceRefused
          | some v =>
            applySaved y v ss
            partDone y k
            wr (R.YRD_FRZ_STATUS_STATE y) 2
            frzDone y cOk
    | _, _, _ => return

end Sys2Proof.Machine
end

