-- ==== Sys2Proof/Machine/Sets.lean ====
section
/-! DEFINITION. Register writes by masters and the setting sets (00: R7 to R13; 02: R46, R49 to R57; the consistency rules
of R115, R246, R289, R323, R354, R387, R390 and R410). -/

namespace Sys2Proof.Machine

variable {d0 : Dev}

/-! ### Which register a master reaches -/

/-- The function whose BAR0 a master's write goes to, while it can act: none for the physical function, a yard otherwise.
Control cores and the security processor share the map of their function; the BMC has its own rows.
DEDUCED, log 11. -/
def Dev.reach (d : Dev) (m : Master) : Option (Option Nat) :=
  match m with
  | .pf => if d.pfOk then some none else none
  | .yard y => if d.yfOk y then some (some y) else none
  | .deviceCore i => if d.pfOk && d.idActs (0x30 + i) then some none else none
  | .security => if d.pfOk && d.idActs 0x40 then some none else none
  | .bayCore b =>
    match d.yardOf b with
    | none => none
    | some y => if d.yfOk y && d.idActs (0x20 + b) then some (some y) else none
  | .bmc => none

/-- A memory request that reaches no register: one to a function that is not present ends as an Unsupported Request
(R292, R295). -/
def missReach (m : Master) : M d0 Unit := do
  match m with
  | .yard y => let _ ← yfReach y
  | _ => pure ()

/-- Key of BAR0 offset `off` of a function. -/
def barKey (f : Option Nat) (off : Nat) : Nat :=
  match f with
  | none => off
  | some y => yb y + off

/-- The register table of a function. DEDUCED, log 11. -/
def barTable (f : Option Nat) : List RRow := if f.isSome then yfTable else pfTable

/-- Whether the register at an offset exists: subport registers follow the committed MODE (R409); those of logical pans,
drovers and loft masters follow the yard's bay count (R87, R244, R353). DEDUCED, log 11. -/
def Dev.regThere (d : Dev) (f : Option Nat) (off : Nat) : Bool :=
  let below (o step n : Nat) : Bool := decide ((off - o) / step < n)
  if f.isSome then
    if 0x10100 ≤ off ∧ off < 0x10160 then below 0x10100 8 d.yardBays
    else if 0x20100 ≤ off ∧ off < 0x20400 then below 0x20100 16 (4 * d.yardBays)
    else if 0x30100 ≤ off ∧ off < 0x30280 then below 0x30100 32 d.yardBays
    else if 0x50800 ≤ off ∧ off < 0x50E00 then below 0x50800 128 d.yardBays
    else if 0x48000 ≤ off ∧ off < 0x4E000 then below 0x48000 32 (((d.yard (f.getD 0)).plan.map (fun p => p.comms.length)).getD 0)
    else true
  else if 0x201000 ≤ off ∧ off < 0x202000 then d.subOk ((off - 0x201000) / 256)
  else if 0x208000 ≤ off ∧ off < 0x20A000 then d.subOk ((off - 0x208000) / 512)
  else true

/-- A ring doorbell as a register: 32 bits, write only, with a row of its own in the command table (R297, R303). -/
def bellRow : RRow := { off := 0x100000, dims := [(0x40, 147456)], w := 32, fields := [⟨0, 32, .wo, 0, 4294967295, false⟩], res := 0 }

/-- Whether `off` is the doorbell of a ring that exists (R297). -/
def Dev.bellThere (d : Dev) (f : Option Nat) (off : Nat) : Bool :=
  match f with
  | none => false
  | some y => decide (0x100000 ≤ off) && (off - 0x100000) % 0x40 == 0 && decide ((off - 0x100000) / 0x80 < d.connCount y)

/-- The register that holds the byte at `off`, and its own offset. -/
def Dev.regAt (d : Dev) (f : Option Nat) (off : Nat) : Option (RRow × Nat) :=
  let o := off - off % 4
  if d.bellThere f o then some (bellRow, o) else [0, 4, 8, 12].findSome? (fun k =>
    if o < k then none
    else match rowAt (barTable f) (o - k) with
      | none => none
      | some r => if 8 * k < r.w ∧ d.regThere f (o - k) then some (r, o - k) else none)

/-- Whether an access of `width` bits at `off` is one that R10 allows of the register `r` at `base`.
DESIGN CHOICE, log 10. -/
def widthOk (r : RRow) (base off width : Nat) : Bool :=
  (width == r.w && off == base) || (decide (width < r.w) && (width == 32 || width == 64) && (off - base) % (width / 8) == 0)

/-- The identity of R449 under which a master reaches its mailbox view (R452): the control cores and the security processor
have internal registers of the same layout. DEDUCED, log 11. -/
def mbxId (m : Master) : Nat :=
  match m with
  | .pf => 0x01
  | .yard y => 0x10 + y
  | .bayCore b => 0x20 + b
  | .deviceCore i => 0x30 + i
  | .security => 0x40
  | .bmc => 0x50

/-- Whether a master reaches the record RAM: port A serves the physical function and device core 0 (R457). -/
def ramPort (m : Master) : Bool := m == .pf || m == .deviceCore 0

/-- Whether an offset of a function lies in the record RAM. -/
def ramArea (f : Option Nat) (off : Nat) : Bool := f.isNone && decide (0x40000 ≤ off) && decide (off < 0x4FF00)

/-- The offset in a mailbox view that an offset of a function names: 0x3_0000 on in that of the physical function, 0x1000 on in
that of a yard (R471, R473). -/
def mbxArea (f : Option Nat) (off : Nat) : Option Nat :=
  match f with
  | none => if 0x30000 ≤ off ∧ off < 0x31200 then some (off - 0x30000) else none
  | some _ => if 0x1000 ≤ off ∧ off < 0x2200 then some (off - 0x1000) else none

/-- Where BAR2 of a function, with its MSI-X table, stands among the offsets of its accesses. DESIGN CHOICE, log 8. -/
def bar2 : Nat := 2 ^ 32

/-- Whether an access to BAR2 is one of a 32-bit word or of two, aligned; another is ignored. DESIGN CHOICE, log 8. -/
def bar2Ok (off width : Nat) : Bool := (width == 32 || width == 64) && off % (width / 8) == 0

/-- The register file and offset an access names, and whether it goes through the operator's mirror of a yard function.
DESIGN CHOICE, log 9. -/
def mirrored (f : Option Nat) (off : Nat) : Option Nat × Nat × Bool :=
  let v := (off - 0x1000000) % 0x400000
  if f.isNone ∧ 0x1000000 ≤ off ∧ off < 0x4000000 ∧ 0x100000 ≤ v ∧ v < 0x170000 then
    (some ((off - 0x1000000) / 0x400000), v - 0x100000, true)
  else (f, off, false)

/-- Whether the mirror of the function of bay `y` acts: bay `y` is the lowest of a yard whose function is ENABLED (R324). -/
def Dev.mirrorActs (d : Dev) (y : Nat) : Bool := d.isYard y && d.fnState y == 2

/-- Whether an access of `width` bits by a master at `off` of a function, seen through the mirror or not, has a width that its
register does not allow (R12). Where the mirror does not act, where a mailbox word is not bound to the master, and in a
mailbox view behind the mirror (R473), there is no register (R9, R324). -/
def Dev.wrongWidth (d : Dev) (m : Master) (f : Option Nat) (off width : Nat) : Bool :=
  let (g, o, mir) := mirrored f off
  let odd := width != 32 || o % 4 != 0
  if mir && !d.mirrorActs (g.getD 0) then false
  else if ramArea g o then ramPort m && odd
  else if (mbxArea g o).isSome then
    !mir && odd && d.mbxThere (mbxId m) ((mbxArea g o).getD 0 - (mbxArea g o).getD 0 % 4)
  else if bar2 ≤ off then false
  else match d.regAt g o with
    | some (r, b) => !widthOk r b o width
    | none => false

/-- Record an access of a wrong width (R12); control cores have no access-error status. -/
def accessErr (m : Master) (off logBytes : Nat) (isRead : Bool) : M d0 Unit := do
  let v := off % 2 ^ 26 + 2 ^ 26 * (logBytes % 8) + 2 ^ 29 * b2n isRead + 2 ^ 31
  match m with
  | .pf =>
    wr R.DEV_ACCESS_ERR v
    pfEvent R.DEV_EVENTS R.DEV_IRQ 3 2
  | .yard y => wr (R.YRD_ACCESS_ERR y) v
  | _ => pure ()

/-- WRONG_WIDTH_ACCESS (R12): an access of `2 ^ logBytes` bytes to a register or word of another width. The operator's
mirror of a yard function holds that function's registers (R324); a doorbell has 32 bits (R303). -/
def execWrongWidthAccess (m : Master) (off logBytes : Nat) (isRead : Bool) (s : State) : Host.Outcome State Fault Refusal :=
  perform s do
    let d ← dev
    match d.reach m with
    | none => missReach m
    | some f =>
      if d.wrongWidth m f off (8 * 2 ^ logBytes) then accessErr m off logBytes isRead else pure ()

/-! ### Setting sets (R49 to R54) -/

/-- One field of a set: register offset, the field, the value asked for. -/
structure SetEnt where
  off : Nat
  f : FRow
  value : Nat
deriving DecidableEq, Repr

/-- FIELD_ID of a field (R49). -/
def fieldId (off lsb : Nat) : Nat := off + 2 ^ 24 * lsb

/-- Whether the RW fields at an offset are settings. -/
def isSetting (f : Option Nat) (off : Nat) : Bool :=
  match f with
  | none => (decide (0x20000 ≤ off) && decide (off < 0x30000)) || (decide (0x100000 ≤ off) && decide (off < 0x500000))
  | some _ => (decide (off < 0x1000) && !(decide (0x200 ≤ off) && decide (off < 0x230)) && !(decide (0x300 ≤ off) && decide (off < 0x330))) ||
      (decide (0x10000 ≤ off) && decide (off < 0x60000))

/-- The value a field takes (R51, R90, R409). ETH_CLS_RATE permits 0 and 100 to 1,600,000. DESIGN CHOICE, log 20. -/
def clampTo (off : Nat) (f : FRow) (v : Nat) : Nat :=
  if f.enum ∧ (v < f.lo ∨ f.hi < v) then 0
  else
    let w := max f.lo (min f.hi v)
    if 0x210000 ≤ off ∧ off < 0x210C00 ∧ off % 16 = 4 ∧ 0 < w ∧ w < 100 then 100 else w

/-- The settable field that a set entry names, with its value; none when the entry is malformed (R50). -/
def Dev.setEnt (d : Dev) (f : Option Nat) (e : List Byte) : Option SetEnt :=
  let off := le e 0 3
  let lsb := bits (le e 3 1) 0 6
  if 64 ≤ le e 3 1 ∨ le e 4 4 ≠ 0 ∨ !isSetting f off ∨ !d.regThere f off then none
  else match rowAt (barTable f) off with
    | none => none
    | some r => (r.fields.find? (fun x => x.lsb == lsb && x.acc == .rw)).map (fun x => { off := off, f := x, value := le e 8 8 })

/-- A field of a register in a register file. -/
def regField (regs : Tab Nat) (key lsb w : Nat) : Nat := bits (Tab.num regs key) lsb w

/-- The register file with the fields of a set written. -/
def withFields (f : Option Nat) (regs : Tab Nat) (es : List SetEnt) : Tab Nat :=
  es.foldl (fun t e => Tab.setNum t (barKey f e.off) (putBits (Tab.num t (barKey f e.off)) e.f.lsb e.f.w e.value)) regs

/-- The first device-scope rule that the state after a set breaks: code and the two FIELD_IDs (R387, R390, R410).
DESIGN CHOICE, log 19. -/
def setRuleDev (d n : Dev) (es : List SetEnt) : Option (Nat × Nat × Nat) :=
  let fab := es.any (fun e => (decide (0x100000 ≤ e.off) && decide (e.off < 0x200000)) || decide (0x400000 ≤ e.off))
  let eth := es.any (fun e => decide (0x200000 ≤ e.off) && decide (e.off < 0x300000))
  let lims (x : Dev) (b : Nat) : Nat := (List.range 8).foldl (fun t c => t + x.fld (R.ETH_CLS_RXLIM b c)) 0
  let subs := (List.range 16).filter n.subOk
  let locals := (List.range 192).filter (fun i => bit (n.fld (R.ETH_LADDR_CTRL (i / 16) (i % 16))) 0)
  let addr (i : Nat) : Nat × Nat :=
    let v6 := bits (n.fld (R.ETH_LADDR_CTRL (i / 16) (i % 16))) 1 1
    (v6, if v6 = 1 then n.fld (R.ETH_LADDR (i / 16) (i % 16)) else bits (n.fld (R.ETH_LADDR (i / 16) (i % 16))) 0 32)
  let laddr (i : Nat) : Nat := 0x220010 + 1024 * (i / 16) + 64 * (i % 16)
  let r1 := if fab ∧ n.fld R.FAB_SLUICE_CTRL_HI ≤ n.fld R.FAB_SLUICE_CTRL_LO then some (0x0C01, fieldId 0x100014 8, fieldId 0x100014 0) else none
  let r2 := if fab && d.on R.TEL_CTRL_EN && n.on R.TEL_CTRL_EN then
      ([(R.TEL_RING_ADDR, fieldId 0x400008 0), (R.TEL_RING_LOG, fieldId 0x400010 0), (R.TEL_CTRL_LOC, fieldId 0x400004 1),
        (R.TEL_CTRL_RING_BAY, fieldId 0x400004 12)].find? (fun e => d.fld e.1 != n.fld e.1)).map (fun e => (0x0C02, e.2, 0x400004))
    else none
  let r3 := if !eth then none else
    ((List.range 12).find? (fun b => decide (2048 < lims n b))).map (fun b =>
      let mine := es.filter (fun e => decide (0x210000 + 256 * b ≤ e.off) && decide (e.off < 0x210100 + 256 * b) && e.off % 16 == 12 &&
        regField d.regs e.off 0 12 != regField n.regs e.off 0 12)
      (0x0D01, 0x21000C + 256 * b, ((mine.getLast?).map (fun e => e.off)).getD (0x21000C + 256 * b)))
  let r4 := if !eth then none else
    ((List.range 12).find? (fun b => n.fld (R.ETH_CLS_RATE b 7) == 0)).map (fun b => (0x0D02, 0x210074 + 256 * b, 0x210078 + 256 * b))
  let r5 := if !eth then none else
    (subs.find? (fun u => bit (n.fld (R.ETH_GCL_CTRL u)) 0 &&
      (List.range (bits (n.fld (R.ETH_GCL_CTRL u)) 1 7)).foldl (fun t e => t + bits (n.fld (R.ETH_GCL u e)) 8 32) 0 != n.fld (R.ETH_GCL_CYCLE u))).map
      (fun u => (0x0D03, 0x201028 + 256 * u, 0x201020 + 256 * u))
  let r6 := if !eth then none else
    locals.findSome? (fun i => (locals.find? (fun j => decide (i < j) && addr i == addr j)).map (fun j => (0x0D04, laddr i, laddr j)))
  [r1, r2, r3, r4, r5, r6].findSome? id

/-- The first yard-scope rule that the state after a set breaks (R115, R246, R289, R323, R354).
DESIGN CHOICE, log 19. -/
def setRuleYard (d n : Dev) (y : Nat) : Option (Nat × Nat × Nat) :=
  let st := d.plnState y
  let run := st == 3 || st == 4
  let seeds := (((d.yard y).plan).map (fun p => p.seedMask)).getD 0
  let conns := ofYard d.conns y
  let pln := 0x10018
  let r1 := if run || st == 6 then
      ((List.range 8).find? (fun k => bit seeds k && d.fld (R.PLN_SEED y k) != n.fld (R.PLN_SEED y k))).map (fun k => (0x0401, 0x10080 + 8 * k, pln))
    else none
  let r2 := if (run || st == 6) && d.fld (R.PLN_STEP_COUNT y) != n.fld (R.PLN_STEP_COUNT y) then some (0x0402, 0x10030, pln) else none
  let r3 := if st != 1 then none
    else if d.fld (R.PLN_IMAGE_ADDR y) ≠ n.fld (R.PLN_IMAGE_ADDR y) then some (0x0403, 0x10008, pln)
    else if d.fld (R.PLN_IMAGE_LEN y) ≠ n.fld (R.PLN_IMAGE_LEN y) then some (0x0403, 0x10010, pln) else none
  let r4 := if run && d.fld (R.DRV_CTRL_REREAD y) != n.fld (R.DRV_CTRL_REREAD y) then some (0x0801, fieldId 0x30008 4, pln) else none
  let r5 := if d.fld (R.TRN_UDP_PORT y) ≠ n.fld (R.TRN_UDP_PORT y) ∧
      conns.any (fun e => (e.2.st == 2 || e.2.st == 3) && (e.2.path == 1 || e.2.path == 2)) then some (0x0901, 0x4001C, 0x40014) else none
  let r6 := if d.fld (R.YRD_MODE y) ≠ n.fld (R.YRD_MODE y) ∧ conns.any (fun e => e.2.st != 0) then some (0x0A01, 0x8, 0x40014) else none
  let r7 := if d.fld (R.XLT_FAULT_MODE y) ≠ n.fld (R.XLT_FAULT_MODE y) ∧ d.fld (R.XLT_FAULT_PENDING y) ≠ 0 then some (0x0B01, 0x5001C, 0x50054) else none
  [r1, r2, r3, r4, r5, r6, r7].findSome? id

/-- The set status registers of a scope. -/
def setRegs (f : Option Nat) : Fld × Fld × Fld × Fld × Fld :=
  match f with
  | none => (R.LAY_SET_STATUS_RESULT, R.LAY_SET_STATUS_CODE, R.LAY_SET_CLAMPS.sub 0 10, R.LAY_SET_RULE, R.LAY_SET_CONFLICT)
  | some y => (R.YRD_SET_STATUS_RESULT y, R.YRD_SET_STATUS_CODE y, (R.YRD_SET_CLAMPS y).sub 0 10, R.YRD_SET_RULE y, R.YRD_SET_CONFLICT y)

/-- The set of a scope that is being fetched. DESIGN CHOICE, log 19. -/
def Dev.setBusy (d : Dev) (f : Option Nat) : Option (Nat × Nat × Nat) :=
  match f with
  | none => d.lay.setSnap
  | some y => (d.yard y).setSnap

/-- Report the result of a set. While a fetched set is in progress RESULT stays busy. -/
def setResult (f : Option Nat) (result code clamps : Nat) (rule : Nat × Nat × Nat) : M d0 Unit := do
  let (r, c, k, u, x) := setRegs f
  if ((← dev).setBusy f).isNone then
    wr r result
    wr c code
  else pure ()
  wr k clamps
  wr u rule.1
  wr x (rule.2.1 + 2 ^ 32 * rule.2.2)

/-- Why a set of a scope is refused by code (R54, R464); 0 when it is not. -/
def Dev.setBar (d : Dev) (f : Option Nat) : Nat :=
  if d.on (R.DEV_STATUS.sub 0 1) then cInternal
  else match f with
    | none => 0
    | some y => if d.bayState y = 2 then cYardRaking else if d.frozen y then cYardFrozen else 0

/-- What follows the application of a device-scope set: EN of the samples (R390), a power-state request (R482), the
management rings (R408). DESIGN CHOICE, log 20. -/
def afterDevSet (d : Dev) (es : List SetEnt) : M d0 Unit := do
  let n ← dev
  if !d.on R.TEL_CTRL_EN && n.on R.TEL_CTRL_EN then
    wr R.TEL_RING_HEAD 0
    wr R.TEL_RING_TAIL 0
    act (.fab n.fab.held n.fab.draining 0)
  else pure ()
  let hit (o : Nat) : Bool := es.any (fun e => e.off == o)
  if hit 0x400004 then showRing else pure ()
  if hit 0x200040 || hit 0x200048 || hit 0x200050 || hit 0x200058 || hit 0x200060 then
    let e := (← dev).eth
    setEth { e with rxOn := e.rxOn || hit 0x200040 || hit 0x200048 || hit 0x200050, txOn := e.txOn || hit 0x200048 || hit 0x200058 || hit 0x200060 }
  else pure ()
  if hit 0x200018 then syncGates else pure ()
  each (List.range 16) (fun u =>
    if hit (R.ETH_LPI_TW_OWN u).key then do
      resolveTw u
      advertise u
    else pure ())
  if hit 0x20018 then powerReq (n.fld (R.CRP_PSTATE_REQ.sub 0 2)) else pure ()

/-- What follows the application of a yard-scope set: the ring mode in force, the drovers' view.
DESIGN CHOICE, log 20. -/
def afterYardSet (y : Nat) : M d0 Unit := do
  wr (R.YRD_STATE_LEGACY y) (bits ((← dev).fld (R.YRD_MODE y)) 0 1)
  showDrovers y

/-- Clamp, report, check and apply a set, whole (R51, R52, R53). -/
def applySet (f : Option Nat) (es : List SetEnt) (report : Nat) (direct : Bool) : M d0 Unit := do
  let d ← dev
  let bar := d.setBar f
  if bar ≠ 0 then setResult f 6 bar 0 (0, 0, 0)
  else
    let done := es.map (fun e => { e with value := clampTo e.off e.f e.value })
    let cut := (List.zip es done).filter (fun e => e.1.value != e.2.value)
    if direct ∧ report = 0 then pure ()
    else
      let bytes := cut.flatMap (fun e => leBytes 4 (fieldId e.1.off e.1.f.lsb) ++ zeros 4 ++ leBytes 8 e.1.value ++ leBytes 8 e.2.value)
      match f with
      | none => pfWr report bytes
      | some y => hostBus y report bytes
    let n : Dev := { d with regs := withFields f d.regs done }
    let bad := match f with
      | none => setRuleDev d n done
      | some y => setRuleYard d n y
    match bad with
    | some r => setResult f 4 0 cut.length r
    | none =>
      each done (fun e => wr { key := barKey f e.off, lsb := e.f.lsb, w := e.f.w } e.value)
      setResult f (if cut.isEmpty then 2 else 3) 0 cut.length (0, 0, 0)
      match f with
      | none => afterDevSet d done
      | some y => afterYardSet y

/-- A direct write's set: at device scope it is applied at once; at yard scope it is the bay core's, which takes it after a
fetched set in progress (R53, R116). DESIGN CHOICE, log 19. -/
def directSet (f : Option Nat) (base v : Nat) (es : List SetEnt) : M d0 Unit := do
  let d ← dev
  match f with
  | none => applySet none es (d.fld R.LAY_SET_REPORT_ADDR) true
  | some y => coreTake y (.directSetWrite (.yard y) base 0 v) none (applySet (some y) es (d.fld (R.YRD_SET_REPORT_ADDR y)) true)

/-- The set that a write of `v` to the register at `base` forms (R53). -/
def directEnts (r : RRow) (base v : Nat) : List SetEnt :=
  (r.fields.filter (fun x => x.acc == .rw)).map (fun x => { off := base, f := x, value := bits v x.lsb x.w })

/-- What the bay core does with a command that has waited for the end of a set. -/
def coreRun (i : Instr) : M d0 Unit :=
  match i with
  | .load y => loadDo y
  | .start y => startDo y
  | .stop y => stopDo y
  | .unload y => unloadDo y
  | .clear y => clearDo y
  | .panKatCmd y value => panKatCmdDo y value
  | .panCvtCmd y value => panCvtCmdDo y value
  | .trnCommResolve y value => trnCommResolveDo y value
  | .create y conn desc => createDo y conn desc
  | .connect y conn desc => connectDo y conn desc
  | .modify y conn desc => modifyDo y conn desc
  | .rehome y conn desc => rehomeDo y conn desc
  | .disconnect y conn => disconnectDo y conn
  | .destroy y conn => destroyDo y conn
  | .query y conn => queryDo y conn
  | .matchCreate y list desc => matchCreateDo y list desc
  | .matchDestroy y list => matchDestroyDo y list
  | .ctxCreate y desc => ctxCreateDo y desc
  | .ctxDestroy y desc => ctxDestroyDo y desc
  | .segSet y desc => segSetDo y desc
  | .segClear y desc => segClearDo y desc
  | .winCreate y desc => winCreateDo y desc
  | .winRevoke y desc => winRevokeDo y desc
  | .winQuery y desc => winQueryDo y desc
  | .faultReset y => faultResetDo y
  | .sealObject y key host => sealObjectDo y key host
  | .unseal y key host => unsealDo y key host
  | .directSetWrite (.yard y) base _ v => do
    match (← dev).regAt (some y) base with
    | none => pure ()
    | some (r, _) => applySet (some y) (directEnts r base v) ((← dev).fld (R.YRD_SET_REPORT_ADDR y)) true
  | _ => pure ()

/-- The bay core of yard `y` carries out, in arrival order, what has waited for its set (R116). -/
def coreDrain (y : Nat) : M d0 Unit := do
  let q := ((← dev).yard y).queue
  if q.isEmpty then return
  modYard y (fun r => { r with queue := [] })
  each q coreRun

/-- Start the fetch of a set: the count is judged first (R50). DESIGN CHOICE, log 19. -/
def startSet (f : Option Nat) (addr count report : Nat) : M d0 Unit := do
  let bar := (← dev).setBar f
  if bar ≠ 0 then setResult f 6 bar 0 (0, 0, 0)
  else if count = 0 ∨ 512 < count then setResult f 5 0 0 (0, 0, 0)
  else
    setResult f 1 0 0 (0, 0, 0)
    match f with
    | none =>
      modLay (fun l => { l with setSnap := some (addr, count, report) })
      if (← dev).ctl.hostUp then emit (.hostRead 0 addr (16 * count)) else pure ()
    | some y =>
      modYard y (fun r => { r with setSnap := some (addr, count, report) })
      if (← dev).canMaster y then emit (.hostRead (y + 1) addr (16 * count)) else pure ()

/-- LAY_SET_CMD (R49, R55). -/
def execLaySetCmd (value : Nat) (s : State) : Host.Outcome State Fault Refusal :=
  perform s do
    let d ← dev
    if !d.pfOk || !bit value 0 then return
    if (d.setBusy none).isSome then wr R.LAY_SET_STATUS_CMD_ERR 1
    else startSet none (d.fld R.LAY_SET_ADDR) (bits (d.fld R.LAY_SET_COUNT) 0 10) (d.fld R.LAY_SET_REPORT_ADDR)

/-- YRD_SET_CMD (R56). -/
def execYrdSetCmd (y value : Nat) (s : State) : Host.Outcome State Fault Refusal :=
  perform s do
    let d ← dev
    if !(← yfReach y) || !bit value 0 then return
    if (d.setBusy (some y)).isSome then wr (R.YRD_SET_STATUS_CMD_ERR y) 1
    else startSet (some y) (d.fld (R.YRD_SET_ADDR y)) (bits (d.fld (R.YRD_SET_COUNT y)) 0 10) (d.fld (R.YRD_SET_REPORT_ADDR y))

/-- The entries of a fetched set; none when it is malformed (R50). -/
def Dev.setEnts (d : Dev) (f : Option Nat) (count : Nat) (bs : List Byte) : Option (List SetEnt) :=
  let es := (List.range count).filterMap (fun i => d.setEnt f (slice bs (16 * i) 16))
  let names := es.map (fun e => (e.off, e.f.lsb))
  if bs.length < 16 * count ∨ es.length ≠ count ∨ names.eraseDups.length ≠ count then none else some es

/-- SET_APPLY (R49 to R52): the fetch of the set in progress has ended. DESIGN CHOICE, log 19. -/
def execSetApply (isDev : Bool) (y : Nat) (data : Option (List Byte)) (s : State) : Host.Outcome State Fault Refusal :=
  perform s do
    let d ← dev
    let f := if isDev then none else some y
    if d.ctl.warm || d.ctl.tripped || (!isDev && (d.yard y).resetting) then return
    match d.setBusy f with
    | none => return
    | some (_, count, report) =>
      if isDev then modLay (fun l => { l with setSnap := none }) else modYard y (fun r => { r with setSnap := none })
      let bytes := if isDev then d.pfFetched data else if d.canMaster y then data else none
      if d.setBar f ≠ 0 then setResult f 6 (d.setBar f) 0 (0, 0, 0)
      else match bytes.bind (d.setEnts f count) with
        | none => setResult f 5 0 0 (0, 0, 0)
        | some es => applySet f es report false
      if isDev then pure () else coreDrain y

/-! ### Register writes (R7 to R11, R53) -/

/-- Take a write of `width` bits at `off` of the register at `base`: the whole value when the write commits it. Earlier
parts wait in latches, word by word; a word that was not written keeps its value (R10). A write of the whole register leaves
a part that waits in its latch, and a later write of the highest part alone commits it. DESIGN CHOICE, log 10. -/
def takeWrite (f : Option Nat) (r : RRow) (base off width value : Nat) : M d0 (Option Nat) := do
  let d ← dev
  let key := barKey f base
  let n := (off - base) / 4
  if width = r.w then return some value
  if 4 * n + width / 8 < r.w / 8 then
    each (List.range (width / 32)) (fun i => act (.latch (key + 4 * (n + i)) (2 ^ 32 + bits value (32 * i) 32)))
    return none
  let low := (List.range n).foldl (fun t i =>
    let l := Tab.num d.latch (key + 4 * i)
    t + 2 ^ (32 * i) * (if l = 0 then bits (Tab.num d.regs key) (32 * i) 32 else l % 2 ^ 32)) 0
  each (List.range n) (fun i => act (.latch (key + 4 * i) 0))
  return some (low + 2 ^ (32 * n) * value)

/-- What a register holds after a write of `v` by its access codes (R7), settings apart. `opened` says that no layout has
been committed. -/
def codeWrite (r : RRow) (setting opened : Bool) (old v : Nat) : Nat :=
  let k := mixFields r (fun a => (a == .rw && !setting) || a == .rws || (a == .rwl && opened)) old v
  k - fieldBits r (fun a => a == .rw1c) (Nat.land old v)

/-- The word of a working-register lane. -/
def WV.word (v : Option WV) : Nat :=
  match v with
  | some (.fin n m) => Config.laneWord 0 n m
  | some (.inf n) => Config.laneWord 1 n 0
  | some .nan => Config.laneWord 2 false 0
  | none => Config.laneWord 3 false 0

/-- DEV_PANDBG_DATA (R470): the lane word that DEV_PANDBG_SEL selects, in a form the spec does not state; all ones without a TRACE
grant over the pan's bay. DESIGN CHOICE, log 20. -/
def Dev.panDebug (d : Dev) : Nat :=
  let sel := d.fld R.DEV_PANDBG_SEL
  let j := bits sel 0 6
  if j / 4 < 12 ∧ bit d.sec.traceOn (j / 4) then
    let g := ((d.pan j).ctxs.getD (bits sel 6 3) Ctx.empty).regs
    let lane := bits sel 16 16
    if bit sel 13 then
      match (g.a.getD (bits sel 9 1) [])[lane]? with
      | some a => Config.accWord a.sum a.nan a.pinf a.ninf a.negz a.terms % 2 ^ 64
      | none => Config.laneWord 3 false 0 % 2 ^ 64
    else WV.word (g.w.getD (bits sel 9 4) [])[lane]? % 2 ^ 64
  else 2 ^ 64 - 1

/-- A write of FAB_TBL_CMD or of a FAB_PORT_CTRL is the command it spells (R386); the group image of LOAD_GROUPS comes with its own
row. -/
def fabWrite (base v : Nat) : M d0 Unit :=
  if base = 0x100020 then
    match bits v 0 4 with
    | 1 => loadShadowDo
    | 2 => drainDo
    | 3 => swapDo
    | 4 => tblReleaseDo
    | 5 => dumpActiveDo
    | 7 => dumpGroupsDo
    | _ => pure ()
  else if 0x100408 ≤ base ∧ base < 0x100700 ∧ base % 16 = 8 then
    match bits v 0 2 with
    | 1 => reviveDo ((base - 0x100408) / 16)
    | 2 => retrainDo ((base - 0x100408) / 16)
    | _ => pure ()
  else pure ()

/-- A write of TRN_CMD is the command it spells (R252, R289); those that read a descriptor come by their own rows. -/
def trnWrite (y v : Nat) : M d0 Unit :=
  let n := bits v 8 17
  let take (i : Instr) (f : M d0 Unit) : M d0 Unit := coreTake y i (some (R.TRN_CMD_STATUS_BUSY y, R.TRN_CMD_STATUS_CMD_ERR y)) f
  match bits v 0 4 with
  | 5 => take (.disconnect y n) (disconnectDo y n)
  | 6 => take (.destroy y n) (destroyDo y n)
  | 7 => take (.query y n) (queryDo y n)
  | 9 => take (.matchDestroy y n) (matchDestroyDo y n)
  | _ => pure ()

/-- Write a whole register: its settable fields as one set, the others by their access codes.
DESIGN CHOICE, log 20. -/
def writeWhole (f : Option Nat) (r : RRow) (base v : Nat) : M d0 Unit := do
  let d ← dev
  let key := barKey f base
  let setting := isSetting f base
  match f with
  | none => fabWrite base v
  | some y => if base = 0x40010 then trnWrite y v else pure ()
  match f with
  | none => if base = 0x50048 then act (.reg key (max 10 (min 1000 (bits v 0 10)))) else
      act (.reg key (codeWrite r setting (d.lay.cur.n == 0) (Tab.num d.regs key) v))
  | some y =>
    if base = 0x308 ∨ base = 0x310 ∨ base = 0x314 then
      let st := d.fld (R.YRD_FRZ_STATUS_STATE y)
      if st = 3 ∨ st = 4 then frzErr y
      else act (.reg key (codeWrite r false false (Tab.num d.regs key) (if base = 0x314 then max 20 (min 30 (bits v 0 5)) else v)))
    else act (.reg key (codeWrite r setting (d.lay.cur.n == 0) (Tab.num d.regs key) v))
  if setting then
    let es := directEnts r base v
    if es.isEmpty then pure () else directSet f base v es
  else pure ()

/-- Whether only the physical function itself writes this offset (R57, R457, R471). -/
def pfOnly (m : Master) (off : Nat) : Bool :=
  m != .pf && ((decide (0x10000 ≤ off) && decide (off < 0x20000)) || (decide (0x31000 ≤ off) && decide (off < 0x31040)) ||
    (decide (0x40000 ≤ off) && decide (off < 0x4FF00)))

/-- A write by a master to BAR0 of its function, or to its BAR2. What a field's own row describes is that row's; a write to no
register is ignored (R9), one of a wrong width is recorded (R12), one to the operator's mirror does nothing (R324). -/
def regWrite (m : Master) (off width value : Nat) : M d0 Unit := do
  let d ← dev
  match d.reach m with
  | none => missReach m
  | some f =>
    if f.isNone && pfOnly m off then return
    if d.wrongWidth m f off width then accessErr m off (Nat.log2 (width / 8)) false
    else if (mirrored f off).2.2 then return
    else if bar2 ≤ off then
      let fn := match f with
        | none => 0
        | some y => y + 1
      if bar2Ok off width && (m == .pf || m == .yard (f.getD 0)) then
        each (List.range (width / 32)) (fun i => msixWord fn (off - bar2 + 4 * i) (bits value (32 * i) 32))
      else pure ()
    else if ramArea f off then ramWrite (off - 0x40000) value false
    else if f.isNone && decide (0x31000 ≤ off) && decide (off < 0x31040) then
      if d.lay.cur.n = 0 then
        match d.regAt f off with
        | none => pure ()
        | some (r, base) =>
          clearChan ((off - 0x31000) / 4)
          act (.reg base (codeWrite r false true (Tab.num d.regs base) value))
      else pure ()
    else if (mbxArea f off).isSome then
      if d.mbxThere (mbxId m) ((mbxArea f off).getD 0) then mbxWrite (mbxId m) ((mbxArea f off).getD 0) value else pure ()
    else match d.regAt f off with
      | none => return
      | some (r, base) =>
        if f.isNone && decide (0x1000000 ≤ off) && !d.isYard ((off - 0x1000000) / 0x400000) then
          wr (R.BAY_FN_STATE_CMD_ERR ((off - 0x1000000) / 0x400000)) 1
        else
          match ← takeWrite f r base off width value with
          | none => return
          | some v => writeWhole f r base v

/-! ### Register reads (R7 to R13, R324): the operation a read performs; the table has no row for a read -/

/-- What a read gives of a register that holds `held`: a free value in its write-only fields and its reserved bits (R7, R8).
DESIGN CHOICE, log 9. -/
def withOpen (r : RRow) (held : Nat) : M d0 Nat := do
  if r.res = 0 ∧ !r.fields.any (fun x => x.acc == .wo) then return held
  let v ← fresh
  let k := mixFields r (fun a => a == .wo) held v
  return k - Nat.land k r.res + Nat.land v r.res

/-- A binding as it reads: its reserved bits give a free value (R8, R450). -/
def withOpenBind (held : Nat) : M d0 Nat := do
  let v ← fresh
  return held - Nat.land held 0xE0E00000 + Nat.land v 0xE0E00000

/-- The words of a register from word `n` on, as a read of `width` bits gives them: a read of the lowest part latches the
rest; a later part gives the latched words, a 64-bit register's once (R10). DESIGN CHOICE, log 9. -/
def takeRead (r : RRow) (key n width whole : Nat) : M d0 Nat := do
  if width = r.w then return whole
  if n = 0 then
    each (List.range (r.w / 32)) (fun i =>
      if width / 32 ≤ i then act (.latch (key + 4 * i + 1) (2 ^ 32 + bits whole (32 * i) 32)) else pure ())
    return whole % 2 ^ width
  let d ← dev
  let v := (List.range (width / 32)).foldl (fun t i =>
    let l := Tab.num d.latch (key + 4 * (n + i) + 1)
    t + 2 ^ (32 * i) * (if l = 0 then bits whole (32 * (n + i)) 32 else l % 2 ^ 32)) 0
  if r.w = 64 then act (.latch (key + 4 * n + 1) 0) else pure ()
  return v

/-- A read of `width` bits at offset `off` by a master. Write-only fields and reserved bits give a free value (R7, R8),
DEV_SERIAL the fuses' number (R470), an offset without a register 0 (R9), a wrong width 0 and a record (R12), the mirror of
a confidential yard all ones (R13), the LAY block 0 to any but the physical function (R57). BAR0 reads 0 during a reset
(R479, R480); a function that is not present completes the read with Unsupported Request (R292, R295).
DESIGN CHOICE, log 9. -/
def regRead (m : Master) (off width : Nat) : M d0 Nat := do
  let d ← dev
  match d.reach m with
  | none =>
    missReach m
    let free ← fresh
    let d ← dev
    let quiet := match m with
      | .yard y => d.present y && (d.ctl.warm || (d.yard y).resetting)
      | .pf => d.ctl.warm
      | _ => false
    return (if quiet then 0 else free % 2 ^ width)
  | some f =>
    let (g, o, mir) := mirrored f off
    let y := g.getD 0
    let hidden := mir && d.conf y
    if mir && !d.mirrorActs y then return 0
    if d.wrongWidth m f off width then
      accessErr m off (Nat.log2 (width / 8)) true
      return (if hidden then 2 ^ width - 1 else 0)
    if hidden then return 2 ^ width - 1
    if bar2 ≤ off then
      let fn := match f with
        | none => 0
        | some y => y + 1
      return if !bar2Ok off width then 0 else (List.range (width / 32)).foldl (fun t i => t + 2 ^ (32 * i) * d.msixRead fn (off - bar2 + 4 * i)) 0
    if g.isNone && m != .pf && decide (0x10000 ≤ o) && decide (o < 0x20000) then return 0
    if ramArea g o && !ramPort m then return 0
    if ramArea g o then return (← ramRead (o - 0x40000) false)
    if m == .pf && (mbxArea g o).isSome && g.isNone && decide (0x31000 ≤ o) && decide (o < 0x31040) then
      return (← withOpenBind (d.fld (R.MBX_BIND ((o - 0x31000) / 4))))
    match mbxArea g o with
    | some k => if mir then return 0 else return (← mbxLook (mbxId m) k)
    | none => pure ()
    match d.regAt g o with
    | none => return 0
    | some (r, base) =>
      let held := if g.isNone ∧ base = 8 then Config.serial % 2 ^ 64 else if g.isNone ∧ base = 0x828 then d.panDebug else Tab.num d.regs (barKey g base)
      let whole ← withOpen r held
      if mir then return bits whole (8 * (o - base)) width
      takeRead r (barKey g base) ((o - base) / 4) width whole

/-- REGISTER_WRITE (R7). DESIGN CHOICE, log 10. -/
def execRegisterWrite (m : Master) (off width value : Nat) (s : State) : Host.Outcome State Fault Refusal :=
  perform s (regWrite m off width value)

/-- DIRECT_SET_WRITE (R53): a write that covers settable fields. -/
def execDirectSetWrite (m : Master) (off width value : Nat) (s : State) : Host.Outcome State Fault Refusal :=
  perform s (regWrite m off width value)

end Sys2Proof.Machine
end

