-- ==== Sys2Proof/Machine/Dispatch.lean ====
section
/-! DEFINITION. One arm for each command: a direct call of its meaning. -/

namespace Sys2Proof.Machine

/-- What a command does to everything but the queue. DESIGN CHOICE, log 48. -/
def exec (i : Instr) (s : State) : Host.Outcome State Fault Refusal :=
  match i with
  | .registerWrite m off width value => Sys2Proof.Machine.execRegisterWrite m off width value s
  | .wrongWidthAccess m off logBytes isRead => Sys2Proof.Machine.execWrongWidthAccess m off logBytes isRead s
  | .directSetWrite m off width value => Sys2Proof.Machine.execDirectSetWrite m off width value s
  | .layoutFetchDone data => Sys2Proof.Machine.execLayoutFetchDone data s
  | .layCommit value => Sys2Proof.Machine.execLayCommit value s
  | .laySetCmd value => Sys2Proof.Machine.execLaySetCmd value s
  | .yrdSetCmd y value => Sys2Proof.Machine.execYrdSetCmd y value s
  | .setApply dev y data => Sys2Proof.Machine.execSetApply dev y data s
  | .panBeat b k bad => Sys2Proof.Machine.execPanBeat b k s bad
  | .contextReady b k x host uc => Sys2Proof.Machine.execContextReady b k x host uc s
  | .panKatCmd y value => Sys2Proof.Machine.execPanKatCmd y value s
  | .panCvtCmd y value => Sys2Proof.Machine.execPanCvtCmd y value s
  | .panTestDone y draw => Sys2Proof.Machine.execPanTestDone y draw s
  | .load y => Sys2Proof.Machine.execLoad y s
  | .planLoadDone y data => Sys2Proof.Machine.execPlanLoadDone y data s
  | .start y => Sys2Proof.Machine.execStart y s
  | .stop y => Sys2Proof.Machine.execStop y s
  | .unload y => Sys2Proof.Machine.execUnload y s
  | .planUnloadDone y => Sys2Proof.Machine.execPlanUnloadDone y s
  | .clear y => Sys2Proof.Machine.execClear y s
  | .iterationStart y => Sys2Proof.Machine.execIterationStart y s
  | .stepComplete y t => Sys2Proof.Machine.execStepComplete y t s
  | .move y t host => Sys2Proof.Machine.execMove y t host s
  | .reduceLap y t host => Sys2Proof.Machine.execReduceLap y t host s
  | .gatherLap y t host => Sys2Proof.Machine.execGatherLap y t host s
  | .seal y t => Sys2Proof.Machine.execSeal y t s
  | .update y t => Sys2Proof.Machine.execUpdate y t s
  | .select y t host => Sys2Proof.Machine.execSelect y t host s
  | .demand y t host => Sys2Proof.Machine.execDemand y t host s
  | .stream y t host => Sys2Proof.Machine.execStream y t host s
  | .wait y t => Sys2Proof.Machine.execWait y t s
  | .waitSatisfied y t => Sys2Proof.Machine.execWaitSatisfied y t s
  | .signal y t => Sys2Proof.Machine.execSignal y t s
  | .loop y t => Sys2Proof.Machine.execLoop y t s
  | .stepWatchdogExpiry y t => Sys2Proof.Machine.execStepWatchdogExpiry y t s
  | .plnEventAdd y value => Sys2Proof.Machine.execPlnEventAdd y value s
  | .lapPacket y h payload tagOk host => Sys2Proof.Machine.execLapPacket y h payload tagOk s host
  | .sealPacket y h tagOk => Sys2Proof.Machine.execSealPacket y h tagOk s
  | .sealReturn y h tagOk => Sys2Proof.Machine.execSealReturn y h tagOk s
  | .verdict y h tagOk => Sys2Proof.Machine.execVerdict y h tagOk s
  | .abort y h tagOk => Sys2Proof.Machine.execAbort y h tagOk s
  | .trnCommResolve y value => Sys2Proof.Machine.execTrnCommResolve y value s
  | .openBuf y src nonce r tagOk => Sys2Proof.Machine.execOpenBuf y src nonce r tagOk s
  | .closeBuf y src nonce buf tagOk => Sys2Proof.Machine.execCloseBuf y src nonce buf tagOk s
  | .closeAck y src buf => Sys2Proof.Machine.execCloseAck y src buf s
  | .grant y src nonce buf epoch limit tagOk => Sys2Proof.Machine.execGrant y src nonce buf epoch limit tagOk s
  | .deliveryEmit y t d host => Sys2Proof.Machine.execDeliveryEmit y t d host s
  | .landAns y src ansId status reason buf tagOk => Sys2Proof.Machine.execLandAns y src ansId status reason buf tagOk s
  | .shedSlotFilled y t slot => Sys2Proof.Machine.execShedSlotFilled y t slot s
  | .drvShedFlush y value => Sys2Proof.Machine.execDrvShedFlush y value s
  | .create y conn desc => Sys2Proof.Machine.execCreate y conn desc s
  | .connect y conn desc => Sys2Proof.Machine.execConnect y conn desc s
  | .modify y conn desc => Sys2Proof.Machine.execModify y conn desc s
  | .rehome y conn desc => Sys2Proof.Machine.execRehome y conn desc s
  | .disconnect y conn => Sys2Proof.Machine.execDisconnect y conn s
  | .destroy y conn => Sys2Proof.Machine.execDestroy y conn s
  | .query y conn => Sys2Proof.Machine.execQuery y conn s
  | .matchCreate y list desc => Sys2Proof.Machine.execMatchCreate y list desc s
  | .matchDestroy y list => Sys2Proof.Machine.execMatchDestroy y list s
  | .quarantineExpiry y conn => Sys2Proof.Machine.execQuarantineExpiry y conn s
  | .connDrainDone y conn => Sys2Proof.Machine.execConnDrainDone y conn s
  | .send y h msn msgLen msgOff payload host => Sys2Proof.Machine.execSend y h msn msgLen msgOff payload host s
  | .sendImm y h msn imm msgLen msgOff payload host => Sys2Proof.Machine.execSendImm y h msn imm msgLen msgOff payload host s
  | .tsend y h msn msgLen msgOff tag payload host => Sys2Proof.Machine.execTsend y h msn msgLen msgOff tag payload host s
  | .rts y h msn handle msgLen tag => Sys2Proof.Machine.execRts y h msn handle msgLen tag s
  | .write y h msn msgLen off wkey payload host => Sys2Proof.Machine.execWrite y h msn msgLen off wkey payload host s
  | .writeImm y h msn imm msgLen off wkey payload host => Sys2Proof.Machine.execWriteImm y h msn imm msgLen off wkey payload host s
  | .readReq y h msn handle readLen off wkey host => Sys2Proof.Machine.execReadReq y h msn handle readLen off wkey host s
  | .readRsp y h msn readLen off payload => Sys2Proof.Machine.execReadRsp y h msn readLen off payload s
  | .fadd y h msn wkey off operand host => Sys2Proof.Machine.execFadd y h msn wkey off operand host s
  | .cswap y h msn wkey off operand compare host => Sys2Proof.Machine.execCswap y h msn wkey off operand compare host s
  | .atomicRsp y h msn original => Sys2Proof.Machine.execAtomicRsp y h msn original s
  | .addwFp32 y h msn msgLen off wkey payload host => Sys2Proof.Machine.execAddwFp32 y h msn msgLen off wkey payload host s
  | .addwBf16 y h msn msgLen off wkey payload host => Sys2Proof.Machine.execAddwBf16 y h msn msgLen off wkey payload host s
  | .flushRead y h msn off wkey host => Sys2Proof.Machine.execFlushRead y h msn off wkey host s
  | .rndvFin y h msn handle delivered code => Sys2Proof.Machine.execRndvFin y h msn handle delivered code s
  | .ack y h e => Sys2Proof.Machine.execAck y h e s
  | .nak y h e => Sys2Proof.Machine.execNak y h e s
  | .retransmitTimerExpiry y conn => Sys2Proof.Machine.execRetransmitTimerExpiry y conn s
  | .ackTimerExpiry y conn => Sys2Proof.Machine.execAckTimerExpiry y conn s
  | .increaseTimer y conn => Sys2Proof.Machine.execIncreaseTimer y conn s
  | .rnrWaitEnd y conn => Sys2Proof.Machine.execRnrWaitEnd y conn s
  | .bind y conn desc => Sys2Proof.Machine.execBind y conn desc s
  | .unbind y conn => Sys2Proof.Machine.execUnbind y conn s
  | .ringQuery y conn => Sys2Proof.Machine.execRingQuery y conn s
  | .doorbell y r recv mem xl => Sys2Proof.Machine.execDoorbell y r recv mem s xl
  | .push y r off bytes mem xl => Sys2Proof.Machine.execPush y r off bytes mem s xl
  | .nopEntry y r => Sys2Proof.Machine.execNopEntry y r s
  | .sendEntry y r host => Sys2Proof.Machine.execSendEntry y r host s
  | .sendImmEntry y r host => Sys2Proof.Machine.execSendImmEntry y r host s
  | .tsendEntry y r host => Sys2Proof.Machine.execTsendEntry y r host s
  | .writeEntry y r host => Sys2Proof.Machine.execWriteEntry y r host s
  | .writeImmEntry y r host => Sys2Proof.Machine.execWriteImmEntry y r host s
  | .read y r host => Sys2Proof.Machine.execRead y r host s
  | .faddEntry y r host => Sys2Proof.Machine.execFaddEntry y r host s
  | .cswapEntry y r host => Sys2Proof.Machine.execCswapEntry y r host s
  | .addwFp32Entry y r host => Sys2Proof.Machine.execAddwFp32Entry y r host s
  | .addwBf16Entry y r host => Sys2Proof.Machine.execAddwBf16Entry y r host s
  | .flushReadEntry y r => Sys2Proof.Machine.execFlushReadEntry y r s
  | .recv y r => Sys2Proof.Machine.execRecv y r s
  | .trecv y r host => Sys2Proof.Machine.execTrecv y r s host
  | .enable b => Sys2Proof.Machine.execEnable b s
  | .release b => Sys2Proof.Machine.execRelease b s
  | .yrdRelease y value => Sys2Proof.Machine.execYrdRelease y value s
  | .rakeDrainEnd y => Sys2Proof.Machine.execRakeDrainEnd y s
  | .rakeComplete y => Sys2Proof.Machine.execRakeComplete y s
  | .yrdHostResume y value => Sys2Proof.Machine.execYrdHostResume y value s
  | .configRequest fn locked w => Sys2Proof.Machine.execConfigRequest fn locked s w
  | .msixUnmask fn v => Sys2Proof.Machine.execMsixUnmask fn v s
  | .hostReset k => Sys2Proof.Machine.execHostReset k s
  | .lgqAqSqTail y value entries => Sys2Proof.Machine.execLgqAqSqTail y value entries s
  | .createCq y => Sys2Proof.Machine.execCreateCq y s
  | .deleteCq y => Sys2Proof.Machine.execDeleteCq y s
  | .createSq y => Sys2Proof.Machine.execCreateSq y s
  | .deleteSq y => Sys2Proof.Machine.execDeleteSq y s
  | .createRq y => Sys2Proof.Machine.execCreateRq y s
  | .deleteRq y => Sys2Proof.Machine.execDeleteRq y s
  | .tailDoorbell y r recv value entries xl => Sys2Proof.Machine.execTailDoorbell y r recv value entries s xl
  | .lgqCqHead y c value => Sys2Proof.Machine.execLgqCqHead y c value s
  | .ctxCreate y desc => Sys2Proof.Machine.execCtxCreate y desc s
  | .ctxDestroy y desc => Sys2Proof.Machine.execCtxDestroy y desc s
  | .segSet y desc => Sys2Proof.Machine.execSegSet y desc s
  | .segClear y desc => Sys2Proof.Machine.execSegClear y desc s
  | .winCreate y desc => Sys2Proof.Machine.execWinCreate y desc s
  | .winRevoke y desc => Sys2Proof.Machine.execWinRevoke y desc s
  | .revokeComplete y idx => Sys2Proof.Machine.execRevokeComplete y idx s
  | .winQuery y desc => Sys2Proof.Machine.execWinQuery y desc s
  | .faultReset y => Sys2Proof.Machine.execFaultReset y s
  | .xltLoftClear y value => Sys2Proof.Machine.execXltLoftClear y value s
  | .batchTimeExpiry y => Sys2Proof.Machine.execBatchTimeExpiry y s
  | .pageResponse y pasid page r => Sys2Proof.Machine.execPageResponse y pasid page r s
  | .faultTimeout y pasid page => Sys2Proof.Machine.execFaultTimeout y pasid page s
  | .atsInvalidate y pasid page tag => Sys2Proof.Machine.execAtsInvalidate y pasid page tag s
  | .invalidateCompletion y tag => Sys2Proof.Machine.execInvalidateCompletion y tag s
  | .atsTranslationDone b ok data => Sys2Proof.Machine.execAtsTranslationDone b ok data s
  | .patrolScrub dev block r => Sys2Proof.Machine.execPatrolScrub dev block r s
  | .cxlLinkDown q => Sys2Proof.Machine.execCxlLinkDown q s
  | .cxlLinkUp q cap => Sys2Proof.Machine.execCxlLinkUp q cap s
  | .frameReceived l f => Sys2Proof.Machine.execFrameReceived l f s
  | .replayTimerExpiry l => Sys2Proof.Machine.execReplayTimerExpiry l s
  | .linkTrained l reversed => Sys2Proof.Machine.execLinkTrained l reversed s
  | .hello l h => Sys2Proof.Machine.execHello l h s
  | .downNotice l => Sys2Proof.Machine.execDownNotice l s
  | .fecLockLost l => Sys2Proof.Machine.execFecLockLost l s
  | .downTimeout l => Sys2Proof.Machine.execDownTimeout l s
  | .revive l => Sys2Proof.Machine.execRevive l s
  | .retrain l => Sys2Proof.Machine.execRetrain l s
  | .transitPacket l h bytes => Sys2Proof.Machine.execTransitPacket l h bytes s
  | .signalPacket b src nonce event add tagOk => Sys2Proof.Machine.execSignalPacket b src nonce event add tagOk s
  | .shadowLoadDone data => Sys2Proof.Machine.execShadowLoadDone data s
  | .loadGroups data => Sys2Proof.Machine.execLoadGroups data s
  | .sluicePeriod b => Sys2Proof.Machine.execSluicePeriod b s
  | .ethFrameReceived u f => Sys2Proof.Machine.execEthFrameReceived u f s
  | .transmitPick u => Sys2Proof.Machine.execTransmitPick u s
  | .shaperRefill b c => Sys2Proof.Machine.execShaperRefill b c s
  | .gateEntryEnd u => Sys2Proof.Machine.execGateEntryEnd u s
  | .configChange u => Sys2Proof.Machine.execConfigChange u s
  | .gclChangeTime u => Sys2Proof.Machine.execGclChangeTime u s
  | .lpiEntry u => Sys2Proof.Machine.execLpiEntry u s
  | .lpiWake u => Sys2Proof.Machine.execLpiWake u s
  | .ethMgmtTxTail value slots => Sys2Proof.Machine.execEthMgmtTxTail value slots s
  | .ethTimeAdj value => Sys2Proof.Machine.execEthTimeAdj value s
  | .subportLinkChange u up => Sys2Proof.Machine.execSubportLinkChange u up s
  | .getMeasurements tr index nonce sign => Sys2Proof.Machine.execGetMeasurements tr index nonce sign s
  | .keyExchange tr share => Sys2Proof.Machine.execKeyExchange tr share s
  | .respondIfReady tr token => Sys2Proof.Machine.execRespondIfReady tr token s
  | .getReport tr index nonce => Sys2Proof.Machine.execGetReport tr index nonce s
  | .setKeys tr session lowest keySetId jms mig => Sys2Proof.Machine.execSetKeys tr session lowest keySetId jms mig s
  | .getPqSig tr cmd => Sys2Proof.Machine.execGetPqSig tr s cmd
  | .operatorKey tr install slot rsaKey slhKey a => Sys2Proof.Machine.execOperatorKey tr install slot rsaKey slhKey a s
  | .setLifecycle tr target a => Sys2Proof.Machine.execSetLifecycle tr target a s
  | .getTdispVersion y => Sys2Proof.Machine.execGetTdispVersion y s
  | .getTdispCapabilities y => Sys2Proof.Machine.execGetTdispCapabilities y s
  | .lockInterfaceRequest y ide => Sys2Proof.Machine.execLockInterfaceRequest y s ide
  | .getDeviceInterfaceReport y => Sys2Proof.Machine.execGetDeviceInterfaceReport y s
  | .getDeviceInterfaceState y => Sys2Proof.Machine.execGetDeviceInterfaceState y s
  | .startInterfaceRequest y => Sys2Proof.Machine.execStartInterfaceRequest y s
  | .stopInterfaceRequest y => Sys2Proof.Machine.execStopInterfaceRequest y s
  | .ideKm session streamId key => Sys2Proof.Machine.execIdeKm session streamId key s
  | .fwStageDone core data => Sys2Proof.Machine.execFwStageDone core data s
  | .trace target => Sys2Proof.Machine.execTrace target s
  | .halt target => Sys2Proof.Machine.execHalt target s
  | .secDebugEnd value => Sys2Proof.Machine.execSecDebugEnd value s
  | .sealObject y key host => Sys2Proof.Machine.execSealObject y key host s
  | .unseal y key host => Sys2Proof.Machine.execUnseal y key host s
  | .sealDone y => Sys2Proof.Machine.execSealDone y s
  | .coreWatchdogExpiry c => Sys2Proof.Machine.execCoreWatchdogExpiry c s
  | .deviceFatal source => Sys2Proof.Machine.execDeviceFatal source s
  | .go id c len => Sys2Proof.Machine.execGo id c len s
  | .take id c => Sys2Proof.Machine.execTake id c s
  | .mbxBellMask id value => Sys2Proof.Machine.execMbxBellMask id value s
  | .ping id c => Sys2Proof.Machine.execPing id c s
  | .getInfo id c => Sys2Proof.Machine.execGetInfo id c s
  | .getErr id c => Sys2Proof.Machine.execGetErr id c s
  | .panCheckFail b k => Sys2Proof.Machine.execPanCheckFail b k s
  | .spareSubstitution b k => Sys2Proof.Machine.execSpareSubstitution b k s
  | .coldReset addr tamperLow failed core badSlots => Sys2Proof.Machine.execColdReset addr tamperLow s failed core badSlots
  | .crpResetCmd value => Sys2Proof.Machine.execCrpResetCmd value s
  | .bmcWarmReset value => Sys2Proof.Machine.execBmcWarmReset value s
  | .functionLevelReset y => Sys2Proof.Machine.execFunctionLevelReset y s
  | .crpBayReset value => Sys2Proof.Machine.execCrpBayReset value s
  | .yardResetDone y => Sys2Proof.Machine.execYardResetDone y s
  | .crpPstateReq value => Sys2Proof.Machine.execCrpPstateReq value s
  | .bmcPstateReq value => Sys2Proof.Machine.execBmcPstateReq value s
  | .linkQuiet l => Sys2Proof.Machine.execLinkQuiet l s
  | .thermalThrottle temp => Sys2Proof.Machine.execThermalThrottle temp s
  | .thermtrip temp => Sys2Proof.Machine.execThermtrip temp s
  | .freeze y mode => Sys2Proof.Machine.execFreeze y mode s
  | .crpFreezeReq value => Sys2Proof.Machine.execCrpFreezeReq value s
  | .freezeTakesEffect y => Sys2Proof.Machine.execFreezeTakesEffect y s
  | .resume y => Sys2Proof.Machine.execResume y s
  | .save y => Sys2Proof.Machine.execSave y s
  | .restore y => Sys2Proof.Machine.execRestore y s
  | .yrdFrzAck y value => Sys2Proof.Machine.execYrdFrzAck y value s
  | .savePart y => Sys2Proof.Machine.execSavePart y s
  | .restorePart y object => Sys2Proof.Machine.execRestorePart y object s
  | .lapCreditReturn y comm n => Sys2Proof.Machine.execLapCreditReturn y comm n s
  | .frameSchedulerPick l => Sys2Proof.Machine.execFrameSchedulerPick l s
  | .pacedTransmission y conn host => Sys2Proof.Machine.execPacedTransmission y conn host s
  | .lgqAqCqHead y value => Sys2Proof.Machine.execLgqAqCqHead y value s
  | .i3cPrivateWrite off value => Sys2Proof.Machine.execI3cPrivateWrite off value s
  | .setdasa static dynamic => Sys2Proof.Machine.execSetdasa static dynamic s
  | .securityProcessorRestarted ok => Sys2Proof.Machine.execSecurityProcessorRestarted ok s
  | .throttleRaise temp => Sys2Proof.Machine.execThrottleRaise temp s
  | .rxLowPowerIdle u enter => Sys2Proof.Machine.execRxLowPowerIdle u enter s
  | .getVersion tr => Sys2Proof.Machine.execGetVersion tr s
  | .getCapabilities tr => Sys2Proof.Machine.execGetCapabilities tr s
  | .negotiateAlgorithms tr => Sys2Proof.Machine.execNegotiateAlgorithms tr s
  | .getDigests tr => Sys2Proof.Machine.execGetDigests tr s
  | .getCertificate tr slot => Sys2Proof.Machine.execGetCertificate tr slot s
  | .challenge tr nonce => Sys2Proof.Machine.execChallenge tr nonce s
  | .finish tr session => Sys2Proof.Machine.execFinish tr session s
  | .heartbeat tr session => Sys2Proof.Machine.execHeartbeat tr session s
  | .keyUpdate tr session => Sys2Proof.Machine.execKeyUpdate tr session s
  | .endSession tr session => Sys2Proof.Machine.execEndSession tr session s
  | .chunkSend tr handle seq last bytes => Sys2Proof.Machine.execChunkSend tr handle seq last bytes s
  | .chunkGet tr handle seq => Sys2Proof.Machine.execChunkGet tr handle seq s
  | .fetch => Sys2Proof.Machine.execFetch s
  | .validate => Sys2Proof.Machine.execValidate s
  | .layoutCheckDone => Sys2Proof.Machine.execLayoutCheckDone s
  | .discard => Sys2Proof.Machine.execDiscard s
  | .layoutCommitApply => Sys2Proof.Machine.execLayoutCommitApply s
  | .perstDeassert => Sys2Proof.Machine.execPerstDeassert s
  | .pcieRetrain => Sys2Proof.Machine.execPcieRetrain s
  | .loadShadow => Sys2Proof.Machine.execLoadShadow s
  | .drain => Sys2Proof.Machine.execDrain s
  | .drainCountZero => Sys2Proof.Machine.execDrainCountZero s
  | .swap => Sys2Proof.Machine.execSwap s
  | .tblRelease => Sys2Proof.Machine.execTblRelease s
  | .dumpActive => Sys2Proof.Machine.execDumpActive s
  | .dumpGroups => Sys2Proof.Machine.execDumpGroups s
  | .tamper => Sys2Proof.Machine.execTamper s
  | .stage => Sys2Proof.Machine.execStage s
  | .activate => Sys2Proof.Machine.execActivate s
  | .fwDiscard => Sys2Proof.Machine.execFwDiscard s
  | .scan => Sys2Proof.Machine.execScan s
  | .idcode => Sys2Proof.Machine.execIdcode s
  | .bypass => Sys2Proof.Machine.execBypass s
  | .samplePreload => Sys2Proof.Machine.execSamplePreload s
  | .extest => Sys2Proof.Machine.execExtest s
  | .extestPulse => Sys2Proof.Machine.execExtestPulse s
  | .extestTrain => Sys2Proof.Machine.execExtestTrain s
  | .mirrorUpdate => Sys2Proof.Machine.execMirrorUpdate s
  | .railFault => Sys2Proof.Machine.execRailFault s
  | .warmReset => Sys2Proof.Machine.execWarmReset s
  | .warmResetDone => Sys2Proof.Machine.execWarmResetDone s
  | .pstateChangeDone => Sys2Proof.Machine.execPstateChangeDone s
  | .tamperNHigh => Sys2Proof.Machine.execTamperNHigh s

end Sys2Proof.Machine
end

