-- ==== Sys2Proof/Machine/Tick.lean ====
section
/-! DEFINITION. The passing of time: what a step does when no command waits. -/

namespace Sys2Proof.Machine

/-- Nanoseconds that pass in a step with no command: one cycle of the 100 MHz MGMT domain, which clocks the timestamp
counter (R474). DESIGN CHOICE, log 1. -/
def tickNs : Nat := 10

/-- One tick: the timestamp (R259, R470) and the gate time (R404) advance, and every record RAM word written before it
is free again (R458). DESIGN CHOICE, log 1. -/
def idle (s : State) : Host.Outcome State Fault Refusal :=
  perform s do
    bump R.DEV_TIMESTAMP tickNs
    bump R.ETH_TIME tickNs
    modCtl (fun c => { c with recBusy := [] })

end Sys2Proof.Machine
end

