-- ==== Sys2Proof/Safety.lean ====
section
/-! DEFINITION. What a sound state of the W48 is, in the terms the statements use, and what it is for a command to
complete. -/

namespace Sys2Proof

open Machine

/-- Every register holds at most 128 bits (R10). -/
def regsFit (d : Dev) : Bool := d.regs.all (fun p => decide (p.2 < 2 ^ 128))

/-- Every map of the device is in its canonical form: keys strictly rise, and number maps list no zero. -/
def mapsWf (d : Dev) : Bool :=
  Tab.wfNum d.regs && Tab.wfNum d.latch && Tab.wf d.yards && Tab.wf d.comms && Tab.wf d.conns && Tab.wf d.rings &&
  Tab.wf d.lists && Tab.wf d.ctxs && Tab.wf d.wins && Tab.wf d.lcqs

/-- The counts of like units never change: 48 pans, 48 links, 16 subports. -/
def shapeWf (d : Dev) : Bool := d.pans.length == 48 && d.fab.links.length == 48 && d.eth.subs.length == 16

/-- A sound device. -/
def sound (d : Dev) : Bool := regsFit d && mapsWf d && shapeWf d && d.mem.wf

/-- Command `i` in state `s` answers a next state whose queue is that of `s` and whose device satisfies `P`. -/
def Completes (i : Instr) (s : State) (P : Dev → Prop) : Prop :=
  ∃ t : State, exec i s = .next t ∧ t.pending = s.pending ∧ P t.dev

/-- Whether a packet is from the peer of its connection (R250, R252, R271): its tag, its source and its incarnation. -/
def fromPeer (d : Dev) (y : Nat) (h : WrtHdr) : Bool :=
  let c := d.conn y h.conn
  d.takes y && d.present y && !(d.yard y).resetting && !d.ctl.warm && h.tagOk && (c.st == 2 || c.st == 3) &&
  (if c.roce then h.ip == c.peerIp
   else d.keyed y && h.inc == c.inc && h.src == c.peerAddr && (c.path == 0 || h.ip == c.peerIp))

/-- Whether a request packet is new, in its window and may be served (R269, R271, R281, R288). -/
def newRequest (d : Dev) (y opc : Nat) (h : WrtHdr) : Bool :=
  let c := d.conn y h.conn
  fromPeer d y h && !d.frozen y && !d.planConn y h.conn && c.rnrs.isEmpty &&
  (!c.roce || (c.gap c.epsn h.psn == 0 && (opc == 1 || opc == 5 || opc == 7))) &&
  decide (c.gap c.epsn h.psn < c.window) && (c.gap h.psn c.epsn == 0 || decide (c.psnMod / 2 < c.gap h.psn c.epsn)) &&
  !c.marks.contains (h.psn % c.psnMod)

/-- Whether an open window grants right `right` on `len` bytes at `off` to connection `n` under the key `wkey` (R348). -/
def Machine.Win.grants (w : Win) (n right wkey off len : Nat) : Bool :=
  w.gen == wkey % 256 && w.state == 1 && (w.conn == 0xFFFFFF || w.conn == n) && bit w.rights right && decide (off + len ≤ w.len)

/-- The bytes a step reads at a place: what the yard's memory holds when nothing there is uncorrectable or down, or what the
host returns for a translated range without an error (R329, R340). -/
def readsAs (d : Dev) (y : Nat) (q : Place) (n : Nat) (h : HostSide) : Option (List Byte) :=
  match q with
  | .mem t a =>
    if d.mem.uc.isEmpty && (t != 2 || (0 :: d.farPorts).all (fun k => d.on (R.MEM_FAR_PORT_LINK_UP k))) then
      some (d.mem.read (d.addr y t a) n)
    else none
  | .host _ _ =>
    if d.canMaster y && h.xl == .hit && (d.yard y).inval.isEmpty && !h.bad then some ((h.data ++ zeros (n - h.data.length)).take n)
    else none

/-- Whether a step can write to a place at once: nothing in memory is uncorrectable or down, or the host range is
translated (R330, R343). -/
def writesTo (d : Dev) (y : Nat) (q : Place) (h : HostSide) : Bool :=
  match q with
  | .mem t _ => d.mem.uc.isEmpty && (t != 2 || (0 :: d.farPorts).all (fun k => d.on (R.MEM_FAR_PORT_LINK_UP k)))
  | .host _ _ => d.canMaster y && h.xl == .hit && (d.yard y).inval.isEmpty

/-- Whether storage address `x` lies outside the `n` bytes at a place; a place in host memory holds none. -/
def outsideOf (d : Dev) (y : Nat) (q : Place) (n x : Nat) : Bool :=
  match q with
  | .mem t a => decide (x < d.addr y t a) || decide (d.addr y t a + n ≤ x)
  | .host _ _ => true

/-- What a SELECT writes: the head of the selected set, its histogram and the residual (R191 to R196). -/
structure SelectOut where
  head : List Byte
  hist : List Byte
  rest : List Byte

/-- What a SELECT of density `k` over `n` elements makes of the bytes `gs` of its input and `es` of the bittern in step
`step`. -/
def selectOut (gs es : List Byte) (n k step : Nat) : SelectOut :=
  let cs := (List.zipWith compensate (words32 n gs) (words32 n es)).map (fun c => c.1)
  let bl := chunksOf (n / 32 + 1) 32 cs
  let q := selectBlocks (bl.map blockKey) (selectTarget k (n / 32))
  { head := selectedHead n (selectTarget k (n / 32)) step q
    hist := histBytes (bl.map blockKey)
    rest := packElems 32 (List.zipWith (fun m b => if m then b.map (fun _ => 0) else b) q.marks bl).flatten }

/-- Whether the slots of a communicator hold only packets that some lap of its op has a place for, each once (R132). -/
def slotsFit (d : Dev) (y c : Nat) (x : Comm) : Bool :=
  x.slots.all (fun q => q.h.attempt != d.attempt y c || d.lapShape y c q.h) &&
  (x.slots.map (fun q => (q.h.gather, q.key))).eraseDups.length == x.slots.length

/-- Whether the start of a step leaves every shed as it is: the plan has none, or the step's OUT is not in the far tier
(R241). -/
def shedsStay (d : Dev) (y : Nat) (p : Plan) (st : Machine.Step) (env : List Nat) : Bool :=
  p.sheds.isEmpty || !st.isLocal 3 ||
  (match d.refPlace y p st env 3 with
   | some (.mem tier _) => tier != 2
   | _ => true)

/-- Whether a SEAL may start: without ADVANCE at once, with it when every other thread is over (R113). -/
def sealMay (d : Dev) (y t : Nat) (st : Machine.Step) : Bool :=
  !bit st.flags 0 || (List.range (d.yard y).thrs.length).all (fun j => j == t || (((d.yard y).thrs[j]?).map Thr.over).getD true)

/-- Whether no plan of the yard keeps banked planes or a bittern, which a write of another agent leaves unspecified as a whole
(R170, R214). -/
def unbanked (d : Dev) (y : Nat) : Bool :=
  match (d.yard y).plan with
  | none => true
  | some p => p.pairs.isEmpty && p.steps.all (fun st => st.type != tSelect)

/-- What `b` has put out beyond what `a` had. -/
def newOut (a b : Dev) : List Out := b.out.drop a.out.length

/-- Whether, from `a` to `b`, connection `n` of yard `y` sent a packet that satisfies `f`. -/
def wrtSent (a b : Dev) (y n : Nat) (f : WPkt → Bool) : Bool :=
  (newOut a b).any (fun o => match o with
    | .wrt z m p => z == y && m == n && f p
    | _ => false)

/-- What a transport puts out for the response `bytes`: the response, or, when it is longer than the transport's messages,
LargeResponse with the handle it waits under (R422). -/
def spdmAnswer (d : Dev) (tr : Transport) (bytes : List Byte) : Out :=
  .spdm tr (if bytes.length ≤ limitOf tr then bytes else [0x13, 0x7F, 0x0F, 0x00] ++ leBytes 1 (d.sec.token % 256))

/-- A vendor response of R426: STATUS and what follows it. -/
def vendorBytes (cmd status : Nat) (body : List Byte) : List Byte :=
  [0x13, 0x7E, 0, 0] ++ (leBytes 2 3 ++ leBytes 1 2 ++ leBytes 2 Config.pciVendor ++ leBytes 2 (2 + body.length) ++
    leBytes 1 cmd ++ leBytes 1 status ++ body)

/-- The answer to GET_MEASUREMENTS without a signature: the blocks `bs`, or for INDEX 0 their number alone (R424). -/
def measurementBytes (d : Dev) (tr : Transport) (index : Nat) (nonce : List Byte) (bs : List (Nat × List Byte)) : List Byte :=
  let r := bs.flatMap (fun b => dmtf b.1 b.2)
  [0x13, 0x60] ++ leBytes 1 (if index = 0 then (d.blocks tr).length else 0) ++ [0] ++
    (leBytes 1 bs.length ++ leBytes 3 r.length ++ r ++ nonce)

/-- Whether the security processor serves a request of a connection negotiated up to `stage` (R422, R428). -/
def serves (d : Dev) (tr : Transport) (stage : Nat) : Bool :=
  d.reaches tr && !d.notReady tr && decide (stage ≤ (d.spdmAt tr).stage)

/-- Whether it serves one inside the finished session `id`. -/
def servesIn (d : Dev) (tr : Transport) (id : Nat) : Bool :=
  serves d tr 3 && (match d.session tr id with
    | some z => z.finished
    | none => false)

/-- Whether the image that a LOAD fetched is refused: it cannot be read, breaks a check, or finds no place (R117, R119). -/
def planRefused (d : Dev) (y : Nat) (data : Option (List Byte)) : Bool :=
  match if d.canMaster y then data else none with
  | none => true
  | some bs =>
    let n := (((d.yard y).loadSnap).map (fun e => e.2)).getD 0
    let img := (bs ++ zeros (n - bs.length)).take n
    let x : PlanCtx := { img := img, p := Plan.parse img, d := d, y := y, bays := (d.baysOf y).length }
    (checkPlan d y img).isSome || (match x.placed with
      | .error _ => true
      | .ok _ => false)

/-- The parts of a device that frames speak of. -/
inductive Part where
  | regs | latch | mem | out | freeIx | lay | yards | pans | comms | conns | rings | lists | ctxs | wins | lcqs | fab | eth | sec | ctl
deriving DecidableEq, Repr

/-- Whether part `p` is the same in two devices. -/
def Part.same (p : Part) (a b : Machine.Dev) : Prop :=
  match p with
  | .regs => a.regs = b.regs
  | .latch => a.latch = b.latch
  | .mem => a.mem = b.mem
  | .out => a.out = b.out
  | .freeIx => a.freeIx = b.freeIx
  | .lay => a.lay = b.lay
  | .yards => a.yards = b.yards
  | .pans => a.pans = b.pans
  | .comms => a.comms = b.comms
  | .conns => a.conns = b.conns
  | .rings => a.rings = b.rings
  | .lists => a.lists = b.lists
  | .ctxs => a.ctxs = b.ctxs
  | .wins => a.wins = b.wins
  | .lcqs => a.lcqs = b.lcqs
  | .fab => a.fab = b.fab
  | .eth => a.eth = b.eth
  | .sec => a.sec = b.sec
  | .ctl => a.ctl = b.ctl

/-- The parts that a command may change; none for the commands whose effect ranges over most of the device (lap work,
request packets, resets, power states and the like), of which the frames say nothing. -/
def alters (i : Instr) : Option (List Part) :=
  match i with
  | .quarantineExpiry _ _ | .increaseTimer _ _ | .rnrWaitEnd _ _ => some [.conns]
  | .perstDeassert | .pcieRetrain | .mirrorUpdate => some [.ctl]
  | .shaperRefill _ _ | .gateEntryEnd _ => some [.eth]
  | .linkQuiet _ => some [.fab]
  | .idcode | .bypass => some [.out]
  | .sluicePeriod _ | .rxLowPowerIdle _ _ | .layoutCheckDone | .tamperNHigh => some [.regs]
  | .yardResetDone _ => some [.yards]
  | .msixUnmask _ _ | .go _ _ _ | .take _ _ | .mbxBellMask _ _ | .ping _ _ | .getInfo _ _ | .getErr _ _
  | .setdasa _ _ | .samplePreload | .extest | .extestPulse | .extestTrain => some [.out, .ctl]
  | .lgqAqSqTail _ _ _ | .batchTimeExpiry _ | .lgqAqCqHead _ _ => some [.out, .yards]
  | .throttleRaise _ => some [.regs, .ctl]
  | .configChange _ | .gclChangeTime _ | .ethTimeAdj _ => some [.regs, .eth]
  | .fecLockLost _ => some [.regs, .fab]
  | .layoutFetchDone _ | .layCommit _ | .validate | .discard => some [.regs, .lay]
  | .plnEventAdd _ _ | .ringQuery _ _ | .yrdHostResume _ _ | .xltLoftClear _ _ | .lpiEntry _ | .lpiWake _
  | .panCheckFail _ _ | .yrdFrzAck _ _ | .loadShadow | .stage => some [.regs, .out]
  | .secDebugEnd _ | .activate => some [.regs, .sec]
  | .panTestDone _ _ | .grant _ _ _ _ _ _ _ | .signalPacket _ _ _ _ _ _ => some [.regs, .yards]
  | .atsInvalidate _ _ _ _ => some [.yards, .rings]
  | .getMeasurements _ _ _ _ | .keyExchange _ _ | .getReport _ _ _ | .getPqSig _ _ | .ideKm _ _ _ | .getVersion _
  | .getCapabilities _ | .negotiateAlgorithms _ | .getDigests _ | .getCertificate _ _ | .challenge _ _ | .finish _ _
  | .heartbeat _ _ | .keyUpdate _ _ | .endSession _ _ | .chunkSend _ _ _ _ _ | .chunkGet _ _ _ => some [.out, .freeIx, .sec]
  | .createCq _ | .deleteCq _ => some [.out, .yards, .lcqs]
  | .createSq _ | .deleteSq _ | .createRq _ | .deleteRq _ => some [.out, .yards, .rings]
  | .wrongWidthAccess _ _ _ _ | .thermalThrottle _ | .drainCountZero | .dumpActive | .dumpGroups => some [.regs, .out, .ctl]
  | .frameReceived _ _ | .replayTimerExpiry _ | .revive _ | .retrain _ => some [.regs, .out, .fab]
  | .fetch => some [.regs, .out, .lay]
  | .bind _ _ _ | .unbind _ _ => some [.regs, .out, .rings]
  | .cxlLinkUp _ _ => some [.regs, .out, .sec]
  | .panKatCmd _ _ | .panCvtCmd _ _ | .load _ | .start _ | .stop _ | .unload _ | .clear _ | .query _ _
  | .winQuery _ _ | .faultReset _ => some [.regs, .out, .yards]
  | .getTdispVersion _ | .getTdispCapabilities _ | .lockInterfaceRequest _ _ | .getDeviceInterfaceReport _
  | .getDeviceInterfaceState _ | .startInterfaceRequest _ | .stopInterfaceRequest _ => some [.out, .freeIx, .yards, .sec]
  | .patrolScrub _ _ _ => some [.regs, .mem, .out, .ctl]
  | .linkTrained _ _ | .downNotice _ => some [.regs, .mem, .out, .fab]
  | .transmitPick _ | .ethMgmtTxTail _ _ | .subportLinkChange _ _ => some [.regs, .out, .eth, .ctl]
  | .drain => some [.regs, .out, .fab, .ctl]
  | .operatorKey _ _ _ _ _ _ => some [.regs, .out, .freeIx, .sec]
  | .shadowLoadDone _ | .loadGroups _ | .swap => some [.regs, .out, .lay, .ctl]
  | .laySetCmd _ | .yrdSetCmd _ _ => some [.regs, .out, .lay, .yards]
  | .cxlLinkDown _ | .fwStageDone _ _ | .trace _ | .halt _ | .securityProcessorRestarted _ | .fwDiscard => some [.regs, .out, .sec, .ctl]
  | .create _ _ _ | .modify _ _ _ | .rehome _ _ _ => some [.regs, .out, .yards, .conns]
  | .sealObject _ _ _ | .unseal _ _ _ | .freezeTakesEffect _ | .restore _ | .savePart _ => some [.regs, .out, .yards, .ctl]
  | .ctxCreate _ _ | .ctxDestroy _ _ | .segSet _ _ | .segClear _ _ => some [.regs, .out, .yards, .ctxs]
  | .matchCreate _ _ _ => some [.regs, .out, .yards, .lists]
  | .winCreate _ _ | .winRevoke _ _ => some [.regs, .out, .yards, .wins]
  | .drvShedFlush _ _ => some [.regs, .mem, .out, .freeIx, .ctl]
  | .hello _ _ | .frameSchedulerPick _ => some [.regs, .mem, .out, .freeIx, .fab]
  | .downTimeout _ | .tblRelease => some [.regs, .out, .freeIx, .fab, .ctl]
  | .openBuf _ _ _ _ _ | .closeBuf _ _ _ _ _ | .closeAck _ _ _ => some [.regs, .out, .freeIx, .yards, .fab]
  | .respondIfReady _ _ | .setKeys _ _ _ _ _ _ | .setLifecycle _ _ _ => some [.regs, .out, .freeIx, .yards, .sec]
  | .connect _ _ _ => some [.regs, .out, .yards, .conns, .rings]
  | .warmResetDone => some [.regs, .out, .yards, .eth, .ctl]
  | .doorbell _ _ _ _ _ | .push _ _ _ _ _ _ | .tailDoorbell _ _ _ _ _ _ => some [.regs, .out, .yards, .rings, .ctl]
  | .save _ => some [.regs, .out, .yards, .sec, .ctl]
  | .revokeComplete _ _ => some [.regs, .out, .yards, .wins, .ctl]
  | .transitPacket _ _ _ => some [.regs, .mem, .out, .freeIx, .fab, .ctl]
  | .select _ _ _ | .demand _ _ _ | .stream _ _ _ | .wait _ _ | .shedSlotFilled _ _ _ | .sealDone _ => some [.regs, .mem, .out, .freeIx, .yards, .ctl]
  | .thermtrip _ => some [.regs, .out, .fab, .eth, .sec, .ctl]
  | .iterationStart _ | .loop _ _ => some [.regs, .mem, .out, .freeIx, .yards, .comms, .ctl]
  | .move _ _ _ => some [.regs, .mem, .out, .freeIx, .yards, .pans, .ctl]
  | .ackTimerExpiry _ _ => some [.regs, .out, .freeIx, .yards, .conns, .fab, .eth]
  | .rakeComplete _ => some [.regs, .mem, .out, .freeIx, .yards, .fab, .sec, .ctl]
  | .waitSatisfied _ _ => some [.regs, .mem, .out, .freeIx, .yards, .pans, .comms, .ctl]
  | .nopEntry _ _ | .recv _ _ | .lgqCqHead _ _ _ | .invalidateCompletion _ _ => some [.regs, .mem, .out, .freeIx, .yards, .rings, .lcqs, .ctl]
  | .ethFrameReceived _ _ => some [.regs, .out, .freeIx, .yards, .conns, .fab, .eth, .ctl]
  | .registerWrite _ _ _ _ | .directSetWrite _ _ _ _ | .setApply _ _ _ | .panBeat _ _ _ | .contextReady _ _ _ _ _
  | .planLoadDone _ _ | .planUnloadDone _ | .stepComplete _ _ | .reduceLap _ _ _ | .gatherLap _ _ _ | .seal _ _
  | .update _ _ | .signal _ _ | .stepWatchdogExpiry _ _ | .lapPacket _ _ _ _ _ | .sealPacket _ _ _
  | .sealReturn _ _ _ | .verdict _ _ _ | .abort _ _ _ | .trnCommResolve _ _ | .deliveryEmit _ _ _ _
  | .landAns _ _ _ _ _ _ _ | .disconnect _ _ | .destroy _ _ | .matchDestroy _ _ | .connDrainDone _ _
  | .send _ _ _ _ _ _ _ | .sendImm _ _ _ _ _ _ _ _ | .tsend _ _ _ _ _ _ _ _ | .rts _ _ _ _ _ _
  | .write _ _ _ _ _ _ _ _ | .writeImm _ _ _ _ _ _ _ _ _ | .readReq _ _ _ _ _ _ _ _ | .readRsp _ _ _ _ _ _
  | .fadd _ _ _ _ _ _ _ | .cswap _ _ _ _ _ _ _ _ | .atomicRsp _ _ _ _ | .addwFp32 _ _ _ _ _ _ _ _
  | .addwBf16 _ _ _ _ _ _ _ _ | .flushRead _ _ _ _ _ _ | .rndvFin _ _ _ _ _ _ | .ack _ _ _ | .nak _ _ _
  | .retransmitTimerExpiry _ _ | .sendEntry _ _ _ | .sendImmEntry _ _ _ | .tsendEntry _ _ _ | .writeEntry _ _ _
  | .writeImmEntry _ _ _ | .read _ _ _ | .faddEntry _ _ _ | .cswapEntry _ _ _ | .addwFp32Entry _ _ _
  | .addwBf16Entry _ _ _ | .flushReadEntry _ _ | .trecv _ _ _ | .enable _ | .release _ | .yrdRelease _ _
  | .rakeDrainEnd _ | .configRequest _ _ _ | .hostReset _ | .pageResponse _ _ _ _ | .faultTimeout _ _ _
  | .atsTranslationDone _ _ _ | .coreWatchdogExpiry _ | .deviceFatal _ | .spareSubstitution _ _
  | .coldReset _ _ _ _ _ | .crpResetCmd _ | .bmcWarmReset _ | .functionLevelReset _ | .crpBayReset _
  | .crpPstateReq _ | .bmcPstateReq _ | .freeze _ _ | .crpFreezeReq _ | .resume _ | .restorePart _ _
  | .lapCreditReturn _ _ _ | .pacedTransmission _ _ _ | .i3cPrivateWrite _ _ | .layoutCommitApply | .tamper | .scan
  | .railFault | .warmReset | .pstateChangeDone => none

/-- The registers that a command may write, by key, of the commands whose registers are few; none for the others (a
command whose `alters` does not list `regs` writes none at all). -/
def writesRegs (i : Instr) : Option (List Nat) :=
  match i with
  | .layoutFetchDone _ => some [R.LAY_REPORT_CODE.key, R.LAY_REPORT_OFFSET.key, R.LAY_REPORT_DETAIL.key,
      R.LAY_STATUS.key]
  | .layCommit _ | .fetch | .validate | .discard => some [R.LAY_STATUS.key]
  | .laySetCmd _ =>
    some [R.LAY_SET_STATUS.key, R.LAY_SET_CLAMPS.key, R.LAY_SET_RULE.key, R.LAY_SET_CONFLICT.key]
  | .yrdSetCmd y _ =>
    some [(R.YRD_SET_STATUS y).key, (R.YRD_SET_CLAMPS y).key, (R.YRD_SET_RULE y).key, (R.YRD_SET_CONFLICT y).key]
  | .panKatCmd y _ => some [(R.PAN_KAT_STATUS y).key]
  | .panCvtCmd y _ => some [(R.PAN_CVT_STATUS y).key]
  | .panTestDone y _ => some [(R.PAN_CVT_OUT y).key, (R.PAN_CVT_STATUS y).key, (R.PAN_KAT_OUT_HI y).key,
      (R.PAN_KAT_OUT_LO y).key, (R.PAN_KAT_STATUS y).key]
  | .load y | .stop y | .unload y | .clear y => some [(R.PLN_STATUS y).key]
  | .start y => some [(R.PLN_STATUS y).key, (R.PLN_ITER_DONE y).key]
  | .create y _ _ | .connect y _ _ | .modify y _ _ | .rehome y _ _ | .query y _ => some [(R.TRN_CMD_STATUS y).key]
  | .matchCreate y _ _ => some [(R.TRN_CMD_STATUS y).key, (R.TRN_MATCH_FREE y).key]
  | .bind y _ _ | .unbind y _ | .ringQuery y _ => some [(R.YRD_RING_STATUS y).key]
  | .yrdHostResume y _ => some [(R.BAY_FN_STATE y).key, (R.YRD_STATE y).key]
  | .ctxCreate y _ | .winQuery y _ => some [(R.XLT_CMD_STATUS y).key]
  | .ctxDestroy y _ | .segSet y _ | .segClear y _ => some [(R.XLT_CMD_STATUS y).key, (R.XLT_POOL_LOFT y).key,
      (R.XLT_POOL_NEAR y).key, (R.XLT_POOL_FAR y).key]
  | .winCreate y _ => some [(R.XLT_CMD_STATUS y).key, (R.XLT_CMD_KEY y).key, (R.XLT_WIN_OPEN y).key]
  | .winRevoke y _ => some [(R.XLT_CMD_STATUS y).key, (R.XLT_WIN_OPEN y).key, (R.XLT_WIN_CLOSING y).key]
  | .revokeComplete y _ => some [(R.XLT_WIN_CLOSING y).key]
  | .faultReset y => some [(R.XLT_CMD_STATUS y).key, (R.XLT_STATUS y).key]
  | .shedSlotFilled y _ _ => some [(R.DRV_SHED_FILLS y).key, R.MEM_STATUS.key, R.MEM_UC_COUNT.key, R.MEM_UC_LOG.key,
      R.MEM_UC_OFFSET.key, (R.XLT_ERR_ADDR y).key, (R.XLT_ERR_INFO y).key, (R.XLT_UC_COUNT y).key]
  | .drvShedFlush y _ | .recv y _ | .lgqCqHead y _ _ => some [R.MEM_STATUS.key, R.MEM_UC_COUNT.key, R.MEM_UC_LOG.key,
      R.MEM_UC_OFFSET.key, (R.XLT_ERR_ADDR y).key, (R.XLT_ERR_INFO y).key, (R.XLT_UC_COUNT y).key]
  | .doorbell y _ _ _ _ | .tailDoorbell y _ _ _ _ _ => some [R.MEM_STATUS.key, R.MEM_UC_COUNT.key, R.MEM_UC_LOG.key,
      R.MEM_UC_OFFSET.key, (R.XLT_ERR_ADDR y).key, (R.XLT_ERR_INFO y).key, (R.XLT_UC_COUNT y).key,
      (R.XLT_FAULTS y).key, (R.XLT_FAULT_COALESCED y).key, (R.XLT_FAULT_LAST_ADDR y).key,
      (R.XLT_FAULT_LAST_INFO y).key, (R.XLT_FAULT_OVF_COUNT y).key, (R.XLT_FAULT_PENDING y).key,
      (R.XLT_FAULT_UNRESOLVED y).key, (R.XLT_STATUS y).key, (R.YRD_DB_DROPPED y).key]
  | .cxlLinkUp q _ => some [R.CRP_CLK_STATUS.key, (R.MEM_FAR_PORT q).key]
  | .cxlLinkDown q => some [R.CRP_CLK_STATUS.key, (R.MEM_FAR_PORT q).key, R.MEM_STATUS.key, R.SEC_RAKE_STATUS.key]
  | .frameReceived l _ => some [R.FAB_DRAIN_COUNT.key, (R.FAB_PORT_STATE l).key, (R.TEL_CRC_ERR l).key,
      (R.TEL_REPLAYS l).key, (R.TEL_RX_FLITS l).key]
  | .replayTimerExpiry l => some [(R.FAB_PORT_STATE l).key, (R.TEL_REPLAYS l).key]
  | .linkTrained l _ => some [(R.FAB_PORT_STATE l).key, (R.TEL_TX_PKTS l).key, (R.TEL_TX_FLITS l).key,
      R.FAB_DRAIN_COUNT.key, R.TEL_DROPS.key, R.TEL_RING_HEAD.key, R.TEL_SAMPLES.key, R.TEL_STATUS.key]
  | .downNotice l => some [(R.FAB_PORT_STATE l).key, (R.TEL_RX_PKTS l).key, R.TEL_DROPS.key, R.TEL_RING_HEAD.key,
      R.TEL_SAMPLES.key, R.TEL_STATUS.key]
  | .fecLockLost l => some [(R.FAB_PORT_STATE l).key]
  | .revive l | .retrain l => some [R.FAB_DRAIN_COUNT.key, (R.FAB_PORT_PEER l).key, (R.FAB_PORT_STATE l).key]
  | .shadowLoadDone _ | .loadGroups _ => some [R.FAB_EVENTS.key, R.FAB_RT_DETAIL.key, R.FAB_RT_STATUS.key]
  | .sluicePeriod b => some [(R.FAB_SLUICE_LEVEL b).key]
  | .loadShadow => some [R.FAB_RT_STATUS.key]
  | .drain => some [R.FAB_DRAIN_COUNT.key, R.FAB_EVENTS.key, R.FAB_RT_STATUS.key]
  | .drainCountZero => some [R.FAB_EVENTS.key, R.FAB_RT_STATUS.key]
  | .dumpActive | .dumpGroups => some [R.FAB_EVENTS.key]
  | .configChange u | .gclChangeTime u => some [(R.ETH_GCL_STATUS u).key]
  | .lpiEntry u | .lpiWake u | .rxLowPowerIdle u _ => some [(R.ETH_SUB_STATE u).key]
  | .subportLinkChange u _ => some [R.ETH_EVENTS.key, (R.ETH_SUB_STATE u).key, (R.ETH_LPI_TW u).key]
  | .ethTimeAdj _ => some [R.ETH_TIME.key]
  | .operatorKey _ _ _ _ _ _ => some [R.SEC_OPKEY_SLOTS.key]
  | .fwStageDone _ _ => some [R.SEC_EVENTS.key, R.SEC_FW_STATUS.key, R.SEC_STATUS.key]
  | .fwDiscard => some [R.SEC_EVENTS.key, R.SEC_FW_STATUS.key, R.SEC_STATUS.key]
  | .stage => some [R.SEC_FW_STATUS.key]
  | .panCheckFail _ _ => some [R.DEV_PAN_FAILED.key]
  | .thermalThrottle _ => some [R.CRP_EVENTS.key, R.CRP_STATUS.key, R.CRP_THERM.key]
  | .throttleRaise _ => some [R.CRP_STATUS.key, R.CRP_THERM.key]
  | .freezeTakesEffect y => some [R.CRP_EVENTS.key, (R.PLN_STATUS y).key, (R.YRD_FRZ_STATUS y).key,
      (R.YRD_STATE y).key]
  | .restore y => some [(R.YRD_FRZ_DONE y).key, (R.YRD_FRZ_STATUS y).key]
  | .savePart y => some [(R.YRD_FRZ_DONE y).key, (R.YRD_FRZ_STATUS y).key, (R.YRD_KEY_STATE y).key]
  | .yrdFrzAck y _ => some [(R.YRD_FRZ_ACK y).key]
  | .tamperNHigh => some [R.SEC_STATUS.key]
  | .registerWrite _ _ _ _ | .wrongWidthAccess _ _ _ _ | .directSetWrite _ _ _ _ | .setApply _ _ _ | .panBeat _ _ _
  | .contextReady _ _ _ _ _ | .planLoadDone _ _ | .planUnloadDone _ | .iterationStart _ | .stepComplete _ _
  | .move _ _ _ | .reduceLap _ _ _ | .gatherLap _ _ _ | .seal _ _ | .update _ _ | .select _ _ _ | .demand _ _ _
  | .stream _ _ _ | .wait _ _ | .waitSatisfied _ _ | .signal _ _ | .loop _ _ | .stepWatchdogExpiry _ _
  | .plnEventAdd _ _ | .lapPacket _ _ _ _ _ | .sealPacket _ _ _ | .sealReturn _ _ _ | .verdict _ _ _ | .abort _ _ _
  | .trnCommResolve _ _ | .openBuf _ _ _ _ _ | .closeBuf _ _ _ _ _ | .closeAck _ _ _ | .grant _ _ _ _ _ _ _
  | .deliveryEmit _ _ _ _ | .landAns _ _ _ _ _ _ _ | .disconnect _ _ | .destroy _ _ | .matchDestroy _ _
  | .quarantineExpiry _ _ | .connDrainDone _ _ | .send _ _ _ _ _ _ _ | .sendImm _ _ _ _ _ _ _ _
  | .tsend _ _ _ _ _ _ _ _ | .rts _ _ _ _ _ _ | .write _ _ _ _ _ _ _ _ | .writeImm _ _ _ _ _ _ _ _ _
  | .readReq _ _ _ _ _ _ _ _ | .readRsp _ _ _ _ _ _ | .fadd _ _ _ _ _ _ _ | .cswap _ _ _ _ _ _ _ _
  | .atomicRsp _ _ _ _ | .addwFp32 _ _ _ _ _ _ _ _ | .addwBf16 _ _ _ _ _ _ _ _ | .flushRead _ _ _ _ _ _
  | .rndvFin _ _ _ _ _ _ | .ack _ _ _ | .nak _ _ _ | .retransmitTimerExpiry _ _ | .ackTimerExpiry _ _
  | .increaseTimer _ _ | .rnrWaitEnd _ _ | .push _ _ _ _ _ _ | .nopEntry _ _ | .sendEntry _ _ _ | .sendImmEntry _ _ _
  | .tsendEntry _ _ _ | .writeEntry _ _ _ | .writeImmEntry _ _ _ | .read _ _ _ | .faddEntry _ _ _ | .cswapEntry _ _ _
  | .addwFp32Entry _ _ _ | .addwBf16Entry _ _ _ | .flushReadEntry _ _ | .trecv _ _ _ | .enable _ | .release _
  | .yrdRelease _ _ | .rakeDrainEnd _ | .rakeComplete _ | .configRequest _ _ _ | .msixUnmask _ _ | .hostReset _
  | .lgqAqSqTail _ _ _ | .createCq _ | .deleteCq _ | .createSq _ | .deleteSq _ | .createRq _ | .deleteRq _
  | .xltLoftClear _ _ | .batchTimeExpiry _ | .pageResponse _ _ _ _ | .faultTimeout _ _ _ | .atsInvalidate _ _ _ _
  | .invalidateCompletion _ _ | .atsTranslationDone _ _ _ | .patrolScrub _ _ _ | .hello _ _ | .downTimeout _
  | .transitPacket _ _ _ | .signalPacket _ _ _ _ _ _ | .ethFrameReceived _ _ | .transmitPick _ | .shaperRefill _ _
  | .gateEntryEnd _ | .ethMgmtTxTail _ _ | .getMeasurements _ _ _ _ | .keyExchange _ _ | .respondIfReady _ _
  | .getReport _ _ _ | .setKeys _ _ _ _ _ _ | .getPqSig _ _ | .setLifecycle _ _ _ | .getTdispVersion _
  | .getTdispCapabilities _ | .lockInterfaceRequest _ _ | .getDeviceInterfaceReport _ | .getDeviceInterfaceState _
  | .startInterfaceRequest _ | .stopInterfaceRequest _ | .ideKm _ _ _ | .trace _ | .halt _ | .secDebugEnd _
  | .sealObject _ _ _ | .unseal _ _ _ | .sealDone _ | .coreWatchdogExpiry _ | .deviceFatal _ | .go _ _ _ | .take _ _
  | .mbxBellMask _ _ | .ping _ _ | .getInfo _ _ | .getErr _ _ | .spareSubstitution _ _ | .coldReset _ _ _ _ _
  | .crpResetCmd _ | .bmcWarmReset _ | .functionLevelReset _ | .crpBayReset _ | .yardResetDone _ | .crpPstateReq _
  | .bmcPstateReq _ | .linkQuiet _ | .thermtrip _ | .freeze _ _ | .crpFreezeReq _ | .resume _ | .save _
  | .restorePart _ _ | .lapCreditReturn _ _ _ | .frameSchedulerPick _ | .pacedTransmission _ _ _ | .lgqAqCqHead _ _
  | .i3cPrivateWrite _ _ | .setdasa _ _ | .securityProcessorRestarted _ | .getVersion _ | .getCapabilities _
  | .negotiateAlgorithms _ | .getDigests _ | .getCertificate _ _ | .challenge _ _ | .finish _ _ | .heartbeat _ _
  | .keyUpdate _ _ | .endSession _ _ | .chunkSend _ _ _ _ _ | .chunkGet _ _ _ | .layoutCheckDone | .layoutCommitApply
  | .perstDeassert | .pcieRetrain | .swap | .tblRelease | .tamper | .activate | .scan | .idcode | .bypass
  | .samplePreload | .extest | .extestPulse | .extestTrain | .mirrorUpdate | .railFault | .warmReset | .warmResetDone
  | .pstateChangeDone => none

/-- The yard whose record is the only one that a command may change: for the commands of one yard whose work reaches no
other (the plan, ring, window, page, TDISP and seal commands, freezes and saves, and the local steps of the sequencer). -/
def oneYard (i : Instr) : Option Nat :=
  match i with
  | .yrdSetCmd y _ | .panKatCmd y _ | .panCvtCmd y _ | .panTestDone y _ | .load y | .start y | .stop y | .unload y
  | .clear y | .iterationStart y | .move y _ _ | .select y _ _ | .demand y _ _ | .stream y _ _ | .wait y _
  | .waitSatisfied y _ | .loop y _ | .openBuf y _ _ _ _ | .closeBuf y _ _ _ _ | .closeAck y _ _
  | .grant y _ _ _ _ _ _ | .shedSlotFilled y _ _ | .create y _ _ | .connect y _ _ | .modify y _ _ | .rehome y _ _
  | .query y _ | .matchCreate y _ _ | .ackTimerExpiry y _ | .doorbell y _ _ _ _ | .push y _ _ _ _ _ | .nopEntry y _
  | .recv y _ | .lgqAqSqTail y _ _ | .createCq y | .deleteCq y | .createSq y | .deleteSq y | .createRq y
  | .deleteRq y | .tailDoorbell y _ _ _ _ _ | .lgqCqHead y _ _ | .ctxCreate y _ | .ctxDestroy y _ | .segSet y _
  | .segClear y _ | .winCreate y _ | .winRevoke y _ | .revokeComplete y _ | .winQuery y _ | .faultReset y
  | .batchTimeExpiry y | .atsInvalidate y _ _ _ | .invalidateCompletion y _ | .getTdispVersion y
  | .getTdispCapabilities y | .lockInterfaceRequest y _ | .getDeviceInterfaceReport y | .getDeviceInterfaceState y
  | .startInterfaceRequest y | .stopInterfaceRequest y | .sealObject y _ _ | .unseal y _ _ | .sealDone y
  | .yardResetDone y | .freezeTakesEffect y | .save y | .restore y | .savePart y | .lgqAqCqHead y _ => some y
  | .registerWrite _ _ _ _ | .wrongWidthAccess _ _ _ _ | .directSetWrite _ _ _ _ | .layoutFetchDone _ | .layCommit _
  | .laySetCmd _ | .setApply _ _ _ | .panBeat _ _ _ | .contextReady _ _ _ _ _ | .planLoadDone _ _ | .planUnloadDone _
  | .stepComplete _ _ | .reduceLap _ _ _ | .gatherLap _ _ _ | .seal _ _ | .update _ _ | .signal _ _
  | .stepWatchdogExpiry _ _ | .plnEventAdd _ _ | .lapPacket _ _ _ _ _ | .sealPacket _ _ _ | .sealReturn _ _ _
  | .verdict _ _ _ | .abort _ _ _ | .trnCommResolve _ _ | .deliveryEmit _ _ _ _ | .landAns _ _ _ _ _ _ _
  | .drvShedFlush _ _ | .disconnect _ _ | .destroy _ _ | .matchDestroy _ _ | .quarantineExpiry _ _
  | .connDrainDone _ _ | .send _ _ _ _ _ _ _ | .sendImm _ _ _ _ _ _ _ _ | .tsend _ _ _ _ _ _ _ _ | .rts _ _ _ _ _ _
  | .write _ _ _ _ _ _ _ _ | .writeImm _ _ _ _ _ _ _ _ _ | .readReq _ _ _ _ _ _ _ _ | .readRsp _ _ _ _ _ _
  | .fadd _ _ _ _ _ _ _ | .cswap _ _ _ _ _ _ _ _ | .atomicRsp _ _ _ _ | .addwFp32 _ _ _ _ _ _ _ _
  | .addwBf16 _ _ _ _ _ _ _ _ | .flushRead _ _ _ _ _ _ | .rndvFin _ _ _ _ _ _ | .ack _ _ _ | .nak _ _ _
  | .retransmitTimerExpiry _ _ | .increaseTimer _ _ | .rnrWaitEnd _ _ | .bind _ _ _ | .unbind _ _ | .ringQuery _ _
  | .sendEntry _ _ _ | .sendImmEntry _ _ _ | .tsendEntry _ _ _ | .writeEntry _ _ _ | .writeImmEntry _ _ _
  | .read _ _ _ | .faddEntry _ _ _ | .cswapEntry _ _ _ | .addwFp32Entry _ _ _ | .addwBf16Entry _ _ _
  | .flushReadEntry _ _ | .trecv _ _ _ | .enable _ | .release _ | .yrdRelease _ _ | .rakeDrainEnd _ | .rakeComplete _
  | .yrdHostResume _ _ | .configRequest _ _ _ | .msixUnmask _ _ | .hostReset _ | .xltLoftClear _ _
  | .pageResponse _ _ _ _ | .faultTimeout _ _ _ | .atsTranslationDone _ _ _ | .patrolScrub _ _ _ | .cxlLinkDown _
  | .cxlLinkUp _ _ | .frameReceived _ _ | .replayTimerExpiry _ | .linkTrained _ _ | .hello _ _ | .downNotice _
  | .fecLockLost _ | .downTimeout _ | .revive _ | .retrain _ | .transitPacket _ _ _ | .signalPacket _ _ _ _ _ _
  | .shadowLoadDone _ | .loadGroups _ | .sluicePeriod _ | .ethFrameReceived _ _ | .transmitPick _ | .shaperRefill _ _
  | .gateEntryEnd _ | .configChange _ | .gclChangeTime _ | .lpiEntry _ | .lpiWake _ | .ethMgmtTxTail _ _
  | .ethTimeAdj _ | .subportLinkChange _ _ | .getMeasurements _ _ _ _ | .keyExchange _ _ | .respondIfReady _ _
  | .getReport _ _ _ | .setKeys _ _ _ _ _ _ | .getPqSig _ _ | .operatorKey _ _ _ _ _ _ | .setLifecycle _ _ _
  | .ideKm _ _ _ | .fwStageDone _ _ | .trace _ | .halt _ | .secDebugEnd _ | .coreWatchdogExpiry _ | .deviceFatal _
  | .go _ _ _ | .take _ _ | .mbxBellMask _ _ | .ping _ _ | .getInfo _ _ | .getErr _ _ | .panCheckFail _ _
  | .spareSubstitution _ _ | .coldReset _ _ _ _ _ | .crpResetCmd _ | .bmcWarmReset _ | .functionLevelReset _
  | .crpBayReset _ | .crpPstateReq _ | .bmcPstateReq _ | .linkQuiet _ | .thermalThrottle _ | .thermtrip _
  | .freeze _ _ | .crpFreezeReq _ | .resume _ | .yrdFrzAck _ _ | .restorePart _ _ | .lapCreditReturn _ _ _
  | .frameSchedulerPick _ | .pacedTransmission _ _ _ | .i3cPrivateWrite _ _ | .setdasa _ _
  | .securityProcessorRestarted _ | .throttleRaise _ | .rxLowPowerIdle _ _ | .getVersion _ | .getCapabilities _
  | .negotiateAlgorithms _ | .getDigests _ | .getCertificate _ _ | .challenge _ _ | .finish _ _ | .heartbeat _ _
  | .keyUpdate _ _ | .endSession _ _ | .chunkSend _ _ _ _ _ | .chunkGet _ _ _ | .fetch | .validate | .layoutCheckDone
  | .discard | .layoutCommitApply | .perstDeassert | .pcieRetrain | .loadShadow | .drain | .drainCountZero | .swap
  | .tblRelease | .dumpActive | .dumpGroups | .tamper | .stage | .activate | .fwDiscard | .scan | .idcode | .bypass
  | .samplePreload | .extest | .extestPulse | .extestTrain | .mirrorUpdate | .railFault | .warmReset | .warmResetDone
  | .pstateChangeDone | .tamperNHigh => none

end Sys2Proof
end

