-- ==== Sys2Proof/Certificates/Slice0/Obligations.lean ====
section
/-! DEFINITION. The statements about the W48, for the provers. -/

open Sys2Proof Sys2Proof.Machine

/-- A step carries out the command at the front of the queue, on the state with the rest of the queue (R25). -/
def Obligations.StepRunsFront : Prop :=
  ∀ (c : Instr) (s : State), step { s with pending := c :: s.pending } = exec c s

/-- The state after reset is sound: no command waits, every register and map is in its form,
  no layout is committed (R33). -/
def Obligations.ResetIsSound : Prop :=
  sound State.reset.dev = true ∧ State.reset.pending = [] ∧ State.reset.dev.lay.cur = Layout.none ∧
  State.reset.dev.mem.cells = [] ∧ (∀ b, b < 12 → State.reset.dev.bayState b = 0) ∧
  (∀ l, l < 48 → State.reset.dev.linkState l = 0) ∧ (∀ u, u < 16 → State.reset.dev.fld (R.ETH_SUB_STATE_LINK u) = 0)

/-- Every step from a sound state ends in a sound state (R10, R325). -/
def Obligations.StepKeepsSound : Prop :=
  ∀ (s t : State), sound s.dev = true → step s = .next t → sound t.dev = true

/-- Every step answers a next state, takes one command from the queue, keeps what was sent out;
  an empty queue lets 10 ns pass (R470, R404, R474). -/
def Obligations.EveryStepAnswers : Prop :=
  (∀ s : State, ∃ t : State, step s = .next t ∧ t.pending = s.pending.tail ∧ s.dev.out <+: t.dev.out ∧
    s.dev.freeIx ≤ t.dev.freeIx) ∧
  (∀ s t : State, sound s.dev = true → s.pending = [] → step s = .next t →
    t.dev.fld R.DEV_TIMESTAMP = (s.dev.fld R.DEV_TIMESTAMP + 10) % 2 ^ 64 ∧
    t.dev.fld R.ETH_TIME = (s.dev.fld R.ETH_TIME + 10) % 2 ^ 64 ∧ t.dev.mem = s.dev.mem)

/-- Storage reads back what was written, a write and a clear leave every other byte alone,
  and the canonical form is kept (R325, R329, R441). -/
def Obligations.MemoryLaws : Prop :=
  (∀ (m : Memory) (a : Nat) (bs : List Byte), m.wf = true → (m.write a bs).wf = true ∧
    (m.write a bs).read a bs.length = bs ∧ (∀ x, (x < a ∨ a + bs.length ≤ x) → (m.write a bs).byte x = m.byte x)) ∧
  (∀ (m : Memory) (lo len : Nat), m.wf = true → (m.clear lo len).wf = true ∧
    (∀ x, lo ≤ x → x < lo + len → (m.clear lo len).byte x = 0) ∧
    (∀ x, (x < lo ∨ lo + len ≤ x) → (m.clear lo len).byte x = m.byte x)) ∧
  (∀ (m : Memory) (lo len seed : Nat), m.wf = true → (m.spoil lo len seed).wf = true ∧
    (∀ x, (x < lo ∨ lo + len ≤ x) → (m.spoil lo len seed).byte x = m.byte x) ∧ (m.veil lo len seed).wf = true ∧
    (∀ x, (x < lo ∨ lo + len ≤ x) → (m.veil lo len seed).byte x = m.byte x))

/-- A command of one yard never changes the record of another (R19, R296, R434, R485). -/
def Obligations.YardsAreIsolated : Prop :=
  ∀ (i : Instr) (y : Nat) (s t : State), oneYard i = some y → exec i s = .next t →
    ∀ z, z ≠ y → t.dev.yard z = s.dev.yard z

/-- What each command leaves alone: every part of the device that alters does not list (R7, R255, R299, R336, R347,
  R395, R422, R453). -/
def Obligations.PartsFrame : Prop :=
  ∀ (i : Instr) (ps : List Part) (s t : State), alters i = some ps → exec i s = .next t →
    ∀ p, p ∉ ps → p.same s.dev t.dev

/-- What each command writes of the register file: no register beside those that writesRegs lists (R41, R121, R255,
  R299, R336, R347, R386, R404, R444, R483, R495). -/
def Obligations.RegistersFrame : Prop :=
  ∀ (i : Instr) (ks : List Nat) (s t : State), writesRegs i = some ks → exec i s = .next t →
    ∀ k, k ∉ ks → Tab.num t.dev.regs k = Tab.num s.dev.regs k

/-- A refused plan image changes nothing: EMPTY, no resource held, no POOLED memory, seeds,
  step counter and events kept (R119). -/
def Obligations.RefusedPlanChangesNothing : Prop :=
  ∀ (s : State) (y : Nat) (data : Option (List Byte)), sound s.dev = true → s.dev.present y = true →
    s.dev.plnState y = 1 → s.dev.frozen y = false → (s.dev.yard y).plan = none → planRefused s.dev y data = true →
    Completes (.planLoadDone y data) s (fun d => d.plnState y = 0 ∧ d.fld (R.PLN_STATUS_REFUSED y) = 1 ∧
      d.yard y = { s.dev.yard y with loadSnap := none } ∧ d.mem = s.dev.mem ∧ d.conns = s.dev.conns ∧
      d.comms = s.dev.comms ∧ d.lists = s.dev.lists ∧ d.pans = s.dev.pans ∧
      (∀ i, i < 8 → d.fld (R.PLN_SEED y i) = s.dev.fld (R.PLN_SEED y i)) ∧
      d.fld (R.PLN_STEP_COUNT y) = s.dev.fld (R.PLN_STEP_COUNT y) ∧
      (∀ i, i < 64 → d.fld (R.PLN_EVENT y i) = s.dev.fld (R.PLN_EVENT y i)))

/-- No two bytes of the yards' storage share a place in a loft, a near device or behind a far port (R325, R326, R327,
  R434). -/
def Obligations.StorageMapsApart : Prop :=
  (∀ (d : Dev) (y z tier a b : Nat), d.isYard y = true → d.isYard z = true → tier < 3 → d.lay.cur.granule ≤ 11 →
    a < d.capacity y tier → b < d.capacity z tier → d.place y tier a = d.place z tier b → y = z ∧ a = b) ∧
  (∀ m k i j h : Nat, i < 256 → j < 8 → h < 8 → nearData m + i ≠ nearCheck k + j ∧ (nearCheck k + j) % 8192 < 8184 ∧
    (nearCheck m + h = nearCheck k + j → m = k ∧ h = j))

/-- The score key of an element and the key of a block, as R192 states them (R192). -/
def Obligations.ScoreKeys : Prop :=
  (∀ c, c < 2 ^ 32 → (bits c 23 8 = 255 ∧ bits c 0 23 ≠ 0 → scoreKey c = 0xFFFF) ∧
    (¬(bits c 23 8 = 255 ∧ bits c 0 23 ≠ 0) → scoreKey c = bits c 15 16)) ∧
  scoreKey 0 = 0 ∧ scoreKey 0x80000000 = 0 ∧ scoreKey 0x7F800000 = 0xFF00 ∧ scoreKey 0xFF800000 = 0xFF00 ∧
  (∀ cs : List Nat, cs.length = 32 → blockKey cs ∈ cs.map scoreKey ∧ ∀ c ∈ cs, scoreKey c ≤ blockKey cs)

/-- FETCH to LAY_COMMIT move the staging state as R41 gives (R38, R41, R42, R43). -/
def Obligations.LayoutStagingCommands : Prop :=
  (∀ (s : State),
    sound s.dev = true → s.dev.pfOk = true → s.dev.fld R.LAY_STATUS_STAGE ∈ [0, 2, 4, 5] →
    Completes .fetch s (fun d => d.fld R.LAY_STATUS_STAGE = 1 ∧ d.lay.staged = [] ∧
      d.out = s.dev.out ++ [.hostRead 0 (s.dev.fld R.LAY_STAGE_ADDR) (s.dev.fld R.LAY_STAGE_LEN)])) ∧
  (∀ (s : State) (bs : List Byte),
    sound s.dev = true → s.dev.fld R.LAY_STATUS_STAGE = 1 → s.dev.lay.discarding = false → s.dev.ctl.hostUp = true →
    Completes (.layoutFetchDone (some bs)) s (fun d => d.fld R.LAY_STATUS_STAGE = 2 ∧
      d.lay.staged = bs.take s.dev.lay.asked)) ∧
  (∀ (s : State),
    sound s.dev = true → s.dev.pfOk = true → s.dev.fld R.LAY_STATUS_STAGE ∈ [2, 4, 5] →
    Completes .validate s (fun d => d.fld R.LAY_STATUS_STAGE = 3)) ∧
  (∀ (s : State),
    sound s.dev = true → s.dev.fld R.LAY_STATUS_STAGE = 3 →
    Completes .layoutCheckDone s (fun d => d.lay = s.dev.lay ∧
      d.fld R.LAY_STATUS_STAGE = (match checkImage s.dev s.dev.lay.staged with | some _ => 5 | none => if s.dev.lay.commitAfter = true then 6 else 4) ∧
      (∀ r ∈ checkImage s.dev s.dev.lay.staged, d.fld R.LAY_REPORT_CODE = (r.code + 2 ^ 16 * r.sect) % 2 ^ 32 ∧
        d.fld R.LAY_REPORT_OFFSET = r.off % 2 ^ 32 ∧ d.fld R.LAY_REPORT_DETAIL = r.detail % 2 ^ 32))) ∧
  (∀ (s : State),
    sound s.dev = true → s.dev.pfOk = true → s.dev.fld R.LAY_STATUS_STAGE ∈ [2, 4, 5] →
    Completes .discard s (fun d => d.fld R.LAY_STATUS_STAGE = 0 ∧ d.lay.staged = [])) ∧
  (∀ (s : State),
    sound s.dev = true → s.dev.pfOk = true → s.dev.on (R.DEV_STATUS.sub 0 1) = false →
    s.dev.fld R.LAY_STATUS_STAGE = 4 →
    Completes (.layCommit (le s.dev.lay.staged 0x10 4)) s (fun d => d.fld R.LAY_STATUS_STAGE = 6)) ∧
  (∀ (s : State),
    sound s.dev = true → s.dev.pfOk = true → s.dev.on (R.DEV_STATUS.sub 0 1) = false →
    s.dev.fld R.LAY_STATUS_STAGE = 2 →
    Completes (.layCommit (le s.dev.lay.staged 0x10 4)) s (fun d => d.fld R.LAY_STATUS_STAGE = 3 ∧
      d.lay.commitAfter = true))

/-- LAYOUT_COMMIT_APPLY takes the whole image over (R38, R44). -/
def Obligations.LayoutCommitApplies : Prop :=
  (∀ (s : State),
    sound s.dev = true → s.dev.fld R.LAY_STATUS_STAGE = 6 → check12 s.dev s.dev.lay.staged = none →
    Completes .layoutCommitApply s (fun d => d.lay.cur = Layout.parse s.dev.lay.staged ∧
      d.fld R.LAY_SEQ = le s.dev.lay.staged 0x10 8 ∧ d.fld R.LAY_STATUS_COMMITTED = 1 ∧
        d.fld R.LAY_STATUS_STAGE = 0)) ∧
  (∀ (s : State) (r : Refuse),
    sound s.dev = true → s.dev.fld R.LAY_STATUS_STAGE = 6 → check12 s.dev s.dev.lay.staged = some r →
    Completes .layoutCommitApply s (fun d => d.fld R.LAY_STATUS_STAGE = 5 ∧
      d.fld R.LAY_REPORT_DETAIL = r.detail % 2 ^ 32 ∧ d.lay = s.dev.lay))

/-- Register writes, wrong widths and direct sets act as R7, R10, R12 and R53 state (R7, R10, R12, R51, R53). -/
def Obligations.RegisterWrites : Prop :=
  (∀ (s : State) (r : RRow) (off v : Nat),
    sound s.dev = true → s.dev.pfOk = true → off < 0x1000000 → s.dev.regAt none off = some (r, off) →
    ramArea none off = false → mbxArea none off = none → isSetting none off = false → off ≠ 0x820 → off ≠ 0x50048 →
    off ≠ 0x100020 → (off < 0x100408 ∨ 0x100700 ≤ off ∨ off % 16 ≠ 8) →
    Completes (.registerWrite .pf off r.w v) s (fun d =>
      Tab.num d.regs off = codeWrite r false (s.dev.lay.cur.n == 0) (Tab.num s.dev.regs off) v % 2 ^ 128 ∧
      (∀ k, k ≠ off → Tab.num d.regs k = Tab.num s.dev.regs k) ∧ d.mem = s.dev.mem)) ∧
  (∀ (s : State) (y : Nat) (r : RRow) (off v : Nat),
    sound s.dev = true → y < 12 → s.dev.yfOk y = true → s.dev.regAt (some y) off = some (r, off) → off < bar2 →
    mbxArea (some y) off = none → isSetting (some y) off = false → off ∉ [0x308, 0x310, 0x314, 0x40010] →
    Completes (.registerWrite (.yard y) off r.w v) s (fun d =>
      Tab.num d.regs (yb y + off) = codeWrite r false (s.dev.lay.cur.n == 0) (Tab.num s.dev.regs (yb y + off)) v % 2 ^ 128 ∧
      (∀ k, k ≠ yb y + off → Tab.num d.regs k = Tab.num s.dev.regs k) ∧ d.mem = s.dev.mem)) ∧
  (∀ (s : State) (r : RRow) (off v : Nat),
    sound s.dev = true → s.dev.pfOk = true → off < 0x1000000 → s.dev.regAt none off = some (r, off) → r.w = 64 →
    ramArea none off = false → mbxArea none off = none →
    Completes (.registerWrite .pf off 32 v) s (fun d => Tab.num d.latch off = 2 ^ 32 + v % 2 ^ 32 ∧
      d.regs = s.dev.regs ∧ d.mem = s.dev.mem)) ∧
  (∀ (s : State) (r : RRow) (off v : Nat),
    sound s.dev = true → s.dev.pfOk = true → off + 4 < 0x1000000 → s.dev.regAt none (off + 4) = some (r, off) →
    r.w = 64 → v < 2 ^ 32 → ramArea none (off + 4) = false → mbxArea none (off + 4) = none →
    isSetting none off = false → off ≠ 0x820 → off ≠ 0x50048 →
    Completes (.registerWrite .pf (off + 4) 32 v) s (fun d => (let l := Tab.num s.dev.latch off;
      let low := if l = 0 then Tab.num s.dev.regs off % 2 ^ 32 else l % 2 ^ 32;
      Tab.num d.regs off = codeWrite r false (s.dev.lay.cur.n == 0) (Tab.num s.dev.regs off) (low + 2 ^ 32 * v) % 2 ^ 128) ∧
      Tab.num d.latch off = 0 ∧ (∀ k, k ≠ off → Tab.num d.regs k = Tab.num s.dev.regs k) ∧ d.mem = s.dev.mem)) ∧
  (∀ (s : State) (off k : Nat) (rd : Bool),
    sound s.dev = true → s.dev.pfOk = true → s.dev.wrongWidth .pf none off (8 * 2 ^ k) = true →
    Completes (.wrongWidthAccess .pf off k rd) s (fun d =>
      d.fld R.DEV_ACCESS_ERR = off % 2 ^ 26 + 2 ^ 26 * (k % 8) + 2 ^ 29 * b2n rd + 2 ^ 31 ∧
      d.fld (R.DEV_EVENTS.sub 3 1) = 1 ∧
      (∀ q, q ≠ R.DEV_ACCESS_ERR.key → q ≠ R.DEV_EVENTS.key → Tab.num d.regs q = Tab.num s.dev.regs q) ∧
      d.latch = s.dev.latch ∧ d.mem = s.dev.mem)) ∧
  (∀ (s : State) (y off k : Nat) (rd : Bool),
    sound s.dev = true → y < 12 → s.dev.yfOk y = true → s.dev.wrongWidth (.yard y) (some y) off (8 * 2 ^ k) = true →
    Completes (.wrongWidthAccess (.yard y) off k rd) s (fun d =>
      d.fld (R.YRD_ACCESS_ERR y) = off % 2 ^ 26 + 2 ^ 26 * (k % 8) + 2 ^ 29 * b2n rd + 2 ^ 31 ∧
      (∀ q, q ≠ (R.YRD_ACCESS_ERR y).key → Tab.num d.regs q = Tab.num s.dev.regs q) ∧ d.latch = s.dev.latch ∧
      d.out = s.dev.out ∧ d.mem = s.dev.mem)) ∧
  (∀ (s : State) (y : Nat) (r : RRow) (x : FRow) (off v : Nat),
    sound s.dev = true → y < 12 → s.dev.yfOk y = true → s.dev.setBar (some y) = 0 →
    s.dev.regAt (some y) off = some (r, off) → r.fields = [x] → x.acc = .rw → x.lsb + x.w ≤ 128 → off < 0x100000 →
    isSetting (some y) off = true → off ≠ 0x8 → (s.dev.yard y).setSnap = none → mbxArea (some y) off = none →
    (off < 0x300 ∨ 0x330 ≤ off) →
    setRuleYard s.dev { s.dev with regs := withFields (some y) s.dev.regs [⟨off, x, clampTo off x (bits v x.lsb x.w)⟩] } y = none →
    Completes (.directSetWrite (.yard y) off r.w v) s (fun d =>
      regField d.regs (barKey (some y) off) x.lsb x.w = clampTo off x (bits v x.lsb x.w) % 2 ^ x.w ∧
      d.mem = s.dev.mem)) ∧
  (∀ (s : State) (r : RRow) (x : FRow) (off v : Nat),
    sound s.dev = true → s.dev.pfOk = true → s.dev.setBar none = 0 → s.dev.regAt none off = some (r, off) →
    r.fields = [x] → x.acc = .rw → x.lsb + x.w ≤ 128 → off < 0x1000000 → isSetting none off = true → off ≠ 0x20018 →
    ramArea none off = false → mbxArea none off = none →
    setRuleDev s.dev { s.dev with regs := withFields none s.dev.regs [⟨off, x, clampTo off x (bits v x.lsb x.w)⟩] } [⟨off, x, clampTo off x (bits v x.lsb x.w)⟩] = none →
    Completes (.directSetWrite .pf off r.w v) s (fun d =>
      regField d.regs off x.lsb x.w = clampTo off x (bits v x.lsb x.w) % 2 ^ x.w ∧
      d.mem = s.dev.mem))

/-- LAY_SET_CMD, YRD_SET_CMD and SET_APPLY start and apply a set (R49, R50, R51, R52, R56). -/
def Obligations.SettingSetCommands : Prop :=
  (∀ (s : State) (v : Nat),
    sound s.dev = true → s.dev.pfOk = true → bit v 0 = true → s.dev.lay.setSnap = none → s.dev.setBar none = 0 →
    1 ≤ bits (s.dev.fld R.LAY_SET_COUNT) 0 10 → bits (s.dev.fld R.LAY_SET_COUNT) 0 10 ≤ 512 →
    Completes (.laySetCmd v) s (fun d => d.fld R.LAY_SET_STATUS_RESULT = 1 ∧
      d.lay.setSnap = some (s.dev.fld R.LAY_SET_ADDR, bits (s.dev.fld R.LAY_SET_COUNT) 0 10,
        s.dev.fld R.LAY_SET_REPORT_ADDR))) ∧
  (∀ (s : State) (y v : Nat),
    sound s.dev = true → y < 12 → s.dev.yfOk y = true → bit v 0 = true → (s.dev.yard y).setSnap = none →
    s.dev.setBar (some y) = 0 → 1 ≤ bits (s.dev.fld (R.YRD_SET_COUNT y)) 0 10 →
    bits (s.dev.fld (R.YRD_SET_COUNT y)) 0 10 ≤ 512 →
    Completes (.yrdSetCmd y v) s (fun d => d.fld (R.YRD_SET_STATUS_RESULT y) = 1 ∧
      (d.yard y).setSnap = some (s.dev.fld (R.YRD_SET_ADDR y), bits (s.dev.fld (R.YRD_SET_COUNT y)) 0 10,
        s.dev.fld (R.YRD_SET_REPORT_ADDR y)))) ∧
  (∀ (s : State) (y : Nat) (bs : List Byte) (e : SetEnt) (a n p : Nat),
    sound s.dev = true → y < 12 → s.dev.ctl.warm = false → s.dev.ctl.tripped = false →
    (s.dev.yard y).resetting = false → (s.dev.yard y).setSnap = some (a, n, p) → s.dev.setBar (some y) = 0 →
    s.dev.canMaster y = true → s.dev.setEnts (some y) n bs = some [e] → e.off ≠ 0x8 → e.f.lsb + e.f.w ≤ 128 →
    setRuleYard { s.dev with yards := Tab.put s.dev.yards y { s.dev.yard y with setSnap := none } } { s.dev with yards := Tab.put s.dev.yards y { s.dev.yard y with setSnap := none }, regs := withFields (some y) s.dev.regs [{ e with value := clampTo e.off e.f e.value }] } y = none →
    Completes (.setApply false y (some bs)) s (fun d => (d.yard y).setSnap = none ∧
      regField d.regs (barKey (some y) e.off) e.f.lsb e.f.w = clampTo e.off e.f e.value % 2 ^ e.f.w))

/-- GO, TAKE, the bell mask, the core requests and the I3C words act as R453 to R457, R461 and R501 give (R453, R454,
  R455, R457, R460, R461, R501). -/
def Obligations.MailboxCommands : Prop :=
  (∀ (s : State) (id c n : Nat) (a : Bool),
    sound s.dev = true → s.dev.ctl.chans.length = 16 → s.dev.idActs id = true → s.dev.endOf id c = some a →
    (s.dev.txBlk c a).go = false → 8 ≤ n → n ≤ 16 →
    Completes (.go id c n) s (fun d => d.txBlk c a = { s.dev.txBlk c a with len := n, go := true } ∧
      d.regs = s.dev.regs ∧ d.mem = s.dev.mem)) ∧
  (∀ (s : State) (id c : Nat) (a : Bool),
    sound s.dev = true → s.dev.ctl.chans.length = 16 → s.dev.idActs id = true → s.dev.endOf id c = some a →
    (s.dev.rxBlk c a).go = true → s.dev.ctl.replies = [] →
    Completes (.take id c) s (fun d => d.rxBlk c a = { s.dev.rxBlk c a with go := false } ∧
      d.txBlk c a = s.dev.txBlk c a ∧ d.regs = s.dev.regs ∧ d.mem = s.dev.mem)) ∧
  (∀ (s : State) (id v : Nat),
    sound s.dev = true → Tab.wfNum s.dev.ctl.unmask = true → s.dev.idActs id = true →
    Completes (.mbxBellMask id v) s (fun d => Tab.num d.ctl.unmask id = 2 ^ 32 - 1 - v % 2 ^ 32 ∧
      d.ctl.bell = s.dev.ctl.bell ∧ d.regs = s.dev.regs)) ∧
  (∀ (s : State) (id c : Nat) (a : Bool) (w : Nat) (b : MsgBlk),
    sound s.dev = true → s.dev.ctl.chans.length = 16 → s.dev.request id c = some (a, w, b) → s.dev.ctl.replies = [] →
    (s.dev.txBlk c a).go = false → bits w 25 7 = 0 → bits w 0 8 = 1 → b.data.length = 16 →
    Completes (.ping id c) s (fun d => (d.rxBlk c a).go = false ∧ (d.txBlk c a).go = true ∧
      (d.txBlk c a).data = (bits w 0 16 + 2 ^ 24) :: b.data.drop 1)) ∧
  (∀ (s : State) (id c : Nat) (a : Bool) (w : Nat) (b : MsgBlk),
    sound s.dev = true → s.dev.ctl.chans.length = 16 → s.dev.request id c = some (a, w, b) → s.dev.ctl.replies = [] →
    (s.dev.txBlk c a).go = false → bits w 25 7 = 0 → bits w 0 8 = 2 →
    Completes (.getInfo id c) s (fun d => (d.rxBlk c a).go = false ∧ (d.txBlk c a).go = true ∧
      (d.txBlk c a).data.take 2 = [bits w 0 16 + 2 ^ 24, id])) ∧
  (∀ (s : State) (id c : Nat) (a : Bool) (w : Nat) (b : MsgBlk),
    sound s.dev = true → s.dev.ctl.chans.length = 16 → s.dev.request id c = some (a, w, b) → s.dev.ctl.replies = [] →
    (s.dev.txBlk c a).go = false → bits w 25 7 = 0 → bits w 0 8 = 3 →
    Completes (.getErr id c) s (fun d => (d.rxBlk c a).go = false ∧ (d.txBlk c a).go = true ∧
      (d.txBlk c a).data.take 6 = [bits w 0 16 + 2 ^ 24, bits s.dev.newestErr 0 32, bits s.dev.newestErr 32 32,
        bits s.dev.newestErr 64 32, bits s.dev.newestErr 96 32, s.dev.fld R.DEV_ERRLOG_HEAD])) ∧
  (∀ (s : State),
    sound s.dev = true → Tab.wfNum s.dev.ctl.ram = true → s.dev.idActs 0x30 = true →
    (∃ e ∈ s.dev.mirror, Tab.num s.dev.ctl.ram e.1 ≠ e.2) →
    Completes .mirrorUpdate s (fun d => (∀ e ∈ s.dev.mirror, Tab.num d.ctl.ram e.1 = e.2 % 2 ^ 32) ∧
      Tab.num d.ctl.ram 0xF000 = (Tab.num s.dev.ctl.ram 0xF000 + 2) % 2 ^ 32)) ∧
  (∀ (s : State) (off v : Nat),
    sound s.dev = true → Tab.wfNum s.dev.ctl.ram = true → s.dev.idActs 0x50 = true → off % 4 = 0 → off < 0xF000 →
    Completes (.i3cPrivateWrite off v) s (fun d => Tab.num d.ctl.ram off = v % 2 ^ 32 ∧ d.mem = s.dev.mem)) ∧
  (∀ (s : State) (v : Nat),
    sound s.dev = true → s.dev.idActs 0x50 = true →
    Completes (.i3cPrivateWrite 0x10000 v) s (fun d => d.ctl.recB = b2n (bit s.dev.ctl.recB 0 &&
      !bit v 0) + 2 * b2n (bit s.dev.ctl.recB 1 && !bit v 1) ∧
      d.regs = s.dev.regs ∧ d.mem = s.dev.mem)) ∧
  (∀ (s : State) (c w v : Nat) (a : Bool),
    sound s.dev = true → s.dev.ctl.chans.length = 16 → s.dev.idActs 0x50 = true → w < 16 →
    s.dev.endOf 0x50 c = some a → (s.dev.txBlk c a).go = false → (s.dev.txBlk c a).data.length = 16 →
    Completes (.i3cPrivateWrite (0x20000 + 0x100 * c + 4 * w) v) s (fun d =>
      d.txBlk c a = { s.dev.txBlk c a with data := (s.dev.txBlk c a).data.set w (v % 2 ^ 32) } ∧
      d.regs = s.dev.regs ∧ d.mem = s.dev.mem)) ∧
  (∀ (s : State) (v : Nat),
    sound s.dev = true → s.dev.ctl.warm = false → s.dev.ctl.tripped = false → s.dev.ctl.pend = none →
    (s.dev.fld R.CRP_PSTATE_STATUS_STATE ≠ 3 ∨ bits v 0 2 = 0) → bits v 0 2 < 2 →
    Completes (.i3cPrivateWrite 0x30000 v) s (fun d => d.fld R.CRP_PSTATE_STATUS_BUSY = 1 ∧
      d.ctl.pend = some (bits v 0 2) ∧ d.mem = s.dev.mem)) ∧
  (∀ (s : State),
    sound s.dev = true → s.dev.ctl.tripped = false →
    Completes (.i3cPrivateWrite 0x30004 0x57525354) s (fun d => d.ctl.warm = true ∧
      d.fld (R.CRP_RESET_CAUSE.sub 3 1) = 1 ∧ d.fld (R.CRP_STATUS.sub 0 2) = 0)) ∧
  (∀ (s : State) (st dy : Nat),
    sound s.dev = true → (st = 0x30 + s.dev.ctl.straps ∨ st = 0x38 + s.dev.ctl.straps) →
    Completes (.setdasa st dy) s (fun d => Tab.find d.ctl.i3cDyn st = some dy ∧ d.regs = s.dev.regs ∧
      d.mem = s.dev.mem))

/-- Watchdog and device-fatal errors and pan failures are marked and logged as R448 and R464 to R467 state (R448,
  R464, R466, R467, R468). -/
def Obligations.ErrorClassCommands : Prop :=
  (∀ (s : State) (c : Nat),
    sound s.dev = true → c < 12 → s.dev.ctl.tripped = false → s.dev.fld ((R.DEV_CORE_STATE c).sub 0 2) = 1 →
    Completes (.coreWatchdogExpiry c) s (fun d => d.fld ((R.DEV_CORE_STATE c).sub 0 2) = 3)) ∧
  (∀ (s : State) (c : Nat),
    sound s.dev = true → (c = 12 ∨ c = 13) → s.dev.ctl.tripped = false →
    s.dev.fld ((R.DEV_CORE_STATE c).sub 0 2) = 1 →
    Completes (.coreWatchdogExpiry c) s (fun d => d.fld ((R.DEV_CORE_STATE c).sub 0 2) = 3 ∧
      d.fld (R.DEV_STATUS.sub 0 1) = 1)) ∧
  (∀ (s : State) (src : Nat),
    sound s.dev = true → s.dev.ctl.tripped = false →
    Completes (.deviceFatal src) s (fun d => d.fld (R.DEV_STATUS.sub 0 1) = 1 ∧ d.fld (R.DEV_EVENTS.sub 4 1) = 1 ∧
      d.ctl.aerUie = true ∧ (s.dev.ctl.hostUp = true → Out.errFatal ∈ d.out))) ∧
  (∀ (s : State) (b k y x : Nat),
    sound s.dev = true → s.dev.yardOf b = some y → s.dev.live y = true → s.dev.panWorks (4 * b + k) = true →
    (s.dev.pan (4 * b + k)).choose = some x → s.dev.panPhys (4 * b + k) < 64 →
    Completes (.panCheckFail b k) s (fun d => bit (d.fld R.DEV_PAN_FAILED) (s.dev.panPhys (4 * b + k)) = true ∧
      d.mem = s.dev.mem)) ∧
  (∀ (s : State) (b k : Nat),
    sound s.dev = true → b < 12 → k < 4 → s.dev.panPhys (4 * b + k) ≠ 0xFF → s.dev.panWorks (4 * b + k) = false →
    s.dev.idActs 0x31 = true → bit (s.dev.fld R.DEV_SPARE_USE) (8 * (b / 3) + 7) = false →
    bit (s.dev.fld R.DEV_PAN_FAILED) (48 + b / 3) = false →
    Completes (.spareSubstitution b k) s (fun d => d.panPhys (4 * b + k) = 48 + b / 3 ∧
      d.fld (R.DEV_SPARE_USE.sub (8 * (b / 3)) 8) = 0x80 + (4 * b + k))) ∧
  (∀ (s : State) (b k : Nat),
    sound s.dev = true → b < 12 → k < 4 → s.dev.panPhys (4 * b + k) ≠ 0xFF → s.dev.panWorks (4 * b + k) = false →
    s.dev.idActs 0x31 = true →
    (bit (s.dev.fld R.DEV_SPARE_USE) (8 * (b / 3) + 7) = true ∨
      bit (s.dev.fld R.DEV_PAN_FAILED) (48 + b / 3) = true) →
    Completes (.spareSubstitution b k) s (fun d => d.panPhys (4 * b + k) = 0xFF ∧
      d.fld R.DEV_SPARE_USE = s.dev.fld R.DEV_SPARE_USE ∧ d.fld (R.DEV_EVENTS.sub 2 1) = 1))

/-- Power-state requests start a change or are refused; a change ends in its state; THERMTRIP cuts the power (R461,
  R481, R482, R483). -/
def Obligations.PowerRequests : Prop :=
  (∀ (s : State) (v : Nat),
    sound s.dev = true → s.dev.pfOk = true → s.dev.ctl.pend = none →
    (bits v 0 2 = 2 → (List.range 12).all (fun b => !bit (s.dev.fld R.CRP_PARK) b || s.dev.bayClean b) = true) →
    (bits v 0 2 = 3 → (List.range 12).all s.dev.bayClean = true) →
    Completes (.crpPstateReq v) s (fun d => d.fld R.CRP_PSTATE_STATUS_BUSY = 1 ∧ d.ctl.pend = some (bits v 0 2) ∧
      d.fld R.CRP_PSTATE_REQ = bits v 0 2 ∧ d.mem = s.dev.mem)) ∧
  (∀ (s : State) (v b : Nat),
    sound s.dev = true → s.dev.pfOk = true → s.dev.ctl.pend = none → bits v 0 2 = 3 → b < 12 →
    s.dev.bayClean b = false →
    Completes (.crpPstateReq v) s (fun d => d.fld R.CRP_PSTATE_STATUS_REFUSED = 1 ∧ d.ctl.pend = none ∧
      d.mem = s.dev.mem)) ∧
  (∀ (s : State) (v : Nat),
    sound s.dev = true → s.dev.ctl.warm = false → s.dev.ctl.tripped = false → s.dev.ctl.pend = none →
    (s.dev.fld R.CRP_PSTATE_STATUS_STATE ≠ 3 ∨ bits v 0 2 = 0 ∨ bits v 0 2 = 3) →
    (bits v 0 2 = 2 → (List.range 12).all (fun b => !bit (s.dev.fld R.CRP_PARK) b || s.dev.bayClean b) = true) →
    (bits v 0 2 = 3 → (List.range 12).all s.dev.bayClean = true) →
    Completes (.bmcPstateReq v) s (fun d => d.fld R.CRP_PSTATE_STATUS_BUSY = 1 ∧ d.ctl.pend = some (bits v 0 2) ∧
      d.mem = s.dev.mem)) ∧
  (∀ (s : State) (temp : Nat),
    sound s.dev = true → s.dev.ctl.tripped = false → s.dev.fld (R.CRP_THERM_LIMIT.sub 0 8) < temp →
    Completes (.thermalThrottle temp) s (fun d => d.ctl.rate16 = max 1 (s.dev.ctl.rate16 - 1) ∧
      d.fld (R.CRP_STATUS.sub 2 1) = 1 ∧ d.fld (R.CRP_THERM.sub 0 8) = min temp 255 ∧ d.mem = s.dev.mem)) ∧
  (∀ (s : State) (temp : Nat),
    sound s.dev = true → s.dev.ctl.tripped = false → temp + 5 ≤ s.dev.fld (R.CRP_THERM_LIMIT.sub 0 8) →
    Completes (.throttleRaise temp) s (fun d => d.ctl.rate16 = min 16 (s.dev.ctl.rate16 + 1) ∧
      d.fld (R.CRP_THERM.sub 0 8) = min temp 255 ∧ d.mem = s.dev.mem)) ∧
  (∀ (s : State) (l : Nat),
    sound s.dev = true → l < 48 →
    (s.dev.fld R.CRP_PSTATE_STATUS_STATE = 1 ∨ s.dev.fld R.CRP_PSTATE_STATUS_STATE = 2) → s.dev.linkState l = 3 →
    (s.dev.link l).queue = [] → (s.dev.link l).unacked = [] →
    Completes (.linkQuiet l) s (fun d => (d.link l).quiet = true ∧ d.out = s.dev.out ∧ d.regs = s.dev.regs ∧
      d.mem = s.dev.mem)) ∧
  (∀ (s : State),
    sound s.dev = true → s.dev.ctl.perst = true → s.dev.fld R.CRP_PSTATE_STATUS_STATE ≠ 3 →
    Completes .perstDeassert s (fun d => d.ctl.perst = false ∧ d.ctl.hostUp = !s.dev.ctl.tripped ∧
      d.regs = s.dev.regs)) ∧
  (∀ (s : State) (y : Nat),
    sound s.dev = true → s.dev.isYard y = true → (s.dev.yard y).resetting = true → s.dev.ctl.warm = false →
    Completes (.yardResetDone y) s (fun d => d.yard y = { s.dev.yard y with resetting := false } ∧
      d.regs = s.dev.regs ∧ d.mem = s.dev.mem)) ∧
  (∀ (s : State) (p : Nat),
    sound s.dev = true → s.dev.ctl.warm = false → s.dev.ctl.tripped = false → s.dev.ctl.pend = some p → p < 4 →
    (s.dev.fld R.CRP_PSTATE_STATUS_STATE ≠ 3 ∨ p = 3) →
    Completes .pstateChangeDone s (fun d => d.fld R.CRP_PSTATE_STATUS_STATE = p ∧
      d.fld R.CRP_PSTATE_STATUS_BUSY = 0 ∧ d.ctl.pend = none)) ∧
  (∀ (s : State) (temp : Nat),
    sound s.dev = true → 115 ≤ temp → s.dev.ctl.tripped = false →
    Completes (.thermtrip temp) s (fun d => d.ctl.tripped = true ∧ Out.pin "THERMTRIP_N" false ∈ d.out ∧
      d.fld (R.CRP_STATUS.sub 0 2) = 0 ∧ d.mem = s.dev.mem))

/-- Warm resets start with their cause and end in READY (R475, R477, R479, R464). -/
def Obligations.WarmResets : Prop :=
  (∀ (s : State),
    sound s.dev = true → s.dev.ctl.tripped = false → s.dev.fld R.CRP_PSTATE_STATUS_STATE ≠ 3 →
    Completes .warmReset s (fun d => d.ctl.warm = true ∧ d.fld (R.CRP_RESET_CAUSE.sub 1 1) = 1 ∧
      d.fld (R.CRP_STATUS.sub 0 2) = 0 ∧ d.fld (R.DEV_STATUS.sub 0 1) = 0 ∧ d.sec.keyCount = s.dev.sec.keyCount)) ∧
  (∀ (s : State),
    sound s.dev = true → s.dev.pfOk = true →
    Completes (.crpResetCmd 0x57525354) s (fun d => d.ctl.warm = true ∧ d.fld (R.CRP_RESET_CAUSE.sub 2 1) = 1 ∧
      d.fld (R.CRP_STATUS.sub 0 2) = 0 ∧ d.fld (R.DEV_STATUS.sub 0 1) = 0 ∧ d.sec.keyCount = s.dev.sec.keyCount)) ∧
  (∀ (s : State),
    sound s.dev = true → s.dev.ctl.tripped = false →
    Completes (.bmcWarmReset 0x57525354) s (fun d => d.ctl.warm = true ∧ d.fld (R.CRP_RESET_CAUSE.sub 3 1) = 1 ∧
      d.fld (R.CRP_STATUS.sub 0 2) = 0 ∧ d.fld (R.DEV_STATUS.sub 0 1) = 0 ∧ d.sec.keyCount = s.dev.sec.keyCount)) ∧
  (∀ (s : State),
    sound s.dev = true → s.dev.ctl.warm = true → s.dev.ctl.tripped = false →
    Completes .warmResetDone s (fun d => d.ctl.warm = false ∧ d.fld (R.CRP_STATUS.sub 0 2) = 3 ∧ d.mem = s.dev.mem))

/-- A yard reset starts: the plan goes, the keys stay (R477, R478, R480). -/
def Obligations.YardResets : Prop :=
  (∀ (s : State) (y : Nat),
    sound s.dev = true → s.dev.present y = true → s.dev.bayState y ≠ 2 → s.dev.ctl.hostUp = true →
    s.dev.ctl.warm = false →
    Completes (.functionLevelReset y) s (fun d => (d.yard y).resetting = true ∧ (d.yard y).plan = none ∧
      (d.yard y).keys = (s.dev.yard y).keys)) ∧
  (∀ (s : State) (v y : Nat),
    sound s.dev = true → s.dev.pfOk = true → s.dev.isYard y = true → s.dev.bayState y ≠ 2 → bit v y = true →
    s.dev.fnState y = 2 →
    Completes (.crpBayReset v) s (fun d => (d.yard y).resetting = true ∧ (d.yard y).plan = none ∧
      (d.yard y).keys = (s.dev.yard y).keys))

/-- ENABLE, RELEASE and the rake move bays and functions as R294 and R441 give (R294, R296, R420, R435, R441). -/
def Obligations.EnableReleaseRake : Prop :=
  (∀ (s : State) (b : Nat),
    sound s.dev = true → s.dev.pfOk = true → s.dev.ctl.pend = none → s.dev.isYard b = true → s.dev.fnState b = 1 →
    s.dev.enableBarred b = false →
    Completes (.enable b) s (fun d => d.fnState b = 2 ∧ (∀ c ∈ s.dev.baysOf b, d.bayState c = 1) ∧
      (d.yard b).xts = some s.dev.sec.drbgIx ∧ (d.yard b).tdi = 0)) ∧
  (∀ (s : State) (b : Nat),
    sound s.dev = true → s.dev.pfOk = true → s.dev.isYard b = true → s.dev.fnState b = 2 →
    Completes (.release b) s (fun d => d.fnState b = 3 ∧ (∀ c ∈ s.dev.baysOf b, d.bayState c = 2))) ∧
  (∀ (s : State) (y : Nat),
    sound s.dev = true → s.dev.yfOk y = true →
    Completes (.yrdRelease y 0x5253) s (fun d => d.fnState y = 3 ∧ (∀ c ∈ s.dev.baysOf y, d.bayState c = 2))) ∧
  (∀ (s : State) (y a b : Nat),
    sound s.dev = true → s.dev.isYard y = true → s.dev.bayState y = 2 → (s.dev.yard y).drained = false →
    s.dev.ctl.tripped = false → a < s.dev.capacity y 0 → b < s.dev.capacity y 1 →
    Completes (.rakeDrainEnd y) s (fun d => (d.yard y).drained = true ∧ (d.yard y).plan = none ∧
      (d.yard y).keys = none ∧ d.mem.byte (s.dev.addr y 0 a) = 0 ∧ d.mem.byte (s.dev.addr y 1 b) = 0)) ∧
  (∀ (s : State) (y : Nat),
    sound s.dev = true → s.dev.isYard y = true → s.dev.fnState y = 3 → s.dev.bayState y = 2 →
    (s.dev.yard y).drained = true → s.dev.ctl.tripped = false →
    Completes (.rakeComplete y) s (fun d => d.fnState y = 1 ∧ (∀ c ∈ s.dev.baysOf y, d.bayState c = 3)))

/-- Configuration requests and host resets act as R292, R315 and R318 state (R292, R315, R318, R353, R476). -/
def Obligations.HostLinkCommands : Prop :=
  (∀ (s : State) (y : Nat),
    sound s.dev = true → y < 12 → s.dev.ctl.hostUp = true → s.dev.ctl.tripped = false →
    s.dev.on (R.CRP_STATUS.sub 0 1) = true → s.dev.present y = true →
    Completes (.configRequest (y + 1) false none) s (fun d => d.out = s.dev.out ++ [.configDone (y + 1)] ∧
      d.regs = s.dev.regs ∧ d.mem = s.dev.mem)) ∧
  (∀ (s : State) (y : Nat) (on : Bool),
    sound s.dev = true → y < 12 → s.dev.ctl.hostUp = true → s.dev.ctl.tripped = false →
    s.dev.on (R.CRP_STATUS.sub 0 1) = true → s.dev.present y = true →
    Completes (.configRequest (y + 1) false (some (.ats on))) s (fun d => d.out = s.dev.out ++ [.configDone (y + 1)] ∧
      d.fld (R.XLT_STATUS_ATS_EN y) = b2n on ∧ d.mem = s.dev.mem)) ∧
  (∀ (s : State) (y : Nat) (on : Bool),
    sound s.dev = true → y < 12 → s.dev.ctl.hostUp = true → s.dev.ctl.tripped = false →
    s.dev.on (R.CRP_STATUS.sub 0 1) = true → s.dev.present y = true →
    Completes (.configRequest (y + 1) false (some (.pri on))) s (fun d => d.out = s.dev.out ++ [.configDone (y + 1)] ∧
      d.fld (R.XLT_STATUS_PRI_EN y) = b2n on ∧ d.mem = s.dev.mem)) ∧
  (∀ (s : State) (k : Bool) (w : Option CfgWrite),
    sound s.dev = true → s.dev.ctl.hostUp = true → s.dev.ctl.tripped = false →
    s.dev.on (R.CRP_STATUS.sub 0 1) = true →
    Completes (.configRequest 0 k w) s (fun d => d.out = s.dev.out ++ [.configDone 0] ∧ d.regs = s.dev.regs ∧
      d.mem = s.dev.mem)) ∧
  (∀ (s : State) (n : Nat) (k : Bool) (w : Option CfgWrite),
    sound s.dev = true → s.dev.ctl.hostUp = true → s.dev.ctl.tripped = false → s.dev.ctl.warm = false →
    s.dev.on (R.CRP_STATUS.sub 0 1) = false →
    Completes (.configRequest n k w) s (fun d => d.out = s.dev.out ++ [.requestRetry n] ∧ d.regs = s.dev.regs ∧
      d.mem = s.dev.mem)) ∧
  (∀ (s : State) (y : Nat) (k : Bool) (w : Option CfgWrite),
    sound s.dev = true → s.dev.ctl.hostUp = true → s.dev.ctl.tripped = false →
    s.dev.on (R.CRP_STATUS.sub 0 1) = true → s.dev.isYard y = false →
    Completes (.configRequest (y + 1) k w) s (fun d => d.out = s.dev.out ++ [.unsupportedRequest (y + 1)] ∧
      d.regs = s.dev.regs ∧ d.mem = s.dev.mem)) ∧
  (∀ (s : State) (k : HostResetKind),
    sound s.dev = true → s.dev.ctl.tripped = false →
    Completes (.hostReset k) s (fun d => d.sec.ideKeys = [] ∧ d.ctl.msixOpen = [] ∧ d.ctl.msixPend = [] ∧
      d.ctl.hostUp = (s.dev.ctl.hostUp && k == .hotReset)))

/-- FREEZE takes effect at once, or at a step boundary (R484). -/
def Obligations.FreezeCommands : Prop :=
  (∀ (s : State) (y mode : Nat),
    sound s.dev = true → s.dev.yfOk y = true → s.dev.fld (R.YRD_FRZ_STATUS_STATE y) = 0 →
    (mode % 2 = 1 ∨ s.dev.plnState y ∉ [3, 4]) →
    Completes (.freeze y mode) s (fun d => d.fld (R.YRD_FRZ_STATUS_STATE y) = 2 ∧ d.fld (R.YRD_STATE_FROZEN y) = 1 ∧
      d.fld (R.PLN_STATUS_STATE y) = 6 ∧ d.fld (R.YRD_FRZ_STATUS_RESULT y) = 0 ∧
        d.fld (R.YRD_FRZ_STATUS_DONE y) = 1)) ∧
  (∀ (s : State) (y mode : Nat),
    sound s.dev = true → s.dev.yfOk y = true → s.dev.fld (R.YRD_FRZ_STATUS_STATE y) = 0 → mode % 2 = 0 →
    s.dev.plnState y ∈ [3, 4] →
    Completes (.freeze y mode) s (fun d => d.fld (R.YRD_FRZ_STATUS_STATE y) = 1 ∧ d.out = s.dev.out ∧
      d.mem = s.dev.mem)) ∧
  (∀ (s : State) (y v : Nat),
    sound s.dev = true → s.dev.pfOk = true → s.dev.isYard y = true → bit v y = true → s.dev.yfOk y = true →
    s.dev.fld (R.YRD_FRZ_STATUS_STATE y) = 0 → (bit v 12 = true ∨ s.dev.plnState y ∉ [3, 4]) →
    Completes (.crpFreezeReq v) s (fun d => d.fld (R.YRD_FRZ_STATUS_STATE y) = 2 ∧ d.fld (R.YRD_STATE_FROZEN y) = 1 ∧
      d.fld (R.PLN_STATUS_STATE y) = 6)) ∧
  (∀ (s : State) (y : Nat) (f : Frz),
    sound s.dev = true → s.dev.live y = true → s.dev.fld (R.YRD_FRZ_STATUS_STATE y) = 1 →
    (s.dev.yard y).frz = some f → (s.dev.yard y).thrs.all (fun h => h.active.isNone) = true →
    ((s.dev.yard y).failed = true ∨ (List.range (s.dev.yard y).thrs.length).all (fun t => !((s.dev.yard y).plan.map (fun p => s.dev.opOpen y t p)).getD false) = true) →
    Completes (.freezeTakesEffect y) s (fun d => d.fld (R.YRD_FRZ_STATUS_STATE y) = 2 ∧
      d.fld (R.YRD_STATE_FROZEN y) = 1 ∧ d.fld (R.PLN_STATUS_STATE y) = 6 ∧
      (d.yard y).frz = some { f with prior := s.dev.plnState y })) ∧
  (∀ (s : State) (y v : Nat),
    sound s.dev = true → s.dev.yfOk y = true →
    Completes (.yrdFrzAck y v) s (fun d => d.fld (R.YRD_FRZ_ACK y) = v % 2 ^ (R.YRD_FRZ_ACK y).w ∧
      d.out = s.dev.out ∧ d.mem = s.dev.mem))

/-- SAVE, RESTORE, their parts and RESUME move a frozen yard as R486 to R490 give (R486, R487, R489, R490). -/
def Obligations.SaveAndRestoreCommands : Prop :=
  (∀ (s : State) (y : Nat) (f : Frz),
    sound s.dev = true → s.dev.yfOk y = true → s.dev.fld (R.YRD_FRZ_STATUS_STATE y) = 2 →
    (s.dev.yard y).frz = some f →
    Completes (.resume y) s (fun d => d.fld (R.YRD_FRZ_STATUS_RESULT y) = 0 ∧ d.fld (R.YRD_FRZ_STATUS_DONE y) = 1)) ∧
  (∀ (s : State) (y : Nat) (f : Frz) (ks : KeySet),
    sound s.dev = true → s.dev.yfOk y = true → s.dev.fld (R.YRD_FRZ_STATUS_STATE y) = 2 →
    (s.dev.yard y).frz = some f → (s.dev.yard y).keys = some ks → s.dev.mem.uc = [] →
    s.dev.farPorts.all (fun q => s.dev.on (R.MEM_FAR_PORT_LINK_UP q)) = true →
    Completes (.save y) s (fun d => d.fld (R.YRD_FRZ_STATUS_STATE y) = 3 ∧ d.fld (R.YRD_FRZ_DONE y) = 0 ∧
      d.fld (R.YRD_FRZ_BLOB_ID y) = Config.drbg s.dev.sec.drbgIx % 2 ^ (R.YRD_FRZ_BLOB_ID y).w ∧ d.mem = s.dev.mem)) ∧
  (∀ (s : State) (y : Nat) (f : Frz) (ks : KeySet) (k : Nat),
    sound s.dev = true → s.dev.fld (R.YRD_FRZ_STATUS_STATE y) = 3 → (s.dev.yard y).frz = some f →
    (s.dev.yard y).keys = some ks → s.dev.partsMove y = true → s.dev.keyed y = true →
    s.dev.fld (R.YRD_FRZ_DONE y) = k → k + 1 < s.dev.fld (R.YRD_FRZ_PARTS y) → k < s.dev.fld (R.YRD_FRZ_ACK y) + 2 →
    Completes (.savePart y) s (fun d => d.fld (R.YRD_FRZ_DONE y) = k + 1 ∧ d.fld (R.YRD_FRZ_STATUS_STATE y) = 3 ∧
      d.mem = s.dev.mem)) ∧
  (∀ (s : State) (y : Nat) (f : Frz) (ks : KeySet),
    sound s.dev = true → s.dev.yfOk y = true → s.dev.fld (R.YRD_FRZ_STATUS_STATE y) = 2 →
    (s.dev.yard y).frz = some f → (s.dev.yard y).keys = some ks → f.prior = 0 →
    (ofYard s.dev.conns y).all (fun e => e.2.st == 0) = true → s.dev.ctxCount y = 0 →
    Completes (.restore y) s (fun d => d.fld (R.YRD_FRZ_STATUS_STATE y) = 4 ∧ d.fld (R.YRD_FRZ_DONE y) = 0 ∧
      d.mem = s.dev.mem)) ∧
  (∀ (s : State) (y : Nat) (obj : List Byte) (f : Frz) (ks : KeySet) (k : Nat),
    sound s.dev = true → s.dev.fld (R.YRD_FRZ_STATUS_STATE y) = 4 → (s.dev.yard y).frz = some f →
    (s.dev.yard y).keys = some ks → s.dev.partsMove y = true → s.dev.fld (R.YRD_FRZ_DONE y) = k →
    k < s.dev.fld (R.YRD_FRZ_ACK y) →
    Completes (.restorePart y obj) s (fun d => (let p := openObject ks 1 (obj.take (48 + le obj 0x18 8));
      if s.dev.partCode y k p ≠ 0 then d.fld (R.YRD_FRZ_STATUS_STATE y) = 5 ∧
      d.fld (R.YRD_FRZ_STATUS_RESULT y) = s.dev.partCode y k p else k + 1 < le (p.getD []) 12 4 →
      d.fld (R.YRD_FRZ_DONE y) = k + 1)))

/-- Page responses, time-outs and ATS invalidations act as R340 to R344 state (R340, R341, R343, R344). -/
def Obligations.PageFaultCommands : Prop :=
  (∀ (s : State) (y pasid page : Nat) (f : FaultEnt),
    sound s.dev = true → y < 12 → s.dev.sentFault y pasid page = some f →
    f.waiters.all (fun w => match w with | .ring _ => false | _ => true) = true →
    (List.range (s.dev.yard y).thrs.length).all (fun t => ((s.dev.lapCtx y t).bind (fun z => z.L.stall)).isNone) = true →
    Completes (.pageResponse y pasid page (.success true)) s (fun d => (∀ g ∈ (d.yard y).faults, ¬(g.pasid = pasid ∧
      g.page = page)) ∧
      d.fld (R.XLT_FAULT_PENDING y) = s.dev.fld (R.XLT_FAULT_PENDING y) - 1 ∧ d.mem = s.dev.mem)) ∧
  (∀ (s : State) (y pasid page : Nat) (f : FaultEnt),
    sound s.dev = true → y < 12 → s.dev.sentFault y pasid page = some f → f.hasLocal = false →
    Completes (.pageResponse y pasid page (.success false)) s (fun d => (∀ g ∈ (d.yard y).faults, ¬(g.pasid = pasid ∧
      g.page = page)) ∧
      d.fld (R.XLT_FAULT_PENDING y) = s.dev.fld (R.XLT_FAULT_PENDING y) - 1 ∧ d.mem = s.dev.mem)) ∧
  (∀ (s : State) (y pasid page : Nat) (f : FaultEnt),
    sound s.dev = true → y < 12 → s.dev.sentFault y pasid page = some f → f.hasLocal = true → f.replays < f.limit →
    Completes (.pageResponse y pasid page (.success false)) s (fun d => (∃ g ∈ (d.yard y).faults, g.pasid = pasid ∧
      g.page = page ∧ g.replays = f.replays + 1) ∧
      d.regs = s.dev.regs ∧ d.mem = s.dev.mem)) ∧
  (∀ (s : State) (y pasid page : Nat) (f : FaultEnt),
    sound s.dev = true → y < 12 → s.dev.sentFault y pasid page = some f →
    (s.dev.yard y).faults.all (fun g => !g.hasLocal) = true →
    Completes (.pageResponse y pasid page .failure) s (fun d => d.fld (R.XLT_STATUS_PRI_FAILED y) = 1 ∧
      (d.yard y).faults = [] ∧ d.mem = s.dev.mem)) ∧
  (∀ (s : State) (y pasid page : Nat) (f : FaultEnt),
    sound s.dev = true → y < 12 → s.dev.sentFault y pasid page = some f → f.hasLocal = false →
    Completes (.pageResponse y pasid page .invalidRequest) s (fun d =>
      { pasid := pasid, page := page } ∈ (d.yard y).badPages ∧
      (∀ g ∈ (d.yard y).faults, ¬(g.pasid = pasid ∧ g.page = page)) ∧
      d.fld (R.XLT_FAULT_LAST_ADDR y) = page * 4096 % 2 ^ (R.XLT_FAULT_LAST_ADDR y).w)) ∧
  (∀ (s : State) (y pasid page : Nat) (f : FaultEnt),
    sound s.dev = true → y < 12 → s.dev.sentFault y pasid page = some f → f.hasLocal = false →
    Completes (.faultTimeout y pasid page) s (fun d => { pasid := pasid, page := page } ∈ (d.yard y).badPages ∧
      (∀ g ∈ (d.yard y).faults, ¬(g.pasid = pasid ∧ g.page = page)) ∧
      d.fld (R.XLT_FAULT_LAST_ADDR y) = page * 4096 % 2 ^ (R.XLT_FAULT_LAST_ADDR y).w)) ∧
  (∀ (s : State) (y : Nat) (f : FaultEnt),
    sound s.dev = true → (s.dev.yard y).faults = [f] → f.grp = 0 → (s.dev.yard y).alloc ≠ 0 →
    s.dev.canMaster y = true →
    Completes (.batchTimeExpiry y) s (fun d => d.out = s.dev.out ++ [.pageRequest (y + 1) [(f.pasid, f.page,
      f.write)]] ∧
      (d.yard y).faults = [{ f with grp := 1 }] ∧ d.regs = s.dev.regs ∧ d.mem = s.dev.mem)) ∧
  (∀ (s : State) (y pasid page tag : Nat),
    sound s.dev = true → s.dev.present y = true →
    Completes (.atsInvalidate y pasid page tag) s (fun d => (d.yard y).inval = (s.dev.yard y).inval ++ [(pasid, page,
      tag)] ∧
      d.regs = s.dev.regs ∧ d.mem = s.dev.mem)) ∧
  (∀ (s : State) (y tag : Nat) (x : Nat × Nat × Nat),
    sound s.dev = true → (s.dev.yard y).inval.find? (fun x => x.2.2 == tag) = some x →
    Completes (.invalidateCompletion y tag) s (fun d => (d.yard y).inval = (s.dev.yard y).inval.erase x ∧
      d.out = s.dev.out ++ [.invalidateDone (y + 1) tag] ∧ d.regs = s.dev.regs ∧ d.mem = s.dev.mem))

/-- Context and segment commands act as R335 to R338 state (R335, R336, R338). -/
def Obligations.AddressContextCommands : Prop :=
  (∀ (s : State) (y : Nat) (bs : List Byte),
    sound s.dev = true → s.dev.yfOk y = true → (s.dev.yard y).fatal = false → s.dev.frozen y = false →
    s.dev.canMaster y = true → le bs 0 4 < 2 ^ 20 → le bs 4 1 < 2 → zeroAt bs 5 59 = true →
    Tab.find s.dev.ctxs (yk y (le bs 0 4)) = none → s.dev.ctxCount y < s.dev.fld (R.XLT_CTX_COUNT y) →
    (s.dev.yard y).setSnap = none →
    Completes (.ctxCreate y (some bs)) s (fun d => d.fld (R.XLT_CMD_STATUS_RESULT y) = 0 ∧
      d.fld (R.XLT_CMD_STATUS_DONE y) = 1 ∧
      Tab.find d.ctxs (yk y (le bs 0 4)) = some { host := bit (le bs 4 1) 0, segs := [] } ∧ d.mem = s.dev.mem)) ∧
  (∀ (s : State) (y : Nat) (bs : List Byte) (c : AddrCtx),
    sound s.dev = true → s.dev.yfOk y = true → (s.dev.yard y).fatal = false → s.dev.frozen y = false →
    s.dev.canMaster y = true → le bs 0 4 < 2 ^ 20 → le bs 4 1 < 8 → le bs 5 1 < 3 → le bs 8 8 % 4096 = 0 →
    le bs 0x10 8 % 4096 = 0 → le bs 0x10 8 ≠ 0 → zeroAt bs 6 2 = true → zeroAt bs 0x18 40 = true →
    Tab.find s.dev.ctxs (yk y (le bs 0 4)) = some c → Tab.find c.segs (le bs 4 1) = none →
    le bs 8 8 + le bs 0x10 8 ≤ s.dev.capacity y (le bs 5 1) →
    (s.dev.poolRanges y (le bs 5 1)).all (fun r => !(decide (le bs 8 8 < r.2) &&
      decide (r.1 < le bs 8 8 + le bs 0x10 8))) = true →
    (s.dev.yard y).setSnap = none →
    Completes (.segSet y (some bs)) s (fun d => d.fld (R.XLT_CMD_STATUS_RESULT y) = 0 ∧
      d.fld (R.XLT_CMD_STATUS_DONE y) = 1 ∧
      d.seg y (le bs 0 4) (le bs 4 1) = some { tier := le bs 5 1, yaddr := le bs 8 8, len := le bs 0x10 8 } ∧
      d.mem = s.dev.mem)) ∧
  (∀ (s : State) (y : Nat) (bs : List Byte) (c : AddrCtx) (g : Seg),
    sound s.dev = true → s.dev.yfOk y = true → (s.dev.yard y).fatal = false → s.dev.frozen y = false →
    s.dev.canMaster y = true → le bs 0 4 < 2 ^ 20 → le bs 4 1 < 8 → zeroAt bs 5 59 = true →
    Tab.find s.dev.ctxs (yk y (le bs 0 4)) = some c → Tab.wf c.segs = true → Tab.find c.segs (le bs 4 1) = some g →
    s.dev.segHeld y (le bs 0 4) (le bs 4 1) = false → (s.dev.yard y).setSnap = none →
    Completes (.segClear y (some bs)) s (fun d => d.fld (R.XLT_CMD_STATUS_RESULT y) = 0 ∧
      d.fld (R.XLT_CMD_STATUS_DONE y) = 1 ∧ d.seg y (le bs 0 4) (le bs 4 1) = none ∧ d.mem = s.dev.mem)) ∧
  (∀ (s : State) (y : Nat) (bs : List Byte) (c : AddrCtx),
    sound s.dev = true → s.dev.yfOk y = true → (s.dev.yard y).fatal = false → s.dev.frozen y = false →
    s.dev.canMaster y = true → le bs 0 4 < 2 ^ 20 → zeroAt bs 4 60 = true →
    Tab.find s.dev.ctxs (yk y (le bs 0 4)) = some c →
    (ofYard s.dev.rings y).all (fun r => !r.2.sq.bound && !r.2.rq.bound) = true →
    (List.range 8).all (fun g => !s.dev.segHeld y (le bs 0 4) g) = true → (s.dev.yard y).setSnap = none →
    Completes (.ctxDestroy y (some bs)) s (fun d => d.fld (R.XLT_CMD_STATUS_RESULT y) = 0 ∧
      d.fld (R.XLT_CMD_STATUS_DONE y) = 1 ∧ Tab.find d.ctxs (yk y (le bs 0 4)) = none ∧ d.mem = s.dev.mem))

/-- Window commands act as R347 to R351 state (R347, R349, R351, R344, R353). -/
def Obligations.WindowCommands : Prop :=
  (∀ (s : State) (y : Nat) (bs : List Byte) (c : AddrCtx),
    sound s.dev = true → s.dev.yfOk y = true → (s.dev.yard y).fatal = false → s.dev.frozen y = false →
    s.dev.canMaster y = true → le bs 0 4 < 2 ^ 20 → le bs 4 1 < 2 → (le bs 4 1 = 1 ∨ le bs 5 1 < 8) →
    le bs 6 1 < 16 → zeroAt bs 7 1 = true → le bs 8 8 % 64 = 0 → le bs 0x10 8 % 64 = 0 → 64 ≤ le bs 0x10 8 →
    le bs 0x10 8 ≤ 2 ^ 63 → (le bs 0x18 4 = 0xFFFFFF ∨ le bs 0x18 4 < s.dev.connCount y) → zeroAt bs 0x1C 36 = true →
    Tab.find s.dev.ctxs (yk y (le bs 0 4)) = some c →
    (le bs 4 1 = 0 ∨ (c.host = true ∧ le bs 8 8 + le bs 0x10 8 ≤ 2 ^ 64)) →
    (le bs 4 1 = 1 ∨ (s.dev.segAt y (le bs 0 4) (le bs 5 1) (le bs 8 8) (le bs 0x10 8)).isSome = true) →
    (s.dev.yard y).winFresh < s.dev.winCount y → (s.dev.yard y).setSnap = none →
    Completes (.winCreate y (some bs)) s (fun d => d.fld (R.XLT_CMD_STATUS_RESULT y) = 0 ∧
      d.fld (R.XLT_CMD_STATUS_DONE y) = 1 ∧ (d.win y (s.dev.yard y).winFresh).state = 1 ∧
      (d.win y (s.dev.yard y).winFresh).len = le bs 0x10 8 ∧
      d.fld (R.XLT_CMD_KEY y) = ((s.dev.yard y).winFresh * 256 + ((s.dev.win y (s.dev.yard y).winFresh).gen + 1) % 256) % 2 ^ 32 ∧
      d.mem = s.dev.mem)) ∧
  (∀ (s : State) (y : Nat) (bs : List Byte),
    sound s.dev = true → s.dev.yfOk y = true → (s.dev.yard y).fatal = false → s.dev.frozen y = false →
    s.dev.canMaster y = true → zeroAt bs 4 60 = true → le bs 1 3 < s.dev.winCount y →
    (s.dev.win y (le bs 1 3)).gen = le bs 0 1 → (s.dev.win y (le bs 1 3)).state = 1 → (s.dev.yard y).setSnap = none →
    Completes (.winRevoke y (some bs)) s (fun d => d.fld (R.XLT_CMD_STATUS_RESULT y) = 0 ∧
      d.fld (R.XLT_CMD_STATUS_DONE y) = 1 ∧ (d.win y (le bs 1 3)).state = 2 ∧ (d.win y (le bs 1 3)).gen = le bs 0 1 ∧
      d.mem = s.dev.mem)) ∧
  (∀ (s : State) (y i : Nat),
    sound s.dev = true → (s.dev.win y i).state = 2 → (s.dev.win y i).inflight = 0 →
    Completes (.revokeComplete y i) s (fun d => (d.win y i).state = 0 ∧ (d.win y i).gen = (s.dev.win y i).gen ∧
      (d.yard y).winFree = (s.dev.yard y).winFree ++ [i] ∧ d.mem = s.dev.mem)) ∧
  (∀ (s : State) (y : Nat) (bs : List Byte),
    sound s.dev = true → s.dev.yfOk y = true → (s.dev.yard y).fatal = false → s.dev.frozen y = false →
    s.dev.canMaster y = true → le bs 1 3 < s.dev.winCount y → (s.dev.yard y).setSnap = none →
    Completes (.winQuery y (some bs)) s (fun d => d.fld (R.XLT_CMD_STATUS_RESULT y) = 0 ∧
      d.fld (R.XLT_CMD_STATUS_DONE y) = 1 ∧ d.wins = s.dev.wins ∧ d.mem = s.dev.mem)) ∧
  (∀ (s : State) (y : Nat),
    sound s.dev = true → s.dev.yfOk y = true → (s.dev.yard y).fatal = false → s.dev.frozen y = false →
    (s.dev.yard y).setSnap = none →
    Completes (.faultReset y) s (fun d => d.fld (R.XLT_CMD_STATUS_RESULT y) = 0 ∧
      d.fld (R.XLT_CMD_STATUS_DONE y) = 1 ∧ d.fld (R.XLT_STATUS_PRI_FAILED y) = 0 ∧ (d.yard y).badPages = [] ∧
      d.mem = s.dev.mem)) ∧
  (∀ (s : State) (y v k m : Nat),
    sound s.dev = true → s.dev.yfOk y = true → bit v 0 = true → k < 12 → m < 10 →
    Completes (.xltLoftClear y v) s (fun d => d.fld (R.XLT_LOFT_CONFLICT y k m) = 0 ∧ d.mem = s.dev.mem ∧
      d.out = s.dev.out))

/-- Patrol scrub and the far ports act as R332 to R334 and R437 state (R332, R333, R334, R437). -/
def Obligations.MemoryTierEvents : Prop :=
  (∀ (s : State) (dv block y a : Nat),
    sound s.dev = true → bit s.dev.ctl.scrub 0 = true → bit (s.dev.fld R.MEM_SCRUB_CTRL) 0 = true → dv < 24 →
    s.dev.nearBlock dv block = some (y, a) →
    Completes (.patrolScrub dv block .uncorrectable) s (fun d => s.dev.addr y 1 a ∈ d.mem.uc ∧
      d.fld R.MEM_STATUS_UC = 1 ∧ d.fld (R.MEM_UC_LOG.sub 7 1) = 1 ∧ d.mem.cells = s.dev.mem.cells)) ∧
  (∀ (s : State) (dv block : Nat),
    sound s.dev = true → bit s.dev.ctl.scrub 0 = true → dv < 24 →
    Completes (.patrolScrub dv block .good) s (fun d => d.regs = s.dev.regs ∧ d.mem = s.dev.mem ∧
      d.out = s.dev.out)) ∧
  (∀ (s : State) (dv block : Nat),
    sound s.dev = true → bit s.dev.ctl.scrub 0 = true → bit (s.dev.fld R.MEM_SCRUB_CTRL) 0 = true → dv < 24 →
    Completes (.patrolScrub dv block .corrected) s (fun d =>
      d.fld R.MEM_CE_COUNT = (s.dev.fld R.MEM_CE_COUNT + 1) % 2 ^ R.MEM_CE_COUNT.w ∧
      d.mem = s.dev.mem ∧ d.out = s.dev.out)) ∧
  (∀ (s : State) (q : Nat),
    sound s.dev = true → q < 16 → s.dev.on (R.MEM_FAR_PORT_LINK_UP q) = true →
    Completes (.cxlLinkDown q) s (fun d => d.fld (R.MEM_FAR_PORT_LINK_UP q) = 0 ∧ d.fld (R.MEM_FAR_PORT_IDE q) = 0 ∧
      d.fld R.MEM_STATUS_PORT_DOWN = 1 ∧ d.mem = s.dev.mem)) ∧
  (∀ (s : State) (q cap : Nat),
    sound s.dev = true → q < 16 → s.dev.ctl.tripped = false → s.dev.fld R.CRP_PSTATE_STATUS_STATE ≠ 3 →
    Completes (.cxlLinkUp q cap) s (fun d => d.fld (R.MEM_FAR_PORT_LINK_UP q) = 1 ∧
      d.fld (R.MEM_FAR_PORT_IDE q) = 1 ∧ d.fld (R.MEM_FAR_PORT_CAP q) = cap % 2 ^ (R.MEM_FAR_PORT_CAP q).w ∧
      d.out = s.dev.out ++ [.cxlKeys q] ∧ d.mem = s.dev.mem))

/-- LOAD to CLEAR move the sequencer as R121 gives (R117, R121, R122, R124, R125). -/
def Obligations.PlanCommands : Prop :=
  (∀ (s : State) (y : Nat),
    sound s.dev = true → s.dev.yfOk y = true → (s.dev.yard y).fatal = false → s.dev.plnState y = 0 →
    (s.dev.yard y).setSnap = none →
    Completes (.load y) s (fun d => d.plnState y = 1 ∧
      (d.yard y).loadSnap = some (s.dev.fld (R.PLN_IMAGE_ADDR y), s.dev.fld (R.PLN_IMAGE_LEN y)) ∧
      d.fld (R.PLN_STATUS_REFUSED y) = 0 ∧ d.mem = s.dev.mem)) ∧
  (∀ (s : State) (y : Nat),
    sound s.dev = true → s.dev.present y = true → s.dev.plnState y = 1 → s.dev.frozen y = false →
    Completes (.planLoadDone y none) s (fun d => d.plnState y = 0 ∧ d.fld (R.PLN_STATUS_REFUSED y) = 1 ∧
      d.fld (R.PLN_REPORT_CODE y) = 1 + 2 ^ 8 * 0x60 ∧ d.mem = s.dev.mem)) ∧
  (∀ (s : State) (y : Nat) (bs : List Byte) (a n : Nat),
    sound s.dev = true → s.dev.present y = true → s.dev.plnState y = 1 → s.dev.frozen y = false →
    s.dev.canMaster y = true → (s.dev.yard y).loadSnap = some (a, n) →
    Completes (.planLoadDone y (some bs)) s (fun d => (let img := (bs ++ zeros (n - bs.length)).take n;
      let x : PlanCtx := { img := img, p := Plan.parse img, d := s.dev, y := y, bays := (s.dev.baysOf y).length };
      if (checkPlan s.dev y img).isNone ∧ x.placed.toBool = true then d.plnState y = 2 else d.plnState y = 0 ∧
      d.fld (R.PLN_STATUS_REFUSED y) = 1))) ∧
  (∀ (s : State) (y : Nat),
    sound s.dev = true → s.dev.yfOk y = true → (s.dev.yard y).fatal = false → s.dev.plnState y = 2 →
    (s.dev.yard y).setSnap = none →
    Completes (.start y) s (fun d => d.plnState y = 3 ∧ d.fld (R.PLN_ITER_DONE y) = 0 ∧
      (d.yard y).iters = s.dev.fld (R.PLN_ITER_COUNT y) ∧
      (d.yard y).endless = (s.dev.fld (R.PLN_ITER_COUNT y) == 0) ∧ d.mem = s.dev.mem)) ∧
  (∀ (s : State) (y : Nat),
    sound s.dev = true → s.dev.yfOk y = true → (s.dev.yard y).fatal = false → s.dev.plnState y = 3 →
    (s.dev.yard y).setSnap = none →
    Completes (.stop y) s (fun d => d.plnState y = (if (s.dev.yard y).running = true then 4 else 2) ∧
      d.yards = s.dev.yards ∧ d.mem = s.dev.mem)) ∧
  (∀ (s : State) (y : Nat),
    sound s.dev = true → s.dev.yfOk y = true → (s.dev.yard y).fatal = false → s.dev.plnState y ∈ [2, 5] →
    (s.dev.yard y).setSnap = none →
    Completes (.unload y) s (fun d => d.plnState y = 7 ∧ d.yards = s.dev.yards ∧ d.mem = s.dev.mem)) ∧
  (∀ (s : State) (y : Nat),
    sound s.dev = true → s.dev.present y = true → s.dev.plnState y = 7 →
    Completes (.planUnloadDone y) s (fun d => d.plnState y = 0 ∧ (d.yard y).plan = none ∧ (d.yard y).lands = [])) ∧
  (∀ (s : State) (y : Nat),
    sound s.dev = true → s.dev.yfOk y = true → (s.dev.yard y).fatal = false → s.dev.plnState y = 5 →
    (s.dev.yard y).setSnap = none →
    Completes (.clear y) s (fun d => d.plnState y = 2 ∧ d.yards = s.dev.yards ∧ d.mem = s.dev.mem))

/-- Iterations, WAIT, SIGNAL, LOOP, MOVE and event adds act as R103 to R110 state (R103, R105, R108, R109, R110). -/
def Obligations.SequencerCommands : Prop :=
  (∀ (s : State) (y : Nat) (p : Plan) (e : Nat),
    sound s.dev = true → (s.dev.yard y).plan = some p → s.dev.live y = true → (s.dev.yard y).fatal = false →
    (s.dev.yard y).running = false → s.dev.plnState y = 3 → s.dev.fld (R.YRD_FRZ_STATUS_STATE y) ≠ 1 → e < 64 →
    Completes (.iterationStart y) s (fun d => d.fld (R.DRV_EPOCH y) = (s.dev.fld (R.DRV_EPOCH y) + 1) % 256 ∧
      d.fld (R.PLN_EVENT y e) = 0 ∧ (p.threads.all (fun e => e.2 == 0) = true ∨ (d.yard y).running = true) ∧
      d.mem = s.dev.mem)) ∧
  (∀ (s : State) (y t : Nat) (p : Plan) (h : Thr) (st : Machine.Step),
    sound s.dev = true → (s.dev.yard y).plan = some p → (s.dev.yard y).thrs[t]? = some h → p.steps[h.pc]? = some st →
    (s.dev.issue y t tWait).isSome = true → st.isLocal 3 = false →
    Completes (.wait y t) s (fun d => (d.yard y).thrs[t]?.map (fun x => (x.pc, x.waiting)) = some (h.pc, true) ∧
      (d.active y t).map (fun a => (a.step, a.code)) = some (h.pc, none) ∧ d.mem = s.dev.mem)) ∧
  (∀ (s : State) (y t : Nat) (p : Plan) (h : Thr) (st : Machine.Step) (a : Active),
    sound s.dev = true → s.dev.live y = true → (s.dev.yard y).thrs[t]? = some h →
    s.dev.activeStep y t = some (p, st, a) → st.type = tWait →
    st.waitSum a.env ≤ (s.dev.fld (R.PLN_EVENT y (st.sp 0x68 1)) : Int) → (s.dev.yard y).failed = false →
    Completes (.waitSatisfied y t) s (fun d => (d.yard y).thrs[t]? = some h.next ∧ d.mem = s.dev.mem)) ∧
  (∀ (s : State) (y t : Nat) (p : Plan) (h : Thr) (st : Machine.Step),
    sound s.dev = true → (s.dev.yard y).plan = some p → (s.dev.yard y).thrs[t]? = some h → p.steps[h.pc]? = some st →
    (s.dev.issue y t tSignal).isSome = true → st.sp 0x68 1 = 0 → st.sp 0x69 1 < 64 → st.isLocal 3 = false →
    Completes (.signal y t) s (fun d => d.fld (R.PLN_EVENT y (st.sp 0x69 1)) = min (s.dev.fld (R.PLN_EVENT y (st.sp 0x69 1)) + st.sp 0x6C 4) (2 ^ 64 - 1) ∧
      (d.active y t).map (fun a => (a.step, a.code)) = some (h.pc, some 0) ∧ d.mem = s.dev.mem)) ∧
  (∀ (s : State) (y t : Nat) (p : Plan) (h : Thr) (st : Machine.Step),
    sound s.dev = true → (s.dev.yard y).plan = some p → (s.dev.yard y).thrs[t]? = some h → p.steps[h.pc]? = some st →
    (s.dev.issue y t tSignal).isSome = true → st.sp 0x68 1 = 2 → st.isLocal 3 = false →
    Tab.num s.dev.ctl.msixOpen (mk (y + 1) (st.sp 0x6A 2)) ≠ 0 → s.dev.canMaster y = true →
    Completes (.signal y t) s (fun d => d.out = s.dev.out ++
      [.msix (y + 1) (st.sp 0x6A 2) (Tab.num s.dev.ctl.msixEnt (mk (y + 1) (st.sp 0x6A 2)))] ∧
      (d.active y t).map (fun a => (a.step, a.code)) = some (h.pc, some 0) ∧ d.mem = s.dev.mem)) ∧
  (∀ (s : State) (y t : Nat) (p : Plan) (h : Thr) (st : Machine.Step) (kk : KeySet) (b : Nat),
    sound s.dev = true → (s.dev.yard y).plan = some p → (s.dev.yard y).thrs[t]? = some h → p.steps[h.pc]? = some st →
    (s.dev.issue y t tSignal).isSome = true → st.sp 0x68 1 = 1 → st.isLocal 3 = false →
    (s.dev.yard y).keys = some kk → s.dev.keyed y = true → s.dev.group (st.sp 0x70 2) = none →
    s.dev.fab.draining = false → s.dev.bayAt (st.sp 0x70 2) = some b → s.dev.takes b = true →
    Completes (.signal y t) s (fun d => d.out = s.dev.out ++
      [.toBay b (Pkt.sealed { mkPkt 0x33 (st.sp 0x70 2) (s.dev.addrOf (y + t)) (y + t) true (signalBody (st.sp 0x69 1) (st.sp 0x6C 4)) [] with nonce := (s.dev.yard y).fabGen.getD t 0 * 2 ^ 40 + (s.dev.yard y).fabCtr.getD t 0 } kk)] ∧
      (d.active y t).map (fun a => (a.step, a.code)) = some (h.pc, some 0) ∧ d.mem = s.dev.mem)) ∧
  (∀ (s : State) (y t : Nat) (p : Plan) (h : Thr) (st : Machine.Step),
    sound s.dev = true → (s.dev.yard y).plan = some p → (s.dev.yard y).thrs[t]? = some h → p.steps[h.pc]? = some st →
    (s.dev.issue y t tSignal).isSome = true → st.sp 0x68 1 = 1 → st.isLocal 3 = false →
    s.dev.group (st.sp 0x70 2) = none → s.dev.keyed y = false →
    Completes (.signal y t) s (fun d => d.out = s.dev.out ∧
      (d.active y t).map (fun a => (a.step, a.code)) = some (h.pc, some cAuthFailed) ∧ d.mem = s.dev.mem)) ∧
  (∀ (s : State) (y t : Nat) (p : Plan) (h : Thr) (st : Machine.Step),
    sound s.dev = true → (s.dev.yard y).plan = some p → (s.dev.yard y).thrs[t]? = some h → p.steps[h.pc]? = some st →
    (s.dev.issue y t tLoop).isSome = true → st.sp 0x68 2 = 0 →
    Completes (.loop y t) s (fun d => (d.yard y).thrs[t]? = some h.next ∧ d.mem = s.dev.mem)) ∧
  (∀ (s : State) (y t : Nat) (p : Plan) (h : Thr) (st : Machine.Step),
    sound s.dev = true → (s.dev.yard y).plan = some p → (s.dev.yard y).thrs[t]? = some h → p.steps[h.pc]? = some st →
    (s.dev.issue y t tLoop).isSome = true → st.sp 0x68 2 ≠ 0 →
    Completes (.loop y t) s (fun d => ((d.yard y).thrs[t]? = some { h with pc := h.pc + 1, loops := { level := st.sp 0x6A 1, descending := st.sp 0x6B 1 == 1, count := st.count, i := if st.sp 0x6B 1 == 1 then st.count - 1 else 0, start := h.pc + 1, stop := h.pc + 1 + st.sp 0x68 2 } :: h.loops }) ∧
      d.mem = s.dev.mem)) ∧
  (∀ (s : State) (y t : Nat) (p : Plan) (h : Thr) (st : Machine.Step) (host : HostSide) (ta a tb b : Nat),
    sound s.dev = true → (s.dev.yard y).plan = some p → (s.dev.yard y).thrs[t]? = some h → p.steps[h.pc]? = some st →
    (s.dev.issue y t tMove).isSome = true → p.prog st = none → st.isLocal 3 = true →
    s.dev.refPlace y p st h.env 0 = some (.mem ta a) → s.dev.refPlace y p st h.env 3 = some (.mem tb b) → ta ≠ 2 →
    tb ≠ 2 → s.dev.mem.uc = [] →
    Completes (.move y t host) s (fun d => d.mem.read (s.dev.addr y tb b) st.count = s.dev.mem.read (s.dev.addr y ta a) st.count ∧
      (∀ x, (x < s.dev.addr y tb b ∨ s.dev.addr y tb b + st.count ≤ x) → d.mem.byte x = s.dev.mem.byte x) ∧
      (d.active y t).map (fun a => (a.step, a.code)) = some (h.pc, some 0) ∧ d.out = s.dev.out)) ∧
  (∀ (s : State) (y t : Nat) (p : Plan) (h : Thr) (st : Machine.Step) (host : HostSide) (ps va tb b : Nat),
    sound s.dev = true → (s.dev.yard y).plan = some p → (s.dev.yard y).thrs[t]? = some h → p.steps[h.pc]? = some st →
    (s.dev.issue y t tMove).isSome = true → p.prog st = none → st.isLocal 3 = true →
    s.dev.refPlace y p st h.env 0 = some (.host ps va) → s.dev.refPlace y p st h.env 3 = some (.mem tb b) → tb ≠ 2 →
    s.dev.mem.uc = [] → st.count ≠ 0 → s.dev.canMaster y = true → host.xl = .hit → (s.dev.yard y).inval = [] →
    host.bad = false →
    Completes (.move y t host) s (fun d => d.mem.read (s.dev.addr y tb b) st.count = (host.data ++
      zeros (st.count - host.data.length)).take st.count ∧
      (∀ x, (x < s.dev.addr y tb b ∨ s.dev.addr y tb b + st.count ≤ x) → d.mem.byte x = s.dev.mem.byte x) ∧
      (d.active y t).map (fun a => (a.step, a.code)) = some (h.pc, some 0) ∧
      d.out = s.dev.out ++ [.hostVRead (y + 1) ps va st.count])) ∧
  (∀ (s : State) (y t : Nat) (p : Plan) (h : Thr) (st : Machine.Step) (host : HostSide) (ta a ps va : Nat),
    sound s.dev = true → (s.dev.yard y).plan = some p → (s.dev.yard y).thrs[t]? = some h → p.steps[h.pc]? = some st →
    (s.dev.issue y t tMove).isSome = true → p.prog st = none → s.dev.refPlace y p st h.env 0 = some (.mem ta a) →
    s.dev.refPlace y p st h.env 3 = some (.host ps va) → ta ≠ 2 → s.dev.mem.uc = [] → st.count ≠ 0 →
    s.dev.canMaster y = true → host.xl = .hit → (s.dev.yard y).inval = [] → host.bad = false →
    Completes (.move y t host) s (fun d => d.out = s.dev.out ++
      [.hostVWrite (y + 1) ps va (s.dev.mem.read (s.dev.addr y ta a) st.count) (bit (s.dev.fld (R.YRD_HOST_CTRL y)) 0)] ∧
      (d.active y t).map (fun a => (a.step, a.code)) = some (h.pc, some 0) ∧ d.mem = s.dev.mem)) ∧
  (∀ (s : State) (y t : Nat) (p : Plan) (h : Thr) (st : Machine.Step) (host : HostSide) (g : Prog),
    sound s.dev = true → (s.dev.yard y).plan = some p → (s.dev.yard y).thrs[t]? = some h → p.steps[h.pc]? = some st →
    (s.dev.issue y t tMove).isSome = true → p.prog st = some g → st.isLocal 3 = false → g.lanes ≠ 0 →
    g.lanes ≤ st.count →
    Completes (.move y t host) s (fun d => (d.active y t).map (fun a => (a.step, a.code)) = some (h.pc, none) ∧
      d.mem = s.dev.mem ∧ d.out = s.dev.out)) ∧
  (∀ (s : State) (y v : Nat),
    sound s.dev = true → s.dev.cmdOk y = true →
    Completes (.plnEventAdd y v) s (fun d => d.fld (R.PLN_EVENT y (bits v 0 6)) = min (s.dev.fld (R.PLN_EVENT y (bits v 0 6)) + bits v 8 24) (2 ^ 64 - 1) ∧
      d.mem = s.dev.mem ∧ d.out = s.dev.out))

/-- Pan beats, operand arrival and the pan tests act as R59, R81, R86, R89 and R90 state (R59, R81, R86, R89, R90). -/
def Obligations.PanCommands : Prop :=
  (∀ (s : State) (b k y x : Nat) (r : RunSpec),
    sound s.dev = true → k < 4 → s.dev.yardOf b = some y → s.dev.live y = true → s.dev.panWorks (4 * b + k) = true →
    (s.dev.pan (4 * b + k)).choose = some x → (s.dev.ctx (4 * b + k) x).spec = some r →
    (s.dev.ctx (4 * b + k) x).beat + 1 < r.beats → s.dev.mem.uc = [] →
    (0 :: s.dev.farPorts).all (fun q => s.dev.on (R.MEM_FAR_PORT_LINK_UP q)) = true → s.dev.canMaster y = true →
    Completes (.panBeat b k) s (fun d => (d.ctx (4 * b + k) x).beat = (s.dev.ctx (4 * b + k) x).beat + 1 ∧
      (d.ctx (4 * b + k) x).st = (if (s.dev.ctx (4 * b + k) x).ahead.isSome then .ready else .wait) ∧
      (d.ctx (4 * b + k) x).ops = (s.dev.ctx (4 * b + k) x).ahead.getD [] ∧
      (d.ctx (4 * b + k) x).regs = (beatRun r.prog (r.beatAt (s.dev.ctx (4 * b + k) x).beat) (r.values (s.dev.ctx (4 * b + k) x).ops) (r.regsAt (s.dev.ctx (4 * b + k) x).beat (s.dev.ctx (4 * b + k) x).regs)).regs ∧
      d.fld (R.PAN_BEATS y) = (s.dev.fld (R.PAN_BEATS y) + 1) % 2 ^ (R.PAN_BEATS y).w)) ∧
  (∀ (s : State) (b k y x : Nat) (r : RunSpec),
    sound s.dev = true → k < 4 → s.dev.yardOf b = some y → s.dev.live y = true → s.dev.panWorks (4 * b + k) = true →
    (s.dev.pan (4 * b + k)).choose = some x → (s.dev.ctx (4 * b + k) x).spec = some r →
    r.beats ≤ (s.dev.ctx (4 * b + k) x).beat + 1 → s.dev.mem.uc = [] →
    (0 :: s.dev.farPorts).all (fun q => s.dev.on (R.MEM_FAR_PORT_LINK_UP q)) = true → s.dev.canMaster y = true →
    r.dst ≠ .chunk →
    Completes (.panBeat b k) s (fun d => d.fld (R.PAN_RUNS y) = (s.dev.fld (R.PAN_RUNS y) + 1) % 2 ^ (R.PAN_RUNS y).w ∧
      d.fld (R.PAN_BEATS y) = (s.dev.fld (R.PAN_BEATS y) + 1) % 2 ^ (R.PAN_BEATS y).w)) ∧
  (∀ (s : State) (b k x : Nat) (host : List HostSide) (y : Nat) (r : RunSpec),
    sound s.dev = true → k < 4 → s.dev.yardOf b = some y → s.dev.live y = true →
    (s.dev.ctx (4 * b + k) x).spec = some r → (s.dev.ctx (4 * b + k) x).st = .wait →
    (List.range r.prog.inFmts.length).all (fun j => match r.opnd j (s.dev.ctx (4 * b + k) x).beat with | .given _ _ => true | .at q _ sq _ => !q.inHost && !sq.inHost) = true →
    (match r.dst with | .at q _ => !q.inHost | _ => true) = true → s.dev.mem.uc = [] →
    (0 :: s.dev.farPorts).all (fun q => s.dev.on (R.MEM_FAR_PORT_LINK_UP q)) = true →
    Completes (.contextReady b k x host none) s (fun d => (d.ctx (4 * b + k) x).st = .ready ∧
      (d.ctx (4 * b + k) x).f = max (s.dev.ctx (4 * b + k) x).f (s.dev.pan (4 * b + k)).v ∧ d.mem = s.dev.mem ∧
      d.out = s.dev.out)) ∧
  (∀ (s : State) (y v : Nat),
    sound s.dev = true → s.dev.cmdOk y = true → bit v 0 = true → (s.dev.yard y).kat = none →
    (s.dev.yard y).setSnap = none →
    Completes (.panKatCmd y v) s (fun d => (d.yard y).kat = some (philox (bits (s.dev.fld (R.PAN_KAT_CTR_LO y)) 0 32) (bits (s.dev.fld (R.PAN_KAT_CTR_LO y)) 32 32) (bits (s.dev.fld (R.PAN_KAT_CTR_HI y)) 0 32) (bits (s.dev.fld (R.PAN_KAT_CTR_HI y)) 32 32) (bits (s.dev.fld (R.PAN_KAT_KEY y)) 0 32) (bits (s.dev.fld (R.PAN_KAT_KEY y)) 32 32)) ∧
      d.fld ((R.PAN_KAT_STATUS y).sub 0 1) = 0 ∧ d.mem = s.dev.mem)) ∧
  (∀ (s : State) (y v : Nat) (f : Fmt) (r : Rnd),
    sound s.dev = true → s.dev.cmdOk y = true → bit v 0 = true → (s.dev.yard y).cvt = none →
    Fmt.ofCode (s.dev.fld (R.PAN_CVT_CTRL_FMT y)) = some f → f.isMx = false →
    Rnd.ofCode (s.dev.fld (R.PAN_CVT_CTRL_RND y)) = some r → (s.dev.yard y).setSnap = none →
    Completes (.panCvtCmd y v) s (fun d => (let o := roundTo f r (s.dev.on (R.PAN_CVT_CTRL_SAT y)) (s.dev.fld (R.PAN_CVT_U y)) (Fmt.decodeElem .fp32 (s.dev.fld (R.PAN_CVT_IN y))).exact; (d.yard y).cvt = some (f.encodeElem o.1, 1 + 16 * o.2)) ∧
      d.fld (R.PAN_CVT_STATUS_DONE y) = 0 ∧ d.mem = s.dev.mem)) ∧
  (∀ (s : State) (y : Nat) (w : List Nat),
    sound s.dev = true → s.dev.present y = true → (s.dev.yard y).kat = some w →
    Completes (.panTestDone y true) s (fun d => d.fld (R.PAN_KAT_OUT_LO y) = (w.getD 0 0 + 2 ^ 32 * w.getD 1 0) % 2 ^ 64 ∧
      d.fld (R.PAN_KAT_OUT_HI y) = (w.getD 2 0 + 2 ^ 32 * w.getD 3 0) % 2 ^ 64 ∧
      d.fld ((R.PAN_KAT_STATUS y).sub 0 1) = 1 ∧ (d.yard y).kat = none ∧ d.mem = s.dev.mem)) ∧
  (∀ (s : State) (y : Nat) (w : Nat × Nat),
    sound s.dev = true → s.dev.present y = true → (s.dev.yard y).cvt = some w →
    Completes (.panTestDone y false) s (fun d => d.fld (R.PAN_CVT_OUT y) = w.1 % 2 ^ (R.PAN_CVT_OUT y).w ∧
      (d.yard y).cvt = none ∧ d.mem = s.dev.mem))

/-- Ring steps start their lap, their seal and their fused update (R113, R131, R138, R140, R147, R156, R172, R176,
  R241). -/
def Obligations.RingStepsStart : Prop :=
  (∀ (s : State) (y t : Nat) (p : Plan) (h : Thr) (st : Machine.Step) (host : HostSide) (c : Nat) (k : CommDecl) (x : Comm) (g : Prog),
    sound s.dev = true → (s.dev.yard y).plan = some p → (s.dev.yard y).thrs[t]? = some h → p.steps[h.pc]? = some st →
    (s.dev.issue y t tReduce).isSome = true → st.comm = c → p.decl st = some k → s.dev.comm y c = some x →
    x.verdict = none → s.dev.commSt y c ≤ 1 → (k.n < 2 ∨ s.dev.hopsUp y k = true) → k.n = p.ringN st → x.slots = [] →
    x.txq = [] → st.wireForm = 0 → p.prog st = some g → p.chunks st (segOf false k.n k.pos 0) ≠ 0 →
    Completes (.reduceLap y t host) s (fun d => (d.active y t).map (fun a => (a.step, a.code,
      a.lap.map (fun z => (z.gather, z.own)))) = some (h.pc, none, some (false, 1)) ∧
      (d.active y t).map (fun a => a.live || !a.runs.isEmpty) = some true ∧ d.commSt y c = 1 ∧
      (shedsStay s.dev y p st h.env = true → d.mem = s.dev.mem))) ∧
  (∀ (s : State) (y t : Nat) (p : Plan) (h : Thr) (st : Machine.Step) (host : HostSide) (c : Nat) (k : CommDecl) (x : Comm) (i tier a : Nat),
    sound s.dev = true → (s.dev.yard y).plan = some p → (s.dev.yard y).thrs[t]? = some h → p.steps[h.pc]? = some st →
    (s.dev.issue y t tReduce).isSome = true → st.comm = c → p.decl st = some k → s.dev.comm y c = some x →
    x.verdict = none → s.dev.commSt y c ≤ 1 → (k.n < 2 ∨ s.dev.hopsUp y k = true) → k.n = p.ringN st → x.slots = [] →
    x.credits = 0 → st.wireForm = 1 →
    (List.range 3).find? (fun j => st.selIn j && (st.ref j).buf != 0xFFFF) = some i →
    s.dev.refPlace y p st h.env i = some (.mem tier a) → s.dev.mem.uc = [] →
    (0 :: s.dev.farPorts).all (fun q => s.dev.on (R.MEM_FAR_PORT_LINK_UP q)) = true →
    shedsStay s.dev y p st h.env = true →
    le (s.dev.mem.read (s.dev.addr y tier a) (64 + 64 * ceilDiv st.count 16384)) 0 8 = st.count →
    le (s.dev.mem.read (s.dev.addr y tier a) (64 + 64 * ceilDiv st.count 16384)) 0x30 8 = s.dev.fld (R.PLN_STEP_COUNT y) →
    Completes (.reduceLap y t host) s (fun d => ((d.active y t).map (fun a => (a.step, a.code)) = some (h.pc, none) ∨
      (d.active y t).map (fun a => (a.step, a.code)) = some (h.pc, some 0)) ∧
      d.commSt y c = 1 ∧ d.mem = s.dev.mem)) ∧
  (∀ (s : State) (y t : Nat) (p : Plan) (h : Thr) (st : Machine.Step) (host : HostSide) (c : Nat) (k : CommDecl) (x : Comm) (tier a : Nat),
    sound s.dev = true → (s.dev.yard y).plan = some p → (s.dev.yard y).thrs[t]? = some h → p.steps[h.pc]? = some st →
    (s.dev.issue y t tReduce).isSome = true → st.comm = c → p.decl st = some k → s.dev.comm y c = some x →
    x.verdict = none → s.dev.commSt y c ≤ 1 → (k.n < 2 ∨ s.dev.hopsUp y k = true) → k.n = p.ringN st → x.slots = [] →
    x.credits = 0 → st.wireForm = 2 → s.dev.demandPlace y p (st.sp 0x6C 4) h.env = some (.mem tier a) →
    s.dev.mem.uc = [] → (0 :: s.dev.farPorts).all (fun q => s.dev.on (R.MEM_FAR_PORT_LINK_UP q)) = true →
    Completes (.reduceLap y t host) s (fun d => ((d.active y t).map (fun a => (a.step, a.code)) = some (h.pc, none) ∨
      (d.active y t).map (fun a => (a.step, a.code)) = some (h.pc, some 0)) ∧
      d.commSt y c = 1 ∧ (shedsStay s.dev y p st h.env = true → d.mem = s.dev.mem))) ∧
  (∀ (s : State) (y t : Nat) (p : Plan) (h : Thr) (st : Machine.Step) (host : HostSide) (c : Nat) (k : CommDecl) (x : Comm) (g : Prog) (q : Place × Place),
    sound s.dev = true → (s.dev.yard y).plan = some p → (s.dev.yard y).thrs[t]? = some h → p.steps[h.pc]? = some st →
    (s.dev.issue y t tGather).isSome = true → st.comm = c → p.decl st = some k → s.dev.comm y c = some x →
    x.verdict = none → s.dev.commSt y c ≤ 1 → (k.n < 2 ∨ s.dev.hopsUp y k = true) → k.n = p.ringN st → x.slots = [] →
    x.txq = [] → p.prog st = some g → s.dev.streamAt y p st h.env 0 = some q → p.stepSegUnits st k.pos ≠ 0 →
    Completes (.gatherLap y t host) s (fun d => (d.active y t).map (fun a => (a.step, a.code,
      a.lap.map (fun z => (z.gather, z.ownDone)))) = some (h.pc, none, some (true, false)) ∧
      (d.active y t).map (fun a => a.live || !a.runs.isEmpty) = some true ∧ d.commSt y c = 1 ∧
      (shedsStay s.dev y p st h.env = true → d.mem = s.dev.mem))) ∧
  (∀ (s : State) (y t : Nat) (p : Plan) (h : Thr) (st : Machine.Step) (host : HostSide) (c : Nat) (k : CommDecl) (x : Comm) (tier a : Nat),
    sound s.dev = true → (s.dev.yard y).plan = some p → (s.dev.yard y).thrs[t]? = some h → p.steps[h.pc]? = some st →
    (s.dev.issue y t tGather).isSome = true → st.comm = c → p.decl st = some k → s.dev.comm y c = some x →
    x.verdict = none → s.dev.commSt y c ≤ 1 → (k.n < 2 ∨ s.dev.hopsUp y k = true) → k.n = p.ringN st → x.slots = [] →
    x.credits = 0 → p.prog st = none → k.landGroup = 0xFFFF → st.isLocal 3 = false →
    (s.dev.streamAt y p st h.env 0).map (fun q => q.1) = some (.mem tier a) → s.dev.mem.uc = [] →
    (0 :: s.dev.farPorts).all (fun q => s.dev.on (R.MEM_FAR_PORT_LINK_UP q)) = true →
    Completes (.gatherLap y t host) s (fun d => ((d.active y t).map (fun a => (a.step, a.code)) = some (h.pc, none) ∨
      (d.active y t).map (fun a => (a.step, a.code)) = some (h.pc, some 0)) ∧
      d.commSt y c = 1 ∧ d.mem = s.dev.mem)) ∧
  (∀ (s : State) (y t : Nat) (p : Plan) (h : Thr) (st : Machine.Step) (c : Nat) (k : CommDecl) (x : Comm),
    sound s.dev = true → (s.dev.yard y).plan = some p → (s.dev.yard y).thrs[t]? = some h → p.steps[h.pc]? = some st →
    (s.dev.issue y t tSeal).isSome = true → st.comm = c → p.decl st = some k → s.dev.comm y c = some x →
    x.verdict = none → s.dev.commSt y c ≤ 1 → (k.n < 2 ∨ s.dev.hopsUp y k = true) →
    (∀ q ∈ x.slots, q.h.attempt ≠ s.dev.attempt y c) → slotsFit s.dev y c x = true → sealMay s.dev y t st = true →
    2 ≤ k.n → k.pos ≠ 0 → x.held = none →
    Completes (.seal y t) s (fun d => d.commSt y c = 2 ∧
      (d.active y t).map (fun a => (a.step, a.code)) = some (h.pc, none) ∧
      (shedsStay s.dev y p st h.env = true → d.mem = s.dev.mem))) ∧
  (∀ (s : State) (y t : Nat) (p : Plan) (h : Thr) (st : Machine.Step) (c : Nat) (k : CommDecl) (x : Comm) (hd : CtlHdr),
    sound s.dev = true → (s.dev.yard y).plan = some p → (s.dev.yard y).thrs[t]? = some h → p.steps[h.pc]? = some st →
    (s.dev.issue y t tSeal).isSome = true → st.comm = c → p.decl st = some k → s.dev.comm y c = some x →
    x.verdict = none → s.dev.commSt y c ≤ 1 → (k.n < 2 ∨ s.dev.hopsUp y k = true) →
    (∀ q ∈ x.slots, q.h.attempt ≠ s.dev.attempt y c) → slotsFit s.dev y c x = true → sealMay s.dev y t st = true →
    2 ≤ k.n → k.pos ≠ 0 → x.held = some hd → s.dev.keyed y = true →
    Completes (.seal y t) s (fun d => d.commSt y c = 3 ∧
      (d.active y t).map (fun a => (a.step, a.code)) = some (h.pc, none) ∧
      (d.comm y c).map (fun z => z.held) = some none ∧ (shedsStay s.dev y p st h.env = true → d.mem = s.dev.mem))) ∧
  (∀ (s : State) (y t : Nat) (p : Plan) (h : Thr) (st : Machine.Step) (c : Nat) (k : CommDecl) (x : Comm),
    sound s.dev = true → (s.dev.yard y).plan = some p → (s.dev.yard y).thrs[t]? = some h → p.steps[h.pc]? = some st →
    (s.dev.issue y t tSeal).isSome = true → st.comm = c → p.decl st = some k → s.dev.comm y c = some x →
    x.verdict = none → s.dev.commSt y c ≤ 1 → (k.n < 2 ∨ s.dev.hopsUp y k = true) →
    (∀ q ∈ x.slots, q.h.attempt ≠ s.dev.attempt y c) → slotsFit s.dev y c x = true → sealMay s.dev y t st = true →
    2 ≤ k.n → k.pos = 0 → (k.succHop ≠ 0 ∨ s.dev.group k.succAddr = none) → s.dev.keyed y = true →
    Completes (.seal y t) s (fun d => d.commSt y c = 2 ∧
      (d.active y t).map (fun a => (a.step, a.code)) = some (h.pc, none) ∧
      (shedsStay s.dev y p st h.env = true → d.mem = s.dev.mem))) ∧
  (∀ (s : State) (y t : Nat) (p : Plan) (h : Thr) (st : Machine.Step) (c : Nat) (k : CommDecl) (x : Comm),
    sound s.dev = true → (s.dev.yard y).plan = some p → (s.dev.yard y).thrs[t]? = some h → p.steps[h.pc]? = some st →
    (s.dev.issue y t tSeal).isSome = true → st.comm = c → p.decl st = some k → s.dev.comm y c = some x →
    x.verdict = none → s.dev.commSt y c ≤ 1 → (k.n < 2 ∨ s.dev.hopsUp y k = true) →
    (∀ q ∈ x.slots, q.h.attempt ≠ s.dev.attempt y c) → slotsFit s.dev y c x = true → sealMay s.dev y t st = true →
    k.n < 2 → x.check = true → s.dev.ringThreads y c = [] →
    Completes (.seal y t) s (fun d => d.commSt y c = 0 ∧
      d.fld (R.TRN_COMM_OPS y c) = (s.dev.fld (R.TRN_COMM_OPS y c) + 1) % 2 ^ (R.TRN_COMM_OPS y c).w ∧
      bits (d.fld (R.TRN_COMM_LAST y c)) 29 2 = 1)) ∧
  (∀ (s : State) (y t : Nat) (p : Plan) (h : Thr) (st : Machine.Step) (c : Nat) (k : CommDecl) (x : Comm) (g : Prog) (b : Buf) (tier a : Nat),
    sound s.dev = true → (s.dev.yard y).plan = some p → (s.dev.yard y).thrs[t]? = some h → p.steps[h.pc]? = some st →
    (s.dev.issue y t tUpdate).isSome = true → st.comm = c → p.decl st = some k → s.dev.comm y c = some x →
    x.verdict = none → s.dev.commSt y c ≤ 1 → (k.n < 2 ∨ s.dev.hopsUp y k = true) →
    (∀ q ∈ x.slots, q.h.attempt ≠ s.dev.attempt y c) → slotsFit s.dev y c x = true →
    shedsStay s.dev y p st h.env = true → p.prog st = some g → p.bufs[st.sp 0x68 2]? = some b →
    s.dev.bufPlace y b (32 * (s.dev.fld (R.PLN_STEP_COUNT y) % 128)) = some (.mem tier a) → s.dev.mem.uc = [] →
    (0 :: s.dev.farPorts).all (fun q => s.dev.on (R.MEM_FAR_PORT_LINK_UP q)) = true →
    le (s.dev.mem.read (s.dev.addr y tier a) 32) 0 8 = s.dev.fld (R.PLN_STEP_COUNT y) →
    zeroAt (s.dev.mem.read (s.dev.addr y tier a) 32) 0x18 8 = true →
    512 * p.stepSegUnits st k.pos / max 1 g.lanes ≠ 0 →
    Completes (.update y t) s (fun d => (d.active y t).map (fun a => (a.step, a.code)) = some (h.pc, none) ∧
      (d.active y t).map (fun a => a.live || !a.runs.isEmpty) = some true ∧ d.mem = s.dev.mem))

/-- Ring packets are held, counted and answered as R132, R133, R147 and R485 state (R132, R133, R147, R151, R154,
  R485). -/
def Obligations.RingPacketsAndCredits : Prop :=
  (∀ (s : State) (y : Nat) (hd : LapHdr) (payload : List Byte) (host : HostSide) (c : Nat) (k : CommDecl) (x : Comm),
    sound s.dev = true → s.dev.hears y = true → s.dev.decl y c = some k → s.dev.comm y c = some x →
    s.dev.commAt y hd.ringId = some c → hd.wrt = none → s.dev.keyed y = true → k.predHop = 0 →
    x.slotsUsed < k.slots → s.dev.currentOp y c false hd.src hd.step hd.opseq hd.attempt = true →
    s.dev.ringThreads y c = [] → s.dev.fitsLater y c hd = true →
    Completes (.lapPacket y hd payload true host) s (fun d =>
      d.comm y c = some { x with slots := x.slots ++ [{ h := hd, data := payload, inSlot := true }] } ∧
      d.regs = s.dev.regs ∧ d.mem = s.dev.mem)) ∧
  (∀ (s : State) (y : Nat) (hd : LapHdr) (payload : List Byte) (host : HostSide) (c : Nat) (k : CommDecl) (x : Comm),
    sound s.dev = true → s.dev.hears y = true → s.dev.decl y c = some k → s.dev.comm y c = some x →
    s.dev.commAt y hd.ringId = some c → hd.wrt = none → s.dev.keyed y = true → k.predHop = 0 →
    x.slotsUsed < k.slots → s.dev.currentOp y c false hd.src hd.step hd.opseq ((hd.attempt + 255) % 256) = true →
    Completes (.lapPacket y hd payload true host) s (fun d =>
      d.comm y c = some { x with slots := x.slots ++ [{ h := hd, data := payload, inSlot := true }] } ∧
      d.regs = s.dev.regs ∧ d.mem = s.dev.mem)) ∧
  (∀ (s : State) (y : Nat) (hd : LapHdr) (payload : List Byte) (host : HostSide) (c : Nat) (k : CommDecl) (x : Comm) (t : Nat) (z : LapCtx) (w : RxPos) (bs : List Byte),
    sound s.dev = true → s.dev.hears y = true → s.dev.decl y c = some k → s.dev.comm y c = some x →
    s.dev.commAt y hd.ringId = some c → hd.wrt = none → s.dev.keyed y = true → s.dev.live y = true → k.predHop = 0 →
    x.slotsUsed < k.slots → s.dev.currentOp y c false hd.src hd.step hd.opseq hd.attempt = true →
    s.dev.ringThreads y c = [t] → s.dev.lapCtx y t = some z → z.fits hd = true → z.L.gather = false →
    z.L.stall = none → z.sparse = false → z.a.live = true → x.slots = [] → x.txq = [] → x.landq = [] →
    x.landKeys = [] → z.L.rx[hd.substep]? = some w → w.whole = false → w.c = hd.chunk → w.p = hd.pkt →
    4096 * (hd.pkt + 1) < elemBytes z.fmt (512 * z.units (hd.substep + 1) w.c) → hd.last = false → hd.scale = false →
    (LapPkt.mk hd payload true).content 4096 = some bs →
    Completes (.lapPacket y hd payload true host) s (fun d =>
      (d.active y t).map (fun a => a.lap) = some (some { z.L with rx := z.L.rx.set hd.substep { w with p := w.p + 1, elems := w.elems ++ bs } }) ∧
      d.comm y c = some x ∧ d.out = s.dev.out ++ [.lapCredit y c 1] ∧ d.mem = s.dev.mem)) ∧
  (∀ (s : State) (y n c : Nat) (k : CommDecl) (x : Comm),
    sound s.dev = true → s.dev.decl y c = some k → s.dev.comm y c = some x → s.dev.ringThreads y c = [] →
    Completes (.lapCreditReturn y c n) s (fun d =>
      d.comm y c = some { x with credits := min k.slots (x.credits + n) } ∧
      d.regs = s.dev.regs ∧ d.mem = s.dev.mem)) ∧
  (∀ (s : State) (y : Nat) (hd : CtlHdr) (c : Nat) (k : CommDecl) (x : Comm),
    sound s.dev = true → s.dev.hears y = true → s.dev.decl y c = some k → s.dev.comm y c = some x →
    s.dev.commAt y hd.ringId = some c → hd.wrt = none → s.dev.keyed y = true → k.predHop = 0 → hd.back = false →
    (((s.dev.yard y).replay.getD 0 []).all (fun e => e.src != hd.src)) = true →
    ((s.dev.yard y).replay.getD 0 []).length < 2048 →
    s.dev.currentOp y c hd.back hd.src hd.step hd.opseq hd.attempt = true → k.pos ≠ 0 → s.dev.undecided y c = true →
    s.dev.commSt y c ≤ 1 → x.held = none →
    Completes (.sealPacket y hd true) s (fun d => d.comm y c = some { x with held := some hd } ∧
      d.regs = s.dev.regs ∧ d.mem = s.dev.mem)) ∧
  (∀ (s : State) (y : Nat) (hd : CtlHdr) (c : Nat) (k : CommDecl) (x : Comm),
    sound s.dev = true → s.dev.hears y = true → s.dev.decl y c = some k → s.dev.comm y c = some x →
    s.dev.commAt y hd.ringId = some c → hd.wrt = none → s.dev.keyed y = true → k.predHop = 0 → hd.back = false →
    (((s.dev.yard y).replay.getD 0 []).all (fun e => e.src != hd.src)) = true →
    ((s.dev.yard y).replay.getD 0 []).length < 2048 →
    s.dev.currentOp y c hd.back hd.src hd.step hd.opseq hd.attempt = true → k.pos ≠ 0 → s.dev.undecided y c = true →
    s.dev.commSt y c = 2 →
    Completes (.sealPacket y hd true) s (fun d => d.commSt y c = 3 ∧ d.comm y c = some { x with held := none } ∧
      d.mem = s.dev.mem)) ∧
  (∀ (s : State) (y : Nat) (hd : CtlHdr) (c : Nat) (k : CommDecl) (x : Comm),
    sound s.dev = true → s.dev.hears y = true → s.dev.decl y c = some k → s.dev.comm y c = some x →
    s.dev.commAt y hd.ringId = some c → hd.wrt = none → s.dev.keyed y = true → s.dev.hopIs y k hd.back none = true →
    (((s.dev.yard y).replay.getD 0 []).all (fun e => e.src != hd.src)) = true →
    ((s.dev.yard y).replay.getD 0 []).length < 2048 →
    s.dev.currentOp y c hd.back hd.src hd.step hd.opseq hd.attempt = true → k.pos ≠ 0 → s.dev.undecided y c = true →
    (hd.verdict = 1 ∨ hd.verdict = 2) → x.kept = none → s.dev.frozen y = true →
    Completes (.verdict y hd true) s (fun d => d.comm y c = some { x with kept := some hd } ∧ d.mem = s.dev.mem)) ∧
  (∀ (s : State) (y t : Nat) (p : Plan) (st : Machine.Step) (a : Active),
    sound s.dev = true → s.dev.live y = true → s.dev.activeStep y t = some (p, st, a) → a.code = none →
    st.wd ≠ 0xFFFF → st.isRing = true → 2 ≤ p.ringN st → s.dev.commSt y st.comm = 4 →
    Completes (.stepWatchdogExpiry y t) s (fun d => d.commSt y st.comm = 5 ∧ d.mem = s.dev.mem ∧
      d.yards = s.dev.yards)) ∧
  (∀ (s : State) (y t : Nat) (p : Plan) (st : Machine.Step) (a : Active) (k : CommDecl),
    sound s.dev = true → s.dev.live y = true → s.dev.activeStep y t = some (p, st, a) → a.code = none →
    st.wd ≠ 0xFFFF → st.isRing = true → 2 ≤ p.ringN st → s.dev.decl y st.comm = some k → 2 ≤ k.n → k.pos ≠ 0 →
    s.dev.undecided y st.comm = true → s.dev.commSt y st.comm ≤ 3 →
    Completes (.stepWatchdogExpiry y t) s (fun d => d.commSt y st.comm = 4 ∧
      (d.comm y st.comm).map (fun x => (x.abortCode, x.abortOrigin)) = some (cCollTimeout, k.pos) ∧
      d.mem = s.dev.mem))

/-- The seal circuit decides, members apply verdicts, aborts stop members (R148, R149, R151). -/
def Obligations.SealCircuitDecides : Prop :=
  (∀ (s : State) (y : Nat) (hd : CtlHdr) (c : Nat) (k : CommDecl) (x : Comm),
    sound s.dev = true → s.dev.hears y = true → s.dev.decl y c = some k → s.dev.comm y c = some x →
    s.dev.commAt y hd.ringId = some c → hd.wrt = none → s.dev.keyed y = true → k.predHop = 0 → hd.back = false →
    (((s.dev.yard y).replay.getD 0 []).all (fun e => e.src != hd.src)) = true →
    ((s.dev.yard y).replay.getD 0 []).length < 2048 →
    s.dev.currentOp y c hd.back hd.src hd.step hd.opseq hd.attempt = true → k.pos = 0 → s.dev.commSt y c = 2 →
    x.kept = none → hd.check = true → hd.passed = k.n →
    Completes (.sealReturn y hd true) s (fun d => d.commSt y c = 0 ∧ bits (d.fld (R.TRN_COMM_LAST y c)) 29 2 = 1 ∧
      d.fld (R.TRN_COMM_OPS y c) = (s.dev.fld (R.TRN_COMM_OPS y c) + 1) % 2 ^ (R.TRN_COMM_OPS y c).w)) ∧
  (∀ (s : State) (y : Nat) (hd : CtlHdr) (c : Nat) (k : CommDecl) (x : Comm),
    sound s.dev = true → s.dev.hears y = true → s.dev.decl y c = some k → s.dev.comm y c = some x →
    s.dev.commAt y hd.ringId = some c → hd.wrt = none → s.dev.keyed y = true → k.predHop = 0 → hd.back = false →
    (((s.dev.yard y).replay.getD 0 []).all (fun e => e.src != hd.src)) = true →
    ((s.dev.yard y).replay.getD 0 []).length < 2048 →
    s.dev.currentOp y c hd.back hd.src hd.step hd.opseq hd.attempt = true → k.pos = 0 → s.dev.commSt y c = 2 →
    x.kept = none → (hd.check = false ∨ hd.passed ≠ k.n) →
    Completes (.sealReturn y hd true) s (fun d => d.commSt y c = 0 ∧ bits (d.fld (R.TRN_COMM_LAST y c)) 29 2 = 2 ∧
      bits (d.fld (R.TRN_COMM_LAST y c)) 0 8 = hd.code % 256 ∧
      d.fld (R.TRN_COMM_OPS y c) = s.dev.fld (R.TRN_COMM_OPS y c))) ∧
  (∀ (s : State) (y : Nat) (hd : CtlHdr) (c : Nat) (k : CommDecl) (x : Comm),
    sound s.dev = true → s.dev.hears y = true → s.dev.decl y c = some k → s.dev.comm y c = some x →
    s.dev.commAt y hd.ringId = some c → hd.wrt = none → s.dev.keyed y = true → s.dev.hopIs y k hd.back none = true →
    (((s.dev.yard y).replay.getD 0 []).all (fun e => e.src != hd.src)) = true →
    ((s.dev.yard y).replay.getD 0 []).length < 2048 →
    s.dev.currentOp y c hd.back hd.src hd.step hd.opseq hd.attempt = true → k.pos ≠ 0 → s.dev.undecided y c = true →
    (hd.verdict = 1 ∨ hd.verdict = 2) → x.kept = none → s.dev.frozen y = false →
    Completes (.verdict y hd true) s (fun d => d.commSt y c = 0 ∧
      bits (d.fld (R.TRN_COMM_LAST y c)) 29 2 = hd.verdict)) ∧
  (∀ (s : State) (y : Nat) (hd : CtlHdr) (c : Nat) (k : CommDecl) (x : Comm),
    sound s.dev = true → s.dev.hears y = true → s.dev.decl y c = some k → s.dev.comm y c = some x →
    s.dev.commAt y hd.ringId = some c → hd.wrt = none → s.dev.keyed y = true → s.dev.hopIs y k hd.back none = true →
    (((s.dev.yard y).replay.getD 0 []).all (fun e => e.src != hd.src)) = true →
    ((s.dev.yard y).replay.getD 0 []).length < 2048 →
    s.dev.currentOp y c hd.back hd.src hd.step hd.opseq hd.attempt = true → k.pos ≠ 0 → s.dev.undecided y c = true →
    (if hd.back then x.bwdAbort else x.fwdAbort) = false → s.dev.commSt y c ≠ 4 → s.dev.commSt y c ≠ 5 →
    Completes (.abort y hd true) s (fun d => d.commSt y c = 4 ∧
      (d.comm y c).map (fun z => z.abortCode) = some (max x.abortCode hd.code))) ∧
  (∀ (s : State) (y : Nat) (hd : CtlHdr) (c : Nat) (k : CommDecl) (x : Comm),
    sound s.dev = true → s.dev.hears y = true → s.dev.decl y c = some k → s.dev.comm y c = some x →
    s.dev.commAt y hd.ringId = some c → hd.wrt = none → s.dev.keyed y = true → s.dev.hopIs y k hd.back none = true →
    (((s.dev.yard y).replay.getD 0 []).all (fun e => e.src != hd.src)) = true →
    ((s.dev.yard y).replay.getD 0 []).length < 2048 →
    s.dev.currentOp y c hd.back hd.src hd.step hd.opseq hd.attempt = true → k.pos = 0 → s.dev.undecided y c = true →
    x.kept = none →
    Completes (.abort y hd true) s (fun d => d.commSt y c = 0 ∧ bits (d.fld (R.TRN_COMM_LAST y c)) 29 2 = 2 ∧
      bits (d.fld (R.TRN_COMM_LAST y c)) 0 8 = hd.code % 256)) ∧
  (∀ (s : State) (y v : Nat) (k : CommDecl) (x : Comm),
    sound s.dev = true → s.dev.cmdOk y = true → s.dev.decl y (bits v 0 10) = some k →
    s.dev.comm y (bits v 0 10) = some x → s.dev.commSt y (bits v 0 10) = 5 → (bits v 12 2 = 1 ∨ bits v 12 2 = 2) →
    x.kept = none → s.dev.frozen y = false → (s.dev.yard y).setSnap = none →
    Completes (.trnCommResolve y v) s (fun d => d.commSt y (bits v 0 10) = 0 ∧
      bits (d.fld (R.TRN_COMM_LAST y (bits v 0 10))) 29 2 = bits v 12 2 ∧
      bits (d.fld (R.TRN_COMM_LAST y (bits v 0 10))) 31 1 = 1)) ∧
  (∀ (s : State) (y v : Nat) (k : CommDecl) (x : Comm),
    sound s.dev = true → s.dev.cmdOk y = true → s.dev.decl y (bits v 0 10) = some k →
    s.dev.comm y (bits v 0 10) = some x → s.dev.commSt y (bits v 0 10) = 5 → (bits v 12 2 = 1 ∨ bits v 12 2 = 2) →
    x.kept = none → s.dev.frozen y = true → (s.dev.yard y).setSnap = none →
    Completes (.trnCommResolve y v) s (fun d => d.commSt y (bits v 0 10) = 5 ∧
      (d.comm y (bits v 0 10)).map (fun z => (z.keptByHost, z.kept.map (fun h => h.verdict))) = some (true,
        some (bits v 12 2)) ∧
      d.mem = s.dev.mem))

/-- A step completes, or fails the iteration with its code (R91, R107, R123). -/
def Obligations.StepsComplete : Prop :=
  (∀ (s : State) (y t : Nat) (h : Thr) (p : Plan) (st : Machine.Step) (a : Active),
    sound s.dev = true → s.dev.live y = true → (s.dev.yard y).thrs[t]? = some h →
    s.dev.activeStep y t = some (p, st, a) → a.code = some 0 → a.live = false → a.runs = [] →
    (st.isRing && decide (p.ringN st < 2)) = false →
    Completes (.stepComplete y t) s (fun d => (d.yard y).thrs[t]? = some h.next ∧
      (d.yard y).failed = (s.dev.yard y).failed)) ∧
  (∀ (s : State) (y t : Nat) (h : Thr) (p : Plan) (st : Machine.Step) (a : Active) (x : Comm),
    sound s.dev = true → s.dev.live y = true → (s.dev.yard y).thrs[t]? = some h →
    s.dev.activeStep y t = some (p, st, a) → a.code = some 0 → a.live = false → a.runs = [] → st.isRing = true →
    p.ringN st < 2 → s.dev.ringThreads y st.comm = [t] → s.dev.comm y st.comm = some x → x.check = true →
    Completes (.stepComplete y t) s (fun d => (d.yard y).thrs[t]? = some h.next ∧ d.commSt y st.comm = 0 ∧
      d.fld (R.TRN_COMM_OPS y st.comm) = (s.dev.fld (R.TRN_COMM_OPS y st.comm) + 1) % 2 ^ (R.TRN_COMM_OPS y st.comm).w)) ∧
  (∀ (s : State) (y t : Nat) (p : Plan) (st : Machine.Step) (a : Active) (code : Nat),
    sound s.dev = true → s.dev.live y = true → s.dev.activeStep y t = some (p, st, a) → a.code = some code →
    code ≠ 0 → code < 256 → t < 256 → a.live = false → a.runs = [] → (st.isRing && decide (p.ringN st < 2)) = false →
    (s.dev.yard y).failed = false →
    Completes (.stepComplete y t) s (fun d => (d.yard y).failed = true ∧
      d.fld (R.PLN_ERR y) = code + 2 ^ 8 * t + 2 ^ 16 * (a.step % 2 ^ 16))) ∧
  (∀ (s : State) (y t : Nat) (p : Plan) (st : Machine.Step) (a : Active),
    sound s.dev = true → s.dev.live y = true → s.dev.activeStep y t = some (p, st, a) → a.code = none →
    st.wd ≠ 0xFFFF → st.isRing = false → t < 256 → (s.dev.yard y).failed = false →
    Completes (.stepWatchdogExpiry y t) s (fun d => (d.yard y).failed = true ∧
      d.fld (R.PLN_ERR y) = 0x30 + 2 ^ 8 * t + 2 ^ 16 * (a.step % 2 ^ 16)))

/-- Links train, exchange HELLO, go down and come back as R362, R363 and R386 state (R362, R363, R368, R383, R386). -/
def Obligations.LinkStates : Prop :=
  (∀ (s : State) (l : Nat) (rev : Bool),
    sound s.dev = true → l < 48 → s.dev.linkState l = 1 → (rev = false ∨ (s.dev.linkCfg l).reversal = true) →
    Completes (.linkTrained l rev) s (fun d => d.linkState l = 2 ∧ d.fld (R.FAB_PORT_STATE_REVERSED l) = b2n rev ∧
      (if (s.dev.link l).ready (s.dev.mgmtPkt l (s.dev.linkCfg l).peer false (s.dev.helloBytes l)) = true then Out.linkMgmt l 1 (s.dev.helloBytes l) ∈ d.out else (d.link l).queue.getLast? = some (s.dev.mgmtPkt l (s.dev.linkCfg l).peer false (s.dev.helloBytes l))) ∧
      (s.dev.on R.TEL_CTRL_EN = false → d.mem = s.dev.mem))) ∧
  (∀ (s : State) (l : Nat) (hl : Hello),
    sound s.dev = true → l < 48 → s.dev.linkState l = 2 → helloOk (s.dev.linkCfg l) hl = true →
    Completes (.hello l hl) s (fun d => d.linkState l = 3 ∧
      d.fld (R.FAB_PORT_PEER l) = (hl.addr + 2 ^ 16 * hl.device) % 2 ^ (R.FAB_PORT_PEER l).w ∧
      (d.link l).peerBuf = hl.buf ∧ (d.link l).hello = some hl)) ∧
  (∀ (s : State) (l : Nat) (hl : Hello),
    sound s.dev = true → l < 48 → s.dev.linkState l = 2 → helloOk (s.dev.linkCfg l) hl = false →
    Completes (.hello l hl) s (fun d => d.linkState l = 6 ∧ (d.link l).hello = some hl ∧
      (d.link l).peerBuf = hl.buf ∧ (d.link l).queue.all (fun p => p.vc == 7) = true ∧
      (s.dev.on R.TEL_CTRL_EN = false → d.mem = s.dev.mem))) ∧
  (∀ (s : State) (l : Nat) (rev : Bool),
    sound s.dev = true → l < 48 → s.dev.linkState l = 4 → (rev = false ∨ (s.dev.linkCfg l).reversal = true) →
    Completes (.linkTrained l rev) s (fun d => d.linkState l = 4 ∧ (d.link l).trained = true ∧
      (if (s.dev.link l).ready (s.dev.mgmtPkt l (s.dev.linkCfg l).peer false (s.dev.helloBytes l)) = true then Out.linkMgmt l 1 (s.dev.helloBytes l) ∈ d.out else (d.link l).queue.getLast? = some (s.dev.mgmtPkt l (s.dev.linkCfg l).peer false (s.dev.helloBytes l))) ∧
      (s.dev.on R.TEL_CTRL_EN = false → d.mem = s.dev.mem))) ∧
  (∀ (s : State) (l : Nat) (rev : Bool),
    sound s.dev = true → l < 48 → (s.dev.linkState l = 5 ∨ s.dev.linkState l = 6) →
    (rev = false ∨ (s.dev.linkCfg l).reversal = true) →
    Completes (.linkTrained l rev) s (fun d => d.fld (R.FAB_PORT_STATE_TRAINED l) = 1 ∧
      d.linkState l = s.dev.linkState l ∧ d.fab = s.dev.fab ∧ d.out = s.dev.out)) ∧
  (∀ (s : State) (l : Nat) (hl o : Hello),
    sound s.dev = true → l < 48 → s.dev.linkState l = 4 → (s.dev.link l).trained = true →
    (s.dev.link l).hello = some o → o.addr = hl.addr → o.device = hl.device → s.dev.fab.held = [] →
    Completes (.hello l hl) s (fun d => d.linkState l = 3 ∧ (d.link l).trained = false ∧ (d.link l).replays = 0 ∧
      (d.link l).unacked = (s.dev.link l).unacked ∧
      (s.dev.on R.TEL_CTRL_EN = false → d.out = s.dev.out ++
        { s.dev.link l with freed := (s.dev.link l).freed.set 7 (((s.dev.link l).freed.getD 7 0 + 1) % 2 ^ 16) }.wires l (s.dev.link l).unacked) ∧
      (s.dev.on R.TEL_CTRL_EN = false → d.mem = s.dev.mem))) ∧
  (∀ (s : State) (l : Nat) (hl : Hello),
    sound s.dev = true → l < 48 → (s.dev.linkState l = 3 ∨ s.dev.linkState l = 6) →
    Completes (.hello l hl) s (fun d => d.linkState l = s.dev.linkState l ∧ (d.link l).hello = some hl ∧
      d.fld (R.FAB_PORT_PEER l) = (hl.addr + 2 ^ 16 * hl.device) % 2 ^ (R.FAB_PORT_PEER l).w ∧
      (s.dev.on R.TEL_CTRL_EN = false → d.out = s.dev.out))) ∧
  (∀ (s : State) (l : Nat),
    sound s.dev = true → l < 48 → s.dev.linkState l = 3 →
    Completes (.downNotice l) s (fun d => d.linkState l = 4 ∧ (d.link l).trained = false ∧
      (s.dev.on R.TEL_CTRL_EN = false → d.mem = s.dev.mem) ∧ (s.dev.on R.TEL_CTRL_EN = false → d.out = s.dev.out))) ∧
  (∀ (s : State) (l : Nat),
    sound s.dev = true → l < 48 → s.dev.linkState l = 3 →
    Completes (.fecLockLost l) s (fun d => d.linkState l = 4 ∧ (d.link l).trained = false ∧ d.mem = s.dev.mem ∧
      d.out = s.dev.out)) ∧
  (∀ (s : State) (l : Nat),
    sound s.dev = true → l < 48 → s.dev.linkState l = 4 →
    Completes (.downTimeout l) s (fun d => d.linkState l = 5 ∧ d.fld (R.FAB_EVENTS.sub 0 1) = 1)) ∧
  (∀ (s : State) (l : Nat),
    sound s.dev = true → l < 48 → s.dev.pfOk = true → (s.dev.linkState l = 5 ∨ s.dev.linkState l = 6) →
    Completes (.revive l) s (fun d => d.linkState l = 1 ∧ d.link l = (s.dev.link l).restarted ∧
      (d.link l).txSeq = 0 ∧ d.out = s.dev.out ++ [.linkTrain l] ∧ d.mem = s.dev.mem)) ∧
  (∀ (s : State) (l : Nat),
    sound s.dev = true → l < 48 → s.dev.pfOk = true → s.dev.linkState l = 3 →
    Completes (.retrain l) s (fun d => d.linkState l = 1 ∧ d.link l = (s.dev.link l).restarted ∧
      (d.link l).txSeq = 0 ∧ d.out = s.dev.out ++ [.linkTrain l] ∧ d.mem = s.dev.mem))

/-- Frames, replays, packets from a link and the frame scheduler act as R359, R373 and R380 state (R359, R373, R380,
  R381). -/
def Obligations.FramesAndPackets : Prop :=
  (∀ (s : State) (l : Nat) (f : FrameTrailer),
    sound s.dev = true → l < 48 → s.dev.linkState l ∈ [2, 3, 6] → f.good = true → f.fseq = (s.dev.link l).rxNext →
    f.nak = false →
    Completes (.frameReceived l f) s (fun d => (d.link l).rxNext = ((s.dev.link l).rxNext + 1) % 4096 ∧
      (d.link l).nakSent = false ∧ (d.link l).credit = f.credit ∧
      (let adv := fseqGap (s.dev.link l).acked f.ack;
        let isNew := decide (adv ≤ (s.dev.link l).unacked.foldl (fun n g => max n (fseqGap (s.dev.link l).acked g.fseq)) 0) && adv != 0; (d.link l).unacked = if isNew = true then (s.dev.link l).unacked.filter (fun g => decide (adv < fseqGap (s.dev.link l).acked g.fseq)) else (s.dev.link l).unacked) ∧
      d.out = s.dev.out ∧ d.mem = s.dev.mem)) ∧
  (∀ (s : State) (l : Nat) (f : FrameTrailer),
    sound s.dev = true → l < 48 → s.dev.linkState l ∈ [2, 3, 6] → f.good = true → f.fseq = (s.dev.link l).rxNext →
    f.nak = true → f.ack = (s.dev.link l).acked → (s.dev.link l).unacked ≠ [] → (s.dev.link l).replays < 8 →
    Completes (.frameReceived l f) s (fun d => d.out = s.dev.out ++
      { s.dev.link l with rxNext := ((s.dev.link l).rxNext + 1) % 4096 }.wires l (s.dev.link l).unacked ∧
      d.mem = s.dev.mem)) ∧
  (∀ (s : State) (l : Nat) (f : FrameTrailer),
    sound s.dev = true → l < 48 → s.dev.linkState l ∈ [2, 3, 6] → (f.good = false ∨ f.fseq ≠ (s.dev.link l).rxNext) →
    (s.dev.link l).nakSent = false →
    Completes (.frameReceived l f) s (fun d => d.link l = { s.dev.link l with nakSent := true, nakDue := true } ∧
      d.out = s.dev.out ∧ d.mem = s.dev.mem)) ∧
  (∀ (s : State) (l : Nat),
    sound s.dev = true → l < 48 → s.dev.linkState l ∈ [2, 3, 6] → (s.dev.link l).unacked ≠ [] →
    (s.dev.link l).replays < 8 →
    Completes (.replayTimerExpiry l) s (fun d => (d.link l).replays = (s.dev.link l).replays + 1 ∧
      d.out = s.dev.out ++ (s.dev.link l).wires l (s.dev.link l).unacked ∧ d.mem = s.dev.mem)) ∧
  (∀ (s : State) (l : Nat),
    sound s.dev = true → l < 48 → s.dev.linkState l = 3 → (s.dev.link l).unacked ≠ [] → 8 ≤ (s.dev.link l).replays →
    Completes (.replayTimerExpiry l) s (fun d => d.linkState l = 4 ∧ (d.link l).replays = 0 ∧ d.out = s.dev.out ∧
      d.mem = s.dev.mem)) ∧
  (∀ (s : State) (l : Nat) (h : TransitHdr) (bytes : List Byte) (b : Nat),
    sound s.dev = true → l < 48 → s.dev.linkState l = 3 → s.dev.on R.TEL_CTRL_EN = false →
    typeFlitsOk h.typ h.flits = true → (h.typ ≠ 0x10 ∨ wrtOpcode (bytes.getD 1 0).toNat = true) →
    ((s.dev.linkCfg l).role = 2 ∨ s.dev.fab.draining = false) → s.dev.bayAt h.dst = some b → s.dev.takes b = true →
    Completes (.transitPacket l h bytes) s (fun d => d.out = s.dev.out ++
      [.toBay b { typ := h.typ, ce := h.ce, tag := h.tag, vc := h.vc, flits := h.flits, pad := h.pad, dst := h.dst, src := h.src, rank := h.rank, hops := h.hops, nonce := h.nonce, body := h.body, payload := bytes, bay := l / 4, transit := (s.dev.linkCfg l).role == 2, inl := l, inVc := h.vc, mac := h.mac }] ∧
      d.fld (R.TEL_RX_PKTS l) = (s.dev.fld (R.TEL_RX_PKTS l) + 1) % 2 ^ (R.TEL_RX_PKTS l).w ∧ d.mem = s.dev.mem)) ∧
  (∀ (s : State) (l : Nat) (h : TransitHdr) (bytes : List Byte),
    sound s.dev = true → l < 48 → s.dev.linkState l = 3 → s.dev.on R.TEL_CTRL_EN = false →
    typeFlitsOk h.typ h.flits = true → (s.dev.linkCfg l).role = 2 → s.dev.bayAt h.dst = none →
    (h.vc = 5 ∨ h.vc = 6) → bit (ef (routeEntry s.dev.lay.active h.dst) 2) 0 = true →
    ef (routeEntry s.dev.lay.active h.dst) (h.vc - 2) < h.rank →
    Completes (.transitPacket l h bytes) s (fun d =>
      d.fld R.FAB_RANK_ERR = (s.dev.fld R.FAB_RANK_ERR + 1) % 2 ^ R.FAB_RANK_ERR.w ∧
      d.fld (R.FAB_EVENTS.sub 1 1) = 1 ∧
      (d.out = s.dev.out ∨ d.out = s.dev.out ++
        [.msix 0 (s.dev.fld (R.FAB_IRQ.sub 16 6)) (Tab.num s.dev.ctl.msixEnt (mk 0 (s.dev.fld (R.FAB_IRQ.sub 16 6))))]) ∧
      d.mem = s.dev.mem)) ∧
  (∀ (s : State) (l : Nat) (h : TransitHdr) (bytes : List Byte) (m : Nat),
    sound s.dev = true → l < 48 → s.dev.linkState l = 3 → s.dev.on R.TEL_CTRL_EN = false →
    typeFlitsOk h.typ h.flits = true → (s.dev.linkCfg l).role = 2 → s.dev.bayAt h.dst = none →
    (h.vc = 5 ∨ h.vc = 6) → bit (ef (routeEntry s.dev.lay.active h.dst) 2) 0 = true →
    ef (routeEntry s.dev.lay.active h.dst) (h.vc - 2) ≠ 0xFF →
    h.rank ≤ ef (routeEntry s.dev.lay.active h.dst) (h.vc - 2) → ef (routeEntry s.dev.lay.active h.dst) 0 = m →
    ef (routeEntry s.dev.lay.active h.dst) 1 = 0xFF → m < 48 → s.dev.upLinks m = [m] →
    Completes (.transitPacket l h bytes) s (fun d => (let e := routeEntry s.dev.lay.active h.dst;
      let k := bits (ef e 2) 1 1; let p : Pkt := { typ := h.typ, ce := h.ce, tag := h.tag, vc := h.vc, flits := h.flits, pad := h.pad, dst := h.dst, src := h.src, rank := h.rank, hops := h.hops, nonce := h.nonce, body := h.body, payload := bytes, bay := l / 4, transit := (s.dev.linkCfg l).role == 2, inl := l, inVc := h.vc, mac := h.mac }; let v := if bit (ef e 2) 2 = true then finalVc p k else fwdVc p k; (d.link m).queue = (s.dev.link m).queue ++ [{ p with vc := v, rank := chRank s.dev.lay.active m k, hops := min 255 (p.hops + 1), ce := p.ce || decide (s.dev.fld R.FAB_ECN_THRESH ≤ flitsOn (s.dev.link m).queue v) }]) ∧
      d.fld R.FAB_RANK_ERR = s.dev.fld R.FAB_RANK_ERR ∧ d.out = s.dev.out ∧ d.mem = s.dev.mem)) ∧
  (∀ (s : State) (l : Nat) (p : Pkt),
    sound s.dev = true → l < 48 → s.dev.linkState l = 3 → s.dev.bayState (l / 4) ≠ 2 →
    (headOf (s.dev.link l).queue (fun p => p.vc == 7)).filter (fun p => (s.dev.link l).ready p) = none →
    (s.dev.link (4 * (l / 4))).hold = [] →
    (headOf (s.dev.link l).queue (fun p => p.vc == 0)).filter (fun p => (s.dev.link l).ready p) = some p →
    Completes (.frameSchedulerPick l) s (fun d => Out.link l p ∈ d.out ∧
      (d.link l).queue = (s.dev.link l).queue.erase p)) ∧
  (∀ (s : State) (l : Nat) (p : Pkt),
    sound s.dev = true → l < 48 → s.dev.linkState l = 3 → s.dev.bayState (l / 4) ≠ 2 →
    (headOf (s.dev.link l).queue (fun p => p.vc == 7)).filter (fun p => (s.dev.link l).ready p) = none →
    (s.dev.link (4 * (l / 4))).hold = [] →
    (headOf (s.dev.link l).queue (fun p => p.vc == 0)).filter (fun p => (s.dev.link l).ready p) = none →
    (s.dev.link l).transitNext ((s.dev.linkCfg l).role == 2) = some p →
    ((s.dev.link l).turn ((s.dev.linkCfg l).role == 2) s.dev.lay.cur.strict).pkt = none →
    ((s.dev.link l).turn ((s.dev.linkCfg l).role == 2) s.dev.lay.cur.strict).held = 0 →
    Completes (.frameSchedulerPick l) s (fun d => Out.link l p ∈ d.out ∧
      (d.link l).queue = (s.dev.link l).queue.erase p)) ∧
  (∀ (s : State) (l : Nat) (t o : Pkt),
    sound s.dev = true → l < 48 → s.dev.linkState l = 3 → s.dev.bayState (l / 4) ≠ 2 →
    (headOf (s.dev.link l).queue (fun p => p.vc == 7)).filter (fun p => (s.dev.link l).ready p) = none →
    (s.dev.link (4 * (l / 4))).hold = [] →
    (headOf (s.dev.link l).queue (fun p => p.vc == 0)).filter (fun p => (s.dev.link l).ready p) = none →
    (s.dev.link l).transitNext ((s.dev.linkCfg l).role == 2) = some t →
    ((s.dev.link l).turn ((s.dev.linkCfg l).role == 2) s.dev.lay.cur.strict).pkt = some o →
    Completes (.frameSchedulerPick l) s (fun d =>
      (let rt := rounds (s.dev.link l).deficitT (s.dev.fld R.FAB_TRANSIT % 16) (1 + t.flits);
      let ro := rounds (s.dev.link l).deficitL (16 - s.dev.fld R.FAB_TRANSIT % 16) (1 + o.flits);
      let p := if (if rt = ro then (s.dev.link l).groupOrder.head? == some 0 else decide (rt < ro)) = true then t else o; Out.link l p ∈ d.out ∧ (d.link l).queue = (s.dev.link l).queue.erase p))) ∧
  (∀ (s : State) (l : Nat) (p : Pkt),
    sound s.dev = true → l < 48 → s.dev.linkState l = 3 → s.dev.bayState (l / 4) ≠ 2 →
    (headOf (s.dev.link l).queue (fun p => p.vc == 7)).filter (fun p => (s.dev.link l).ready p) = none →
    (s.dev.link (4 * (l / 4))).hold = [] →
    (headOf (s.dev.link l).queue (fun p => p.vc == 0)).filter (fun p => (s.dev.link l).ready p) = none →
    (s.dev.link l).transitNext ((s.dev.linkCfg l).role == 2) = none →
    ((s.dev.link l).turn ((s.dev.linkCfg l).role == 2) s.dev.lay.cur.strict).pkt = some p →
    Completes (.frameSchedulerPick l) s (fun d => Out.link l p ∈ d.out ∧
      (d.link l).queue = (s.dev.link l).queue.erase p)) ∧
  (∀ (s : State) (b : Nat),
    sound s.dev = true → b < 12 → s.dev.backlog b ≤ 64 * s.dev.fld R.FAB_SLUICE_CTRL_HI →
    s.dev.backlog b < 64 * s.dev.fld R.FAB_SLUICE_CTRL_LO →
    Completes (.sluicePeriod b) s (fun d => d.fld (R.FAB_SLUICE_LEVEL b) = min 16 (s.dev.fld (R.FAB_SLUICE_LEVEL b) + 1) ∧
      d.fab = s.dev.fab ∧ d.out = s.dev.out)) ∧
  (∀ (s : State) (b : Nat),
    sound s.dev = true → b < 12 → 64 * s.dev.fld R.FAB_SLUICE_CTRL_HI < s.dev.backlog b →
    Completes (.sluicePeriod b) s (fun d => (d.fld (R.FAB_SLUICE_LEVEL b) = if s.dev.fld R.FAB_SLUICE_CTRL_MIN < s.dev.fld (R.FAB_SLUICE_LEVEL b) then s.dev.fld (R.FAB_SLUICE_LEVEL b) - 1 else s.dev.fld (R.FAB_SLUICE_LEVEL b)) ∧
      d.fab = s.dev.fab ∧ d.out = s.dev.out))

/-- Route and group tables are loaded, drained, swapped and dumped as R372 to R377 and R387 state (R372, R375, R376,
  R387). -/
def Obligations.RouteTableCommands : Prop :=
  (∀ (s : State),
    sound s.dev = true → s.dev.pfOk = true → s.dev.tblState ∈ [0, 2, 3] →
    Completes .loadShadow s (fun d => d.tblState = 1 ∧
      d.out = s.dev.out ++ [.hostRead 0 (s.dev.fld R.FAB_TBL_ADDR) 524416] ∧ d.lay = s.dev.lay)) ∧
  (∀ (s : State) (img : List Byte),
    sound s.dev = true → s.dev.tblState = 1 → s.dev.ctl.hostUp = true →
    Completes (.shadowLoadDone (some img)) s (fun d =>
      d.tblState = (match routeBad img s.dev.lay.cur.links s.dev.lay.cur.addr with | some _ => 3 | none => 2) ∧
      d.lay.shadow = (match routeBad img s.dev.lay.cur.links s.dev.lay.cur.addr with | some _ => s.dev.lay.shadow | none => img) ∧
      (∀ e ∈ routeBad img s.dev.lay.cur.links s.dev.lay.cur.addr,
        d.fld R.FAB_RT_DETAIL = e.1 % 2 ^ R.FAB_RT_DETAIL.w))) ∧
  (∀ (s : State),
    sound s.dev = true → s.dev.tblState = 1 →
    Completes (.shadowLoadDone none) s (fun d => d.tblState = 3 ∧ d.fld R.FAB_RT_DETAIL = 0 ∧ d.lay = s.dev.lay)) ∧
  (∀ (s : State),
    sound s.dev = true → s.dev.pfOk = true → s.dev.tblState = 2 →
    Completes .drain s (fun d => d.tblState = 4 ∧ d.fab.draining = true ∧ d.fab.held = s.dev.fab.held ∧
      d.lay = s.dev.lay)) ∧
  (∀ (s : State),
    sound s.dev = true → s.dev.tblState = 4 → s.dev.fld R.FAB_DRAIN_COUNT = 0 →
    Completes .drainCountZero s (fun d => d.tblState = 5 ∧ d.fab = s.dev.fab ∧ d.lay = s.dev.lay)) ∧
  (∀ (s : State),
    sound s.dev = true → s.dev.pfOk = true → s.dev.tblState = 5 → s.dev.fld R.FAB_DRAIN_COUNT = 0 →
    Completes .swap s (fun d => d.tblState = 6 ∧
      d.lay = { s.dev.lay with active := s.dev.lay.shadow, shadow := s.dev.lay.active } ∧ d.fab = s.dev.fab)) ∧
  (∀ (s : State),
    sound s.dev = true → s.dev.pfOk = true → s.dev.tblState ≠ 0 → s.dev.tblState ≠ 1 →
    Completes .tblRelease s (fun d => d.tblState = 0 ∧ d.fab.draining = false ∧ d.lay = s.dev.lay)) ∧
  (∀ (s : State),
    sound s.dev = true → s.dev.pfOk = true → s.dev.ctl.hostUp = true →
    Completes .dumpActive s (fun d => Out.hostWrite 0 (s.dev.fld R.FAB_TBL_ADDR) (s.dev.lay.active ++
      zeros (524416 - s.dev.lay.active.length)) ∈ d.out ∧
      d.lay = s.dev.lay)) ∧
  (∀ (s : State),
    sound s.dev = true → s.dev.pfOk = true → s.dev.ctl.hostUp = true →
    Completes .dumpGroups s (fun d => Out.hostWrite 0 (s.dev.fld R.FAB_TBL_ADDR) (if s.dev.lay.groups.isEmpty = true then (List.range 3072).flatMap (fun _ => [0xFF, 0xFF] ++ zeros 254) else s.dev.lay.groups) ∈ d.out ∧
      d.lay = s.dev.lay)) ∧
  (∀ (s : State),
    sound s.dev = true → s.dev.pfOk = true →
    Completes (.loadGroups none) s (fun d => d.lay = s.dev.lay ∧ d.fld R.FAB_RT_STATUS_GRP_ERR = 1)) ∧
  (∀ (s : State) (img : List Byte),
    sound s.dev = true → s.dev.pfOk = true → s.dev.ctl.hostUp = true →
    Completes (.loadGroups (some img)) s (fun d =>
      d.lay.groups = (match groupsBad s.dev img with | some _ => s.dev.lay.groups | none => img) ∧
      d.lay.cur = s.dev.lay.cur))

/-- Received frames reach the yard of their address, and the scheduler sends the next frame (R395, R397, R398). -/
def Obligations.EthernetFrames : Prop :=
  (∀ (s : State) (u : Nat) (f : EthFrame) (y : Nat),
    sound s.dev = true → s.dev.subOk u = true → s.dev.fld (R.ETH_SUB_STATE_LINK u) = 2 → 64 ≤ f.len → f.bad = false →
    f.runt = false → f.codeErr = false → f.len ≤ s.dev.fld R.ETH_MAX_FRAME → f.etherType ∉ [0x8808, 0x88CC, 0x0806] →
    (f.dstMac ∈ [s.dev.fld (R.ETH_SUB_MAC u) % 2 ^ 48, 0xFFFFFFFFFFFF, 0x0180C200000E] ∨ f.dstMac / 2 ^ 32 = 0x3333) →
    s.dev.localYard f.dstIp f.ip6 = some y → f.ndSolicit = false → f.isIp = true → s.dev.bayState y = 1 →
    (f.udpPort = s.dev.fld (R.TRN_UDP_PORT y) ∨ f.udpPort = 4791) →
    (if (f.udpPort != s.dev.fld (R.TRN_UDP_PORT y)) = true then udpAt f 0 1 != 0x81 else wrtOpcode (udpAt f 1 1)) = true →
    s.dev.rxHeld (u / 4) (s.dev.rxBay y (connNoOf f (f.udpPort != s.dev.fld (R.TRN_UDP_PORT y)))) (bits (s.dev.fld (R.ETH_DSCP_MAP (f.dscp / 8))) (4 * (f.dscp % 8)) 3) + f.len ≤ 1024 * s.dev.fld (R.ETH_CLS_RXLIM (s.dev.rxBay y (connNoOf f (f.udpPort != s.dev.fld (R.TRN_UDP_PORT y)))) (bits (s.dev.fld (R.ETH_DSCP_MAP (f.dscp / 8))) (4 * (f.dscp % 8)) 3)) →
    s.dev.rxPort (u / 4) + f.len ≤ 25165824 →
    Completes (.ethFrameReceived u f) s (fun d => d.eth.rx = s.dev.eth.rx ++
      [{ port := u / 4, bay := (s.dev.rxBay y (connNoOf f (f.udpPort != s.dev.fld (R.TRN_UDP_PORT y)))), cls := (bits (s.dev.fld (R.ETH_DSCP_MAP (f.dscp / 8))) (4 * (f.dscp % 8)) 3), len := f.len, yard := some y, conn := connNoOf f (f.udpPort != s.dev.fld (R.TRN_UDP_PORT y)) }] ∧
      d.fld (R.ETH_RX_FRAMES u) = (s.dev.fld (R.ETH_RX_FRAMES u) + 1) % 2 ^ (R.ETH_RX_FRAMES u).w ∧
      d.out = s.dev.out ∧ d.mem = s.dev.mem)) ∧
  (∀ (s : State) (u : Nat) (f : EthFrame),
    sound s.dev = true → s.dev.subOk u = true → s.dev.fld (R.ETH_SUB_STATE_LINK u) = 2 → 64 ≤ f.len → f.bad = false →
    f.runt = false → f.codeErr = false → f.len ≤ s.dev.fld R.ETH_MAX_FRAME → f.etherType = 0x8808 →
    Completes (.ethFrameReceived u f) s (fun d =>
      d.fld (R.ETH_RX_PAUSE u) = (s.dev.fld (R.ETH_RX_PAUSE u) + 1) % 2 ^ (R.ETH_RX_PAUSE u).w ∧
      d.eth = s.dev.eth ∧ d.out = s.dev.out ∧ d.mem = s.dev.mem)) ∧
  (∀ (s : State) (u : Nat) (f : EthFrame),
    sound s.dev = true → s.dev.subOk u = true → s.dev.fld (R.ETH_SUB_STATE_LINK u) = 2 → 64 ≤ f.len → f.bad = false →
    f.runt = false → f.codeErr = false → f.len ≤ s.dev.fld R.ETH_MAX_FRAME → f.etherType = 0x88F7 → f.isIp = false →
    (f.dstMac ∈ [s.dev.fld (R.ETH_SUB_MAC u) % 2 ^ 48, 0xFFFFFFFFFFFF, 0x0180C200000E] ∨ f.dstMac / 2 ^ 32 = 0x3333) →
    s.dev.localYard f.dstIp f.ip6 = none → f.ndSolicit = false → s.dev.eth.rxOn = true → s.dev.ctl.hostUp = true →
    (s.dev.fld R.ETH_MGMT_RX_HEAD + 2 ^ 32 - s.dev.fld R.ETH_MGMT_RX_TAIL) % 2 ^ 32 ≠ 2 ^ bits (s.dev.fld R.ETH_MGMT_RING_CFG) 0 5 →
    s.dev.rxHeld (u / 4) 0 7 + f.len ≤ 1024 * s.dev.fld (R.ETH_CLS_RXLIM 0 7) →
    s.dev.rxPort (u / 4) + f.len ≤ 25165824 →
    Completes (.ethFrameReceived u f) s (fun d =>
      d.fld R.ETH_MGMT_RX_HEAD = (s.dev.fld R.ETH_MGMT_RX_HEAD + 1) % 2 ^ 32 ∧
      (d.out.drop s.dev.out.length).head?.map (fun o => match o with | .hostWrite 0 a _ => decide (a = s.dev.fld R.ETH_MGMT_RX_ADDR + s.dev.fld R.ETH_MGMT_RX_HEAD % 2 ^ bits (s.dev.fld R.ETH_MGMT_RING_CFG) 0 5 * 2 ^ bits (s.dev.fld R.ETH_MGMT_RING_CFG) 8 4) | _ => false) = some true ∧
      d.mem = s.dev.mem)) ∧
  (∀ (s : State) (u b : Nat) (f : EthTx),
    sound s.dev = true → s.dev.subOk u = true → s.dev.fld (R.ETH_SUB_STATE_LINK u) = 2 →
    s.dev.on (R.ETH_SUB_STATE_LPI_TX u) = false →
    firstOf (s.dev.sub u).urgent (fun b => (if b = 12 then ((s.dev.sub u).head 12 7).filter (s.dev.eligible u) else s.dev.ready u b 7).isSome) = some b →
    (if b = 12 then ((s.dev.sub u).head 12 7).filter (s.dev.eligible u) else s.dev.ready u b 7) = some f →
    f.len ≤ s.dev.fld R.ETH_MAX_FRAME →
    Completes (.transmitPick u) s (fun d => Out.eth u f ∈ d.out ∧ (d.sub u).queue = (s.dev.sub u).queue.erase f)) ∧
  (∀ (s : State) (u : Nat) (f : EthTx),
    sound s.dev = true → s.dev.subOk u = true → s.dev.fld (R.ETH_SUB_STATE_LINK u) = 2 →
    s.dev.on (R.ETH_SUB_STATE_LPI_TX u) = false → (s.dev.sub u).queue = [f] → f.bay < 12 → f.cls < 7 →
    s.dev.eligible u f = true → f.bay ∈ (s.dev.sub u).bayOrder →
    f.cls ∈ (s.dev.sub u).clsOrder.getD f.bay (List.range 7) → f.len ≤ s.dev.fld R.ETH_MAX_FRAME →
    Completes (.transmitPick u) s (fun d => Out.eth u f ∈ d.out ∧ (d.sub u).queue = [])) ∧
  (∀ (s : State) (v : Nat) (slots : List (List Byte)),
    sound s.dev = true → s.dev.pfOk = true →
    Completes (.ethMgmtTxTail v slots) s (fun d => d.fld R.ETH_MGMT_TX_TAIL = v % 2 ^ R.ETH_MGMT_TX_TAIL.w ∧
      d.eth.txOn = true ∧ d.mem = s.dev.mem)) ∧
  (∀ (s : State) (v : Nat) (bs : List Byte) (u : Nat),
    sound s.dev = true → s.dev.pfOk = true → (v + 2 ^ 32 - s.dev.ctl.txNext) % 2 ^ 32 = 1 → u = le bs 3 1 % 16 →
    s.dev.subOk u = true → s.dev.fld (R.ETH_SUB_STATE_LINK u) = 2 →
    max 64 (le bs 0 2 + 4) ≤ s.dev.fld R.ETH_MAX_FRAME →
    Completes (.ethMgmtTxTail v [bs]) s (fun d => (d.sub u).queue = (s.dev.sub u).queue ++
      [{ bay := 12, cls := 7, len := max 64 (le bs 0 2 + 4), bytes := patch (slice bs 0x20 (le bs 0 2) ++ zeros (if le bs 0 2 + 4 < 64 then 60 - (slice bs 0x20 (le bs 0 2)).length else 0)) 6 (beBytes 6 (s.dev.fld (R.ETH_SUB_MAC u) % 2 ^ 48)), weight := 0, slot := some (s.dev.ctl.txNext % 2 ^ bits (s.dev.fld R.ETH_MGMT_RING_CFG) 0 5), stamp := bit (le bs 2 1) 0 }] ∧
      d.fld R.ETH_MGMT_TX_TAIL = v % 2 ^ R.ETH_MGMT_TX_TAIL.w ∧ d.eth.txOn = true))

/-- Shapers, gates, low-power idle, time and subport links act as R402 to R409 state (R402, R404, R405, R406, R407,
  R409). -/
def Obligations.EthernetTimersAndStates : Prop :=
  (∀ (s : State) (b c : Nat),
    sound s.dev = true → b < 12 → c < 8 → b < s.dev.eth.tokens.length → c < (s.dev.eth.tokens.getD b []).length →
    Completes (.shaperRefill b c) s (fun d => d.tokens b c = min ((s.dev.fld (R.ETH_CLS_BURST b c) : Nat) : Int) (s.dev.tokens b c + ((s.dev.fld (R.ETH_CLS_RATE b c) * s.dev.fld R.ETH_REFILL / 80 : Nat) : Int)) ∧
      d.out = s.dev.out ∧ d.mem = s.dev.mem)) ∧
  (∀ (s : State) (c : Nat),
    sound s.dev = true →
    Completes (.shaperRefill 12 c) s (fun d => d.eth.mgmtTok = min 65536 (s.dev.eth.mgmtTok + ((s.dev.fld R.ETH_MGMT_RATE * s.dev.fld R.ETH_REFILL / 80 : Nat) : Int)) ∧
      d.out = s.dev.out ∧ d.regs = s.dev.regs)) ∧
  (∀ (s : State) (u : Nat),
    sound s.dev = true → s.dev.subOk u = true → (s.dev.sub u).gates.entries ≠ [] →
    Completes (.gateEntryEnd u) s (fun d => ((d.sub u).gix,
      (d.sub u).gend) = (s.dev.sub u).gates.place (s.dev.sub u).gend ∧
      d.regs = s.dev.regs ∧ d.out = s.dev.out)) ∧
  (∀ (s : State) (u : Nat),
    sound s.dev = true → s.dev.pfOk = true → s.dev.subOk u = true →
    Completes (.configChange u) s (fun d => (d.sub u).pend.map (fun e => e.1) = some (s.dev.adminList u) ∧
      d.fld ((R.ETH_GCL_STATUS u).sub 0 1) = 1 ∧
      (∀ e ∈ (d.sub u).pend, s.dev.fld R.ETH_TIME + 1000 ≤ e.2 ∨ (s.dev.adminList u).cycle = 0) ∧ d.out = s.dev.out ∧
      d.mem = s.dev.mem)) ∧
  (∀ (s : State) (u : Nat) (g : GateList) (T : Nat),
    sound s.dev = true → u < 16 → (s.dev.sub u).pend = some (g, T) →
    Completes (.gclChangeTime u) s (fun d => (d.sub u).gates = g ∧ ((d.sub u).gix, (d.sub u).gend) = g.place T ∧
      (d.sub u).pend = none ∧ d.fld ((R.ETH_GCL_STATUS u).sub 0 1) = 0 ∧ d.out = s.dev.out)) ∧
  (∀ (s : State) (u : Nat),
    sound s.dev = true → s.dev.subOk u = true → s.dev.fld (R.ETH_SUB_STATE_LINK u) = 2 →
    bit (s.dev.fld (R.ETH_LPI_CTRL u)) 0 = true → s.dev.on (R.ETH_SUB_STATE_EEE_PEER u) = true →
    s.dev.fld (R.ETH_LPI_TW u) ≠ 0 → (s.dev.sub u).queue = [] → s.dev.gated u = false →
    s.dev.on (R.ETH_SUB_STATE_LPI_TX u) = false →
    Completes (.lpiEntry u) s (fun d => d.fld (R.ETH_SUB_STATE_LPI_TX u) = 1 ∧
      d.out = s.dev.out ++ [.ethIdle u true] ∧ d.eth = s.dev.eth)) ∧
  (∀ (s : State) (u : Nat),
    sound s.dev = true → u < 16 → s.dev.on (R.ETH_SUB_STATE_LPI_TX u) = true →
    Completes (.lpiWake u) s (fun d => d.fld (R.ETH_SUB_STATE_LPI_TX u) = 0 ∧
      d.out = s.dev.out ++ [.ethIdle u false] ∧ d.eth = s.dev.eth)) ∧
  (∀ (s : State) (u : Nat) (en : Bool),
    sound s.dev = true → s.dev.subOk u = true → s.dev.fld (R.ETH_SUB_STATE_LINK u) = 2 →
    Completes (.rxLowPowerIdle u en) s (fun d => d.fld (R.ETH_SUB_STATE_LPI_RX u) = b2n en ∧ d.out = s.dev.out ∧
      d.eth = s.dev.eth)) ∧
  (∀ (s : State) (v : Nat),
    sound s.dev = true → s.dev.pfOk = true →
    Completes (.ethTimeAdj v) s (fun d => d.fld R.ETH_TIME = (s.dev.fld R.ETH_TIME + if v % 2 ^ 32 < 2 ^ 31 then v % 2 ^ 32 else 2 ^ 64 - 2 ^ 32 + v % 2 ^ 32) % 2 ^ 64 ∧
      d.out = s.dev.out ∧ d.mem = s.dev.mem)) ∧
  (∀ (s : State) (u : Nat) (up : Bool),
    sound s.dev = true → s.dev.subOk u = true → (s.dev.fld (R.ETH_SUB_STATE_LINK u) ≠ if up = true then 2 else 1) →
    Completes (.subportLinkChange u up) s (fun d => (d.fld (R.ETH_SUB_STATE_LINK u) = if up = true then 2 else 1) ∧
      Out.ethUp u up ∈ d.out ∧ d.fld (R.ETH_EVENTS.sub 0 1) = 1 ∧ d.mem = s.dev.mem))

/-- SELECT completes and keeps the residual; DEMAND writes its output (R191 to R196, R221, R222). -/
def Obligations.SelectAndDemand : Prop :=
  (∀ (s : State) (y t : Nat) (p : Plan) (h : Thr) (st : Machine.Step) (host : HostSide) (q0 q1 q2 : Place) (t3 a3 : Nat) (q4 : Place) (gs es : List Byte),
    sound s.dev = true → (s.dev.yard y).plan = some p → (s.dev.yard y).thrs[t]? = some h → p.steps[h.pc]? = some st →
    (s.dev.issue y t tSelect).isSome = true → s.dev.refPlace y p st h.env 0 = some q0 →
    s.dev.refPlace y p st h.env 3 = some q1 →
    s.dev.bufPlace y (p.buf (st.sp 0x6C 2)) ((if s.dev.odd y then (p.buf (st.sp 0x6C 2)).len / 2 else 0) + st.bitternAt h.env) = some q2 →
    s.dev.bufPlace y (p.buf (st.sp 0x6C 2)) ((if s.dev.odd y then 0 else (p.buf (st.sp 0x6C 2)).len / 2) + st.bitternAt h.env) = some (.mem t3 a3) →
    s.dev.bufPlace y (p.buf (st.sp 0x6E 2)) 0 = some q4 → readsAs s.dev y q0 (4 * st.count) host = some gs →
    readsAs s.dev y q2 (4 * st.count) { xl := .hit, data := [], bad := false } = some es →
    writesTo s.dev y q1 host = true → writesTo s.dev y (.mem t3 a3) host = true →
    writesTo s.dev y q4 { xl := .hit, data := [], bad := false } = true → p.sheds = [] →
    Completes (.select y t host) s (fun d => (d.active y t).map (fun a => a.code) = some (some 0) ∧
      d.mem.read (s.dev.addr y t3 a3) (selectOut gs es st.count (st.sp 0x68 4) (s.dev.fld (R.PLN_STEP_COUNT y))).rest.length = (selectOut gs es st.count (st.sp 0x68 4) (s.dev.fld (R.PLN_STEP_COUNT y))).rest ∧
      (match q1 with | .mem t1 a1 => ((List.range (selectOut gs es st.count (st.sp 0x68 4) (s.dev.fld (R.PLN_STEP_COUNT y))).head.length).all (fun i => outsideOf s.dev y (.mem t3 a3) (selectOut gs es st.count (st.sp 0x68 4) (s.dev.fld (R.PLN_STEP_COUNT y))).rest.length (s.dev.addr y t1 a1 + i)) = true → d.mem.read (s.dev.addr y t1 a1) (selectOut gs es st.count (st.sp 0x68 4) (s.dev.fld (R.PLN_STEP_COUNT y))).head.length = (selectOut gs es st.count (st.sp 0x68 4) (s.dev.fld (R.PLN_STEP_COUNT y))).head) | .host ps va => Out.hostVWrite (y + 1) ps va (selectOut gs es st.count (st.sp 0x68 4) (s.dev.fld (R.PLN_STEP_COUNT y))).head (bit (s.dev.fld (R.YRD_HOST_CTRL y)) 0) ∈ d.out) ∧
      (∀ x, (outsideOf s.dev y q1 ((selectOut gs es st.count (st.sp 0x68 4) (s.dev.fld (R.PLN_STEP_COUNT y))).head.length + 4 * st.count) x && outsideOf s.dev y (.mem t3 a3) (selectOut gs es st.count (st.sp 0x68 4) (s.dev.fld (R.PLN_STEP_COUNT y))).rest.length x && outsideOf s.dev y q4 (selectOut gs es st.count (st.sp 0x68 4) (s.dev.fld (R.PLN_STEP_COUNT y))).hist.length x) = true → d.mem.byte x = s.dev.mem.byte x))) ∧
  (∀ (s : State) (y t : Nat) (p : Plan) (h : Thr) (st : Machine.Step) (host : HostSide) (q : Place) (tj b : Nat) (bs : List Byte),
    sound s.dev = true → (s.dev.yard y).plan = some p → (s.dev.yard y).thrs[t]? = some h → p.steps[h.pc]? = some st →
    (s.dev.issue y t tDemand).isSome = true → s.dev.refPlace y p st h.env 0 = some q →
    s.dev.refPlace y p st h.env 3 = some (.mem tj b) → readsAs s.dev y q (4 * st.count) host = some bs →
    writesTo s.dev y (.mem tj b) host = true → p.sheds = [] →
    Completes (.demand y t host) s (fun d => (let o := st.sp 0x70 4;
      let cs := (List.range st.count).map (fun j => (j / max 1 (st.sp 0x6C 4 * le p.tables o 1), p.demandClass o (st.sp 0x68 2) (le bs (4 * j) 2) (le bs (4 * j + 2) 2))); let out := demandOutput (s.dev.fld (R.PLN_STEP_COUNT y)) (st.sp 0x68 2) (st.sp 0x6A 1) (le p.tables o 1) (st.sp 0x6C 4) cs; if bit (le p.tables (o + 2) 1) 0 = true ∧ cs.any (fun e => e.2 == .invalid) = true then (d.active y t).map (fun a => a.code) = some (some cLocalProtection) ∧ d.mem = s.dev.mem else (d.active y t).map (fun a => a.code) = some (some 0) ∧ d.mem.read (s.dev.addr y tj b) out.length = out) ∧
      (∀ x, (let o := st.sp 0x70 4; let cs := (List.range st.count).map (fun j => (j / max 1 (st.sp 0x6C 4 * le p.tables o 1), p.demandClass o (st.sp 0x68 2) (le bs (4 * j) 2) (le bs (4 * j + 2) 2))); let out := demandOutput (s.dev.fld (R.PLN_STEP_COUNT y)) (st.sp 0x68 2) (st.sp 0x6A 1) (le p.tables o 1) (st.sp 0x6C 4) cs; outsideOf s.dev y (.mem tj b) out.length x = true) → d.mem.byte x = s.dev.mem.byte x))) ∧
  (∀ (s : State) (y t : Nat) (p : Plan) (h : Thr) (st : Machine.Step) (host : HostSide) (q : Place) (ps va : Nat) (bs : List Byte),
    sound s.dev = true → (s.dev.yard y).plan = some p → (s.dev.yard y).thrs[t]? = some h → p.steps[h.pc]? = some st →
    (s.dev.issue y t tDemand).isSome = true → s.dev.refPlace y p st h.env 0 = some q →
    s.dev.refPlace y p st h.env 3 = some (.host ps va) → readsAs s.dev y q (4 * st.count) host = some bs →
    writesTo s.dev y (.host ps va) host = true →
    Completes (.demand y t host) s (fun d => (let o := st.sp 0x70 4;
      let cs := (List.range st.count).map (fun j => (j / max 1 (st.sp 0x6C 4 * le p.tables o 1), p.demandClass o (st.sp 0x68 2) (le bs (4 * j) 2) (le bs (4 * j + 2) 2))); let out := demandOutput (s.dev.fld (R.PLN_STEP_COUNT y)) (st.sp 0x68 2) (st.sp 0x6A 1) (le p.tables o 1) (st.sp 0x6C 4) cs; if bit (le p.tables (o + 2) 1) 0 = true ∧ cs.any (fun e => e.2 == .invalid) = true then (d.active y t).map (fun a => a.code) = some (some cLocalProtection) else (d.active y t).map (fun a => a.code) = some (some 0) ∧ Out.hostVWrite (y + 1) ps va out (bit (s.dev.fld (R.YRD_HOST_CTRL y)) 0) ∈ d.out) ∧
      d.mem = s.dev.mem))

/-- STREAM begins its deliveries; a drover reads a tile once and emits its packets (R227 to R229, R234, R240,
  R241). -/
def Obligations.StreamDeliveries : Prop :=
  (∀ (s : State) (y t : Nat) (p : Plan) (h : Thr) (st : Machine.Step) (host : HostSide) (q : Place),
    sound s.dev = true → (s.dev.yard y).plan = some p → (s.dev.yard y).thrs[t]? = some h → p.steps[h.pc]? = some st →
    (s.dev.issue y t tStream).isSome = true → le p.tables (st.sp 0x68 4 + 4) 2 = 0xFFFF →
    s.dev.refPlace y p st h.env 0 = some q →
    (if st.isLocal 3 = true then ((s.dev.refPlace y p st h.env 3).map (fun q => !q.inHost)).getD true else true) = true →
    Completes (.stream y t host) s (fun d => (let ds := (p.streamEnts (st.sp 0x68 4)).map (fun e => destSet (le p.tables (st.sp 0x68 4 + 0x14) 1) e.2 []); (let es := (List.zip (List.range ds.length) ds).filter (fun e => !e.2.isEmpty); if es.isEmpty = true then (d.active y t).map (fun a => a.code) = some (some 0) else ((d.active y t).bind (fun a => a.stream)).map (fun z => z.entries.map (fun e => (e.i, e.dests.map (fun x => x.accel)))) = some es)) ∧
      ((st.isLocal 3 = false ∧ st.sp 0x6C 2 = 0xFFFF) → d.mem = s.dev.mem))) ∧
  (∀ (s : State) (y t : Nat) (p : Plan) (h : Thr) (st : Machine.Step) (host : HostSide) (q : Place) (td ad : Nat),
    sound s.dev = true → (s.dev.yard y).plan = some p → (s.dev.yard y).thrs[t]? = some h → p.steps[h.pc]? = some st →
    (s.dev.issue y t tStream).isSome = true → le p.tables (st.sp 0x68 4 + 4) 2 ≠ 0xFFFF →
    s.dev.refPlace y p st h.env 0 = some q →
    (if st.isLocal 3 = true then ((s.dev.refPlace y p st h.env 3).map (fun q => !q.inHost)).getD true else true) = true →
    shedsStay s.dev y p st h.env = true → s.dev.demandPlace y p (st.sp 0x68 4) h.env = some (.mem td ad) →
    s.dev.mem.uc = [] → (0 :: s.dev.farPorts).all (fun q => s.dev.on (R.MEM_FAR_PORT_LINK_UP q)) = true →
    le (s.dev.mem.read (s.dev.addr y td ad) 64) 0 8 = s.dev.fld (R.PLN_STEP_COUNT y) →
    le (s.dev.mem.read (s.dev.addr y td ad) 64) 0xA 1 = le p.tables (st.sp 0x68 4 + 0x14) 1 →
    Completes (.stream y t host) s (fun d => (let ds := (p.streamEnts (st.sp 0x68 4)).map (fun e => destSet (le p.tables (st.sp 0x68 4 + 0x14) 1) e.2 (if bit e.2 31 = true then [] else s.dev.mem.read (s.dev.addr y td (ad + bits e.2 0 28)) (bits e.2 28 3 + 1))); (let es := (List.zip (List.range ds.length) ds).filter (fun e => !e.2.isEmpty); if es.isEmpty = true then (d.active y t).map (fun a => a.code) = some (some 0) else ((d.active y t).bind (fun a => a.stream)).map (fun z => z.entries.map (fun e => (e.i, e.dests.map (fun x => x.accel)))) = some es)))) ∧
  (∀ (s : State) (y t dr : Nat) (host : HostSide) (p : Plan) (st : Machine.Step) (e : EntrySt) (z : StreamSt) (raw bs : List Byte),
    sound s.dev = true → s.dev.live y = true → s.dev.inService y t dr = some (p, st, e) →
    (s.dev.active y t).bind (fun a => a.stream) = some z → dr < 12 → e.data = none → e.slot = none → e.fill = none →
    readsAs s.dev y e.tile (le p.tables (st.sp 0x68 4 + 0x20) 8) host = some raw →
    deliverTile (le p.tables (st.sp 0x68 4 + 7) 1) (le p.tables (st.sp 0x68 4 + 0x15) 1) (le p.tables (st.sp 0x68 4 + 0x18) 8) (st.sp 0x6F 1) raw = some bs →
    Completes (.deliveryEmit y t dr host) s (fun d =>
      ((d.active y t).bind (fun a => a.stream)).map (fun z => z.entries) = some (z.entries.map (fun x => if x.i = e.i then { x with data := some bs } else x)) ∧
      d.fld (R.DRV_BYTES_READ y) = (s.dev.fld (R.DRV_BYTES_READ y) + (le p.tables (st.sp 0x68 4 + 0x20) 8)) % 2 ^ 64 ∧
      d.mem = s.dev.mem)) ∧
  (∀ (s : State) (y t dr : Nat) (host : HostSide) (p : Plan) (st : Machine.Step) (e : EntrySt) (z : StreamSt) (shed k : Nat) (raw bs : List Byte),
    sound s.dev = true → s.dev.live y = true → s.dev.inService y t dr = some (p, st, e) →
    (s.dev.active y t).bind (fun a => a.stream) = some z → dr < 12 → e.data = none → e.fill = none →
    z.shed = some shed → e.slot = some k →
    readsAs s.dev y (.mem 1 (shed + 4096 + k * (le p.tables (st.sp 0x68 4 + 0x20) 8))) (le p.tables (st.sp 0x68 4 + 0x20) 8) host = some raw →
    deliverTile (le p.tables (st.sp 0x68 4 + 7) 1) (le p.tables (st.sp 0x68 4 + 0x15) 1) (le p.tables (st.sp 0x68 4 + 0x18) 8) (st.sp 0x6F 1) raw = some bs →
    Completes (.deliveryEmit y t dr host) s (fun d =>
      ((d.active y t).bind (fun a => a.stream)).map (fun z => z.entries) = some (z.entries.map (fun x => if x.i = e.i then { x with data := some bs } else x)) ∧
      d.fld (R.DRV_SHED_HITS y) = (s.dev.fld (R.DRV_SHED_HITS y) + 1) % 2 ^ 64 ∧ d.mem = s.dev.mem)) ∧
  (∀ (s : State) (y t dr : Nat) (host : HostSide) (p : Plan) (st : Machine.Step) (e : EntrySt) (z : StreamSt) (shed k a : Nat) (raw bs : List Byte),
    sound s.dev = true → s.dev.live y = true → s.dev.inService y t dr = some (p, st, e) →
    (s.dev.active y t).bind (fun a => a.stream) = some z → dr < 12 → e.data = none → e.slot = none →
    z.shed = some shed → e.fill = some k → e.tile = .mem 2 a → z.slotWanted e.i k = false →
    z.fills.all (fun f => f.1 != k) = true →
    readsAs s.dev y e.tile (le p.tables (st.sp 0x68 4 + 0x20) 8) host = some raw →
    deliverTile (le p.tables (st.sp 0x68 4 + 7) 1) (le p.tables (st.sp 0x68 4 + 0x15) 1) (le p.tables (st.sp 0x68 4 + 0x18) 8) (st.sp 0x6F 1) raw = some bs →
    Completes (.deliveryEmit y t dr host) s (fun d =>
      ((d.active y t).bind (fun a => a.stream)).map (fun z => (z.entries,
      z.fills)) = some (z.entries.map (fun x => if x.i = e.i then { x with data := some bs } else x), z.fills ++ [(k,
      a / 64, e.score)]) ∧
      d.mem.read (s.dev.addr y 1 (shed + 4096 + k * raw.length)) raw.length = raw ∧
      (∀ x, (outsideOf s.dev y (.mem 1 (shed + 16 * k)) 8 x &&
        outsideOf s.dev y (.mem 1 (shed + 4096 + k * raw.length)) raw.length x) = true →
        d.mem.byte x = s.dev.mem.byte x))) ∧
  (∀ (s : State) (y t dr : Nat) (host : HostSide) (p : Plan) (st : Machine.Step) (e : EntrySt) (z : StreamSt) (x : DestSt) (bs : List Byte) (b : LandBuf),
    sound s.dev = true → s.dev.live y = true → s.dev.inService y t dr = some (p, st, e) →
    (s.dev.active y t).bind (fun a => a.stream) = some z → dr < 12 → e.data = some bs →
    s.dev.badDest y p st e = false → e.dests = [x] → p.deliverPkts st ≠ 0 →
    s.dev.granted y p (st.sp 0x68 4) x = true →
    (s.dev.yard y).land (p.destOf (st.sp 0x68 4) x.accel).1 (p.destOf (st.sp 0x68 4) x.accel).2 = some b →
    s.dev.unanswered (p.destOf (st.sp 0x68 4) x.accel).1 < 512 → s.dev.droverTurn y dr = some t →
    s.dev.keyed y = true →
    Completes (.deliveryEmit y t dr host) s (fun d =>
      d.fld (R.DRV_EGRESS y dr) = (s.dev.fld (R.DRV_EGRESS y dr) + (slice bs (4096 * x.sent) 4096).length) % 2 ^ 64 ∧
      ((d.active y t).bind (fun a => a.stream)).map (fun z => z.entries) = some (List.map (fun w => if w.i = e.i then { w with begun := true } else w) (z.entries.map (fun w => if w.i = e.i then { w with dests := w.dests.map (fun v => if v.accel = x.accel then { v with sent := x.sent + 1 } else v) } else w))) ∧
      Tab.find (d.yard y).landReqs (s.dev.yard y).ansNext = some { owner := .delivery t e.i x.accel, dst := (p.destOf (st.sp 0x68 4) x.accel).1, buf := (p.destOf (st.sp 0x68 4) x.accel).2 } ∧
      ((d.yard y).land (p.destOf (st.sp 0x68 4) x.accel).1 (p.destOf (st.sp 0x68 4) x.accel).2).map (fun z => z.out) = some (b.out + 1) ∧
      d.mem = s.dev.mem)) ∧
  (∀ (s : State) (y t slot : Nat) (z : StreamSt) (shed : Nat) (f : Nat × Nat × Nat),
    sound s.dev = true → s.dev.live y = true → (s.dev.active y t).bind (fun a => a.stream) = some z →
    z.shed = some shed → z.fills.find? (fun f => f.1 == slot) = some f → s.dev.mem.uc = [] →
    Completes (.shedSlotFilled y t slot) s (fun d =>
      d.fld (R.DRV_SHED_FILLS y) = (s.dev.fld (R.DRV_SHED_FILLS y) + 1) % 2 ^ 64 ∧
      le (d.mem.read (s.dev.addr y 1 (shed + 16 * slot)) 10) 0 8 = f.2.1 % 2 ^ 58 + 2 ^ 63 ∧
      le (d.mem.read (s.dev.addr y 1 (shed + 16 * slot)) 10) 8 2 = f.2.2 % 2 ^ 16 ∧
      ((d.active y t).bind (fun a => a.stream)).map (fun z => z.fills) = some (z.fills.erase f) ∧
      (∀ b, (b < s.dev.addr y 1 (shed + 16 * slot) ∨ s.dev.addr y 1 (shed + 16 * slot) + 16 ≤ b) →
        d.mem.byte b = s.dev.mem.byte b))) ∧
  (∀ (s : State) (y v : Nat) (p : Plan) (x : Nat × Nat × Nat) (a k : Nat),
    sound s.dev = true → s.dev.cmdOk y = true → (s.dev.yard y).plan = some p →
    p.sheds.find? (fun e => e.1 == bits v 0 16) = some x → s.dev.shedAt y p (bits v 0 16) = some a →
    s.dev.mem.uc = [] → k < x.2.2 →
    Completes (.drvShedFlush y v) s (fun d => bit (le (d.mem.read (s.dev.addr y 1 (a + 16 * k)) 8) 0 8) 63 = false ∧
      d.yards = s.dev.yards ∧ d.regs = s.dev.regs ∧
      (∀ b, (b < s.dev.addr y 1 a ∨ s.dev.addr y 1 a + 16 * x.2.2 ≤ b) → d.mem.byte b = s.dev.mem.byte b)))

/-- The landing directory opens, closes and grants; answers and signals are taken in (R108, R232, R234, R366). -/
def Obligations.LandingDirectory : Prop :=
  (∀ (s : State) (y src nonce : Nat) (r : OpenReq),
    sound s.dev = true → s.dev.hears y = true → s.dev.keyed y = true →
    (((s.dev.yard y).replay.getD (y - y) []).all (fun e => e.src != src)) = true →
    ((s.dev.yard y).replay.getD (y - y) []).length < 2048 →
    (openMalformed r = true ∨ ((s.dev.yard y).land src r.buf).isSome = true ∨
      1024 * (s.dev.baysOf y).length ≤ (s.dev.yard y).lands.length) →
    Completes (.openBuf y src nonce r true) s (fun d => (d.yard y).lands = (s.dev.yard y).lands ∧
      d.mem = s.dev.mem)) ∧
  (∀ (s : State) (y src nonce : Nat) (r : OpenReq),
    sound s.dev = true → s.dev.hears y = true → s.dev.keyed y = true →
    (((s.dev.yard y).replay.getD (y - y) []).all (fun e => e.src != src)) = true →
    ((s.dev.yard y).replay.getD (y - y) []).length < 2048 → openMalformed r = false →
    (s.dev.yard y).land src r.buf = none → (s.dev.yard y).lands.length < 1024 * (s.dev.baysOf y).length →
    Completes (.openBuf y src nonce r true) s (fun d => ((d.yard y).land src r.buf).map (fun b => (b.kind, b.length,
      b.limit, b.closing)) = some (r.kind, r.length, (if r.kind = 1 then r.slots else 0), false) ∧
      d.fld (R.DRV_LAND_OPEN y) = (s.dev.yard y).lands.length + 1 ∧ d.mem = s.dev.mem)) ∧
  (∀ (s : State) (y src nonce buf : Nat) (b : LandBuf),
    sound s.dev = true → s.dev.hears y = true → s.dev.keyed y = true →
    (((s.dev.yard y).replay.getD (y - y) []).all (fun e => e.src != src)) = true →
    ((s.dev.yard y).replay.getD (y - y) []).length < 2048 → (s.dev.yard y).land src buf = some b →
    b.closing = false →
    Completes (.closeBuf y src nonce buf true) s (fun d => (d.yard y).land src buf = some { b with closing := true } ∧
      d.mem = s.dev.mem)) ∧
  (∀ (s : State) (y src buf : Nat) (b : LandBuf),
    sound s.dev = true → s.dev.live y = true → (s.dev.yard y).land src buf = some b → b.closing = true → b.out = 0 →
    s.dev.delivering y src buf = false →
    Completes (.closeAck y src buf) s (fun d => (d.yard y).land src buf = none ∧ d.mem = s.dev.mem)) ∧
  (∀ (s : State) (y src nonce buf epoch limit : Nat) (b : LandBuf),
    sound s.dev = true → s.dev.hears y = true → s.dev.keyed y = true →
    (((s.dev.yard y).replay.getD (y - y) []).all (fun e => e.src != src)) = true →
    ((s.dev.yard y).replay.getD (y - y) []).length < 2048 → (s.dev.yard y).land src buf = some b → b.kind = 1 →
    epoch = s.dev.fld (R.DRV_EPOCH y) % 256 → serialBelow b.limit limit = true →
    Completes (.grant y src nonce buf epoch limit true) s (fun d =>
      (d.yard y).land src buf = some { b with limit := limit % 2 ^ 32 } ∧
      d.mem = s.dev.mem)) ∧
  (∀ (s : State) (y src ansId status reason buf : Nat) (q : LandReq),
    sound s.dev = true → s.dev.hears y = true → s.dev.keyed y = true →
    Tab.find (s.dev.yard y).landReqs ansId = some q → q.dst = src → q.buf = buf →
    s.dev.comms.all (fun e => e.2.landq.isEmpty) = true →
    (s.dev.yard y).lands.all (fun b => b.landed.isEmpty) = true →
    (match q.owner with | .lap c _ => (s.dev.ringThreads y c).isEmpty | .gone => true | _ => false) = true →
    Completes (.landAns y src ansId status reason buf true) s (fun d =>
      (d.yard y).landReqs = Tab.del (s.dev.yard y).landReqs ansId ∧
      ((d.yard y).land src buf).map (fun b => b.out) = ((s.dev.yard y).land src buf).map (fun b => b.out - 1) ∧
      d.fld (R.DRV_REFUSALS y) = (s.dev.fld (R.DRV_REFUSALS y) + (if status = 0 then 0 else 1)) % 2 ^ 64 ∧
      d.mem = s.dev.mem)) ∧
  (∀ (s : State) (y src ansId reason buf t i a : Nat) (p : Plan) (st : Machine.Step) (act : Active) (z : StreamSt) (e : EntrySt) (x : DestSt),
    sound s.dev = true → s.dev.hears y = true → s.dev.keyed y = true →
    Tab.find (s.dev.yard y).landReqs ansId = some { owner := .delivery t i a, dst := src, buf := buf } →
    s.dev.comms.all (fun e => e.2.landq.isEmpty) = true →
    (s.dev.yard y).lands.all (fun b => b.landed.isEmpty) = true → s.dev.activeStep y t = some (p, st, act) →
    act.stream = some z → z.entries.find? (fun e => e.i == i) = some e →
    e.dests.find? (fun x => x.accel == a) = some x → x.answered + 1 ≠ p.deliverPkts st →
    Completes (.landAns y src ansId 0 reason buf true) s (fun d =>
      (d.yard y).landReqs = Tab.del (s.dev.yard y).landReqs ansId ∧
      ((d.active y t).bind (fun a => a.stream)).map (fun z => z.entries) = some (z.entries.map (fun w => if w.i = i then { w with dests := w.dests.map (fun v => if v.accel = a then { v with answered := v.answered + 1 } else v) } else w)) ∧
      d.mem = s.dev.mem)) ∧
  (∀ (s : State) (y src ansId reason buf t i a : Nat) (p : Plan) (st : Machine.Step) (act : Active) (z : StreamSt) (e : EntrySt) (x : DestSt) (b : LandBuf),
    sound s.dev = true → s.dev.hears y = true → s.dev.keyed y = true →
    Tab.find (s.dev.yard y).landReqs ansId = some { owner := .delivery t i a, dst := src, buf := buf } →
    s.dev.comms.all (fun e => e.2.landq.isEmpty) = true →
    (s.dev.yard y).lands.all (fun b => b.landed.isEmpty) = true → s.dev.activeStep y t = some (p, st, act) →
    act.stream = some z → z.entries.find? (fun e => e.i == i) = some e →
    e.dests.find? (fun x => x.accel == a) = some x → x.answered + 1 = p.deliverPkts st → s.dev.live y = true →
    p.destOf z.table x.accel = (src, buf) → ((s.dev.yard y).land src buf) = some b → b.ready = x.seq →
    Completes (.landAns y src ansId 0 reason buf true) s (fun d =>
      (d.yard y).landReqs = Tab.del (s.dev.yard y).landReqs ansId ∧
      d.fld (R.DRV_DELIVERIES y) = (s.dev.fld (R.DRV_DELIVERIES y) + 1) % 2 ^ 64 ∧
      ((d.yard y).land src buf).map (fun b => (b.ready, b.landed)) = some ((b.ready + 1) % 2 ^ 32, []))) ∧
  (∀ (s : State) (b src nonce event add y : Nat),
    sound s.dev = true → s.dev.yardOf b = some y → s.dev.hears y = true → s.dev.keyed y = true →
    (((s.dev.yard y).replay.getD (b - y) []).all (fun e => e.src != src)) = true →
    ((s.dev.yard y).replay.getD (b - y) []).length < 2048 → add ≠ 0 → add < 2 ^ 24 →
    Completes (.signalPacket b src nonce event add true) s (fun d =>
      d.fld (R.PLN_EVENT y (event % 64)) = min (s.dev.fld (R.PLN_EVENT y (event % 64)) + add) (2 ^ 64 - 1) ∧
      d.mem = s.dev.mem ∧ d.pans = s.dev.pans))

/-- CREATE, CONNECT, MODIFY, REHOME and DISCONNECT change a connection as R252 to R256 state (R252, R253, R255,
  R256). -/
def Obligations.ConnectionCommands : Prop :=
  (∀ (s : State) (y n : Nat) (bs : List Byte),
    sound s.dev = true → s.dev.yfOk y = true → (s.dev.yard y).fatal = false → s.dev.frozen y = false →
    s.dev.canMaster y = true → le bs 2 1 < 5 → windowOk (le bs 0x10 2) = true → le bs 0x12 1 < 3 → le bs 0x13 1 < 4 →
    retryOk bs = true → zeroAt bs 0x3D 67 = true →
    (3 ≤ le bs 2 1 → s.dev.conf y = false ∧ bit (le bs 0x13 1) 0 = false) →
    (bit (le bs 0x13 1) 0 = true → (Tab.find s.dev.lists (yk y (le bs 0x14 2))).isSome = true) →
    n < s.dev.connCount y → ((s.dev.conn y n).st = 0 ∨ ((s.dev.conn y n).st = 1 ∧ s.dev.planConn y n = true)) →
    (s.dev.yard y).setSnap = none →
    Completes (.create y n (some bs)) s (fun d => d.fld (R.TRN_CMD_STATUS_RESULT y) = 0 ∧
      d.fld (R.TRN_CMD_STATUS_DONE y) = 1 ∧
      ((d.conn y n).st, (d.conn y n).path, (d.conn y n).window, (d.conn y n).mtu, (d.conn y n).lastInc) = (1,
        le bs 2 1, le bs 0x10 2, 1024 * 2 ^ le bs 0x12 1, (s.dev.conn y n).lastInc) ∧
      d.mem = s.dev.mem)) ∧
  (∀ (s : State) (y n : Nat),
    sound s.dev = true → s.dev.yfOk y = true → (s.dev.yard y).fatal = false → s.dev.frozen y = false →
    (s.dev.yard y).setSnap = none →
    Completes (.create y n none) s (fun d => d.fld (R.TRN_CMD_STATUS_RESULT y) = cLocalProtection ∧
      d.fld (R.TRN_CMD_STATUS_DONE y) = 1 ∧ d.conns = s.dev.conns ∧ d.mem = s.dev.mem)) ∧
  (∀ (s : State) (y n : Nat) (desc : Option (List Byte)),
    sound s.dev = true → s.dev.yfOk y = true → (s.dev.yard y).fatal = false → s.dev.frozen y = true →
    (s.dev.yard y).setSnap = none →
    Completes (.create y n desc) s (fun d => d.fld (R.TRN_CMD_STATUS_RESULT y) = cYardFrozen ∧
      d.fld (R.TRN_CMD_STATUS_DONE y) = 1 ∧ d.conns = s.dev.conns ∧ d.mem = s.dev.mem)) ∧
  (∀ (s : State) (y n : Nat) (bs : List Byte) (c : Conn),
    sound s.dev = true → s.dev.yfOk y = true → (s.dev.yard y).fatal = false → s.dev.frozen y = false →
    s.dev.canMaster y = true → s.dev.conn y n = c → zeroAt bs 7 1 = true →
    (c.roce = true → zeroAt bs 0x0B 1 = true ∧ zeroAt bs 0x0F 1 = true) → peerOk c.path bs = true →
    (c.path ≠ 0 → le bs 0x39 1 < 64) → zeroAt bs 0x3D 67 = true →
    s.dev.fld ((R.TRN_CC_RATE_MIN y c.profile).sub 0 24) ≤ le bs 0x1C 4 → le bs 0x1C 4 ≤ c.rateMax →
    le bs 3 1 ≠ c.lastInc → n < s.dev.connCount y → c.st = 1 → (s.dev.yard y).setSnap = none →
    Completes (.connect y n (some bs)) s (fun d => d.fld (R.TRN_CMD_STATUS_RESULT y) = 0 ∧
      d.fld (R.TRN_CMD_STATUS_DONE y) = 1 ∧
      ((d.conn y n).st, (d.conn y n).inc, (d.conn y n).lastInc, (d.conn y n).peerAddr, (d.conn y n).peerConn) = (2,
        le bs 3 1, le bs 3 1, le bs 0 2, le bs 4 3) ∧
      ((d.conn y n).nextPsn, (d.conn y n).epsn) = (le bs 8 4 % c.psnMod, le bs 0x0C 4 % c.psnMod) ∧
      d.mem = s.dev.mem)) ∧
  (∀ (s : State) (y n : Nat) (bs : List Byte) (c : Conn),
    sound s.dev = true → s.dev.yfOk y = true → (s.dev.yard y).fatal = false → s.dev.frozen y = false →
    s.dev.canMaster y = true → s.dev.conn y n = c → retryOk bs = true → (c.path ≠ 0 → le bs 0x39 1 < 64) →
    zeroAt bs 0x3D 67 = true → c.st ∈ [1, 2, 3] → (s.dev.yard y).setSnap = none →
    Completes (.modify y n (some bs)) s (fun d => d.fld (R.TRN_CMD_STATUS_RESULT y) = 0 ∧
      d.fld (R.TRN_CMD_STATUS_DONE y) = 1 ∧
      (d.conn y n = { c with retry := le bs 0x16 1, profile := le bs 0x17 1, rateMax := le bs 0x18 4, dscp := if c.path = 0 then c.dscp else le bs 0x39 1 }) ∧
      d.mem = s.dev.mem)) ∧
  (∀ (s : State) (y n : Nat) (bs : List Byte) (c : Conn),
    sound s.dev = true → s.dev.yfOk y = true → (s.dev.yard y).fatal = false → s.dev.frozen y = false →
    s.dev.canMaster y = true → s.dev.conn y n = c → peerOk c.path bs = true → zeroAt bs 0x3D 67 = true →
    le bs 2 1 = c.path → (c.st = 2 ∨ c.st = 3) → (s.dev.yard y).setSnap = none →
    Completes (.rehome y n (some bs)) s (fun d => d.fld (R.TRN_CMD_STATUS_RESULT y) = 0 ∧
      d.fld (R.TRN_CMD_STATUS_DONE y) = 1 ∧ (d.conn y n).peerAddr = le bs 0 2 ∧
      ((d.conn y n).st, (d.conn y n).nextPsn, (d.conn y n).una, (d.conn y n).epsn, (d.conn y n).pkts) = (c.st,
        c.nextPsn, c.una, c.epsn, c.pkts) ∧
      d.mem = s.dev.mem)) ∧
  (∀ (s : State) (y n : Nat) (c : Conn),
    sound s.dev = true → s.dev.yfOk y = true → (s.dev.yard y).fatal = false → s.dev.frozen y = false →
    s.dev.conn y n = c → c.st = 2 → (s.dev.yard y).setSnap = none →
    Completes (.disconnect y n) s (fun d => d.fld (R.TRN_CMD_STATUS_RESULT y) = 0 ∧
      d.fld (R.TRN_CMD_STATUS_DONE y) = 1 ∧ d.conn y n = { c with st := 3 } ∧ d.mem = s.dev.mem)) ∧
  (∀ (s : State) (y n : Nat) (c : Conn),
    sound s.dev = true → s.dev.yfOk y = true → (s.dev.yard y).fatal = false → s.dev.frozen y = false →
    s.dev.conn y n = c → (c.st = 1 ∨ c.st = 3) → (s.dev.yard y).setSnap = none →
    Completes (.disconnect y n) s (fun d => d.fld (R.TRN_CMD_STATUS_RESULT y) = 0 ∧
      d.fld (R.TRN_CMD_STATUS_DONE y) = 1 ∧ d.conns = s.dev.conns ∧ d.mem = s.dev.mem)) ∧
  (∀ (s : State) (y n : Nat) (c : Conn),
    sound s.dev = true → s.dev.yfOk y = true → (s.dev.yard y).fatal = false → s.dev.frozen y = false →
    s.dev.conn y n = c → c.st = 4 → (s.dev.yard y).setSnap = none →
    Completes (.disconnect y n) s (fun d => d.fld (R.TRN_CMD_STATUS_RESULT y) = 0 ∧
      d.fld (R.TRN_CMD_STATUS_DONE y) = 1 ∧ (d.conn y n).st = 1))

/-- DESTROY, the drain, the quarantine, QUERY and the match lists act as R252, R255, R282, R290 state (R252, R255, R282, R290). -/
def Obligations.ConnectionsEnd : Prop :=
  (∀ (s : State) (y n : Nat) (c : Conn),
    sound s.dev = true → s.dev.yfOk y = true → (s.dev.yard y).fatal = false → s.dev.frozen y = false →
    s.dev.conn y n = c → (c.st = 1 ∨ c.st = 4) → (s.dev.yard y).setSnap = none →
    Completes (.destroy y n) s (fun d => d.fld (R.TRN_CMD_STATUS_RESULT y) = 0 ∧
      d.fld (R.TRN_CMD_STATUS_DONE y) = 1 ∧ (d.conn y n).st = 5 ∧ Tab.find d.rings (yk y n) = none)) ∧
  (∀ (s : State) (y n : Nat) (c : Conn),
    sound s.dev = true → s.dev.conn y n = c → c.st = 3 → c.pkts.any (fun p => p.sent) = false → c.rsps = [] →
    c.ops.any (fun o => o.started && o.code.isNone) = false →
    Completes (.connDrainDone y n) s (fun d => (d.conn y n).st = 1)) ∧
  (∀ (s : State) (y n : Nat) (c : Conn),
    sound s.dev = true → s.dev.conn y n = c → c.st = 5 →
    Completes (.quarantineExpiry y n) s (fun d =>
      d.conn y n = { Conn.free with lastInc := c.lastInc, gen := c.gen, ctr := c.ctr } ∧
      d.regs = s.dev.regs ∧ d.mem = s.dev.mem)) ∧
  (∀ (s : State) (y n : Nat) (c : Conn),
    sound s.dev = true → s.dev.yfOk y = true → (s.dev.yard y).fatal = false → s.dev.frozen y = false →
    s.dev.conn y n = c → s.dev.canMaster y = true → (s.dev.yard y).setSnap = none →
    Completes (.query y n) s (fun d => d.fld (R.TRN_CMD_STATUS_RESULT y) = 0 ∧ d.fld (R.TRN_CMD_STATUS_DONE y) = 1 ∧
      (d.out.getLast?.map (fun o => match o with | .hostWrite fn a bs => fn == y + 1 && a == s.dev.fld (R.TRN_CMD_ADDR y) && bs.length == 128 && le bs 0 1 == c.st % 256 && le bs 2 1 == c.lastInc % 256 | _ => false)) = some true ∧
      d.conns = s.dev.conns ∧ d.mem = s.dev.mem)) ∧
  (∀ (s : State) (y l : Nat) (bs : List Byte) (t a : Nat),
    sound s.dev = true → s.dev.yfOk y = true → (s.dev.yard y).fatal = false → s.dev.frozen y = false →
    s.dev.canMaster y = true → le bs 4 4 < 2 ^ 20 → le bs 8 1 < 8 → zeroAt bs 9 7 = true → zeroAt bs 0x20 32 = true →
    le bs 0x10 8 % 64 = 0 → le bs 0x18 8 % 16448 = 0 →
    s.dev.segAt y (le bs 4 4) (le bs 8 1) (le bs 0x10 8) (le bs 0x18 8) = some (t, a) → t < 2 →
    l < 64 * (s.dev.baysOf y).length → Tab.find s.dev.lists (yk y l) = none →
    le bs 0 4 ≤ s.dev.fld ((R.TRN_MATCH_FREE y).sub 0 19) → (s.dev.yard y).setSnap = none →
    Completes (.matchCreate y l (some bs)) s (fun d => d.fld (R.TRN_CMD_STATUS_RESULT y) = 0 ∧
      d.fld (R.TRN_CMD_STATUS_DONE y) = 1 ∧
      Tab.find d.lists (yk y l) = some { maxPosted := le bs 0 4, pasid := le bs 4 4, sg := le bs 8 1, off := le bs 0x10 8, len := le bs 0x18 8, posted := [], unexp := [] } ∧
      d.fld ((R.TRN_MATCH_FREE y).sub 0 19) = s.dev.fld ((R.TRN_MATCH_FREE y).sub 0 19) - le bs 0 4 ∧
      d.mem = s.dev.mem)) ∧
  (∀ (s : State) (y l : Nat) (q : MatchList),
    sound s.dev = true → s.dev.yfOk y = true → (s.dev.yard y).fatal = false → s.dev.frozen y = false →
    Tab.find s.dev.lists (yk y l) = some q →
    (ofYard s.dev.conns y).all (fun e => e.2.st == 0 || e.2.st == 5 || !e.2.tagged || e.2.matchList != l) = true →
    (s.dev.yard y).setSnap = none →
    Completes (.matchDestroy y l) s (fun d => d.fld (R.TRN_CMD_STATUS_RESULT y) = 0 ∧
      d.fld (R.TRN_CMD_STATUS_DONE y) = 1 ∧ Tab.find d.lists (yk y l) = none ∧
      d.fld ((R.TRN_MATCH_FREE y).sub 0 19) = (s.dev.fld ((R.TRN_MATCH_FREE y).sub 0 19) + q.maxPosted) % 2 ^ 19))

/-- A new SEND, SEND_IMM, TSEND, RTS or RNDV_FIN in turn is accepted and its message goes on (R264, R271, R283,
  R284). -/
def Obligations.MessagesReceived : Prop :=
  (∀ (s : State) (y : Nat) (h : WrtHdr) (c : Conn) (msn len off : Nat) (pl : List Byte) (host : HostSide) (e : REntry),
    sound s.dev = true → s.dev.conn y h.conn = c → newRequest s.dev y 1 h = true → c.msgs = [] → c.doneMsns = [] →
    c.early = [] → msn = c.rxMsn → host.xl = .hit → s.dev.canMaster y = true → (s.dev.yard y).inval = [] →
    s.dev.freeRecv y h.conn = some e → s.dev.mem.uc = [] →
    Completes (.send y h msn len off pl host) s (fun d =>
      d.fld (R.TRN_RX_PKTS y) = (s.dev.fld (R.TRN_RX_PKTS y) + 1) % 2 ^ 64 ∧
      (d.conn y h.conn).rxMsn = (if c.packets len = 1 then (msn + 1) % 2 ^ 32 else msn))) ∧
  (∀ (s : State) (y : Nat) (h : WrtHdr) (c : Conn) (msn len off : Nat) (pl : List Byte) (host : HostSide) (e : REntry) (p g q t a : Nat),
    sound s.dev = true → s.dev.conn y h.conn = c → newRequest s.dev y 1 h = true → c.msgs = [] → c.doneMsns = [] →
    c.early = [] → msn = c.rxMsn → s.dev.freeRecv y h.conn = some e → s.dev.mem.uc = [] →
    (0 :: s.dev.farPorts).all (fun q => s.dev.on (R.MEM_FAR_PORT_LINK_UP q)) = true → unbanked s.dev y = true →
    (s.dev.ring y h.conn).rq.inSeg = false → (s.dev.ring y h.conn).rq.live.find? (fun x => x.n == e.n) = some e →
    entryLoc (s.dev.ring y h.conn).rq.big true e.bytes = .seg p g q →
    off + pl.length ≤ entryLen (s.dev.ring y h.conn).rq.big true e.bytes →
    s.dev.segAt y p g (q + off) pl.length = some (t, a) →
    Completes (.send y h msn len off pl host) s (fun d =>
      d.fld (R.TRN_RX_PKTS y) = (s.dev.fld (R.TRN_RX_PKTS y) + 1) % 2 ^ 64 ∧
      (d.conn y h.conn).rxMsn = (if c.packets len = 1 then (msn + 1) % 2 ^ 32 else msn) ∧
      d.mem.read (s.dev.addr y t a) pl.length = pl ∧
      (∀ b, (b < (s.dev.addr y t a) ∨ (s.dev.addr y t a) + pl.length ≤ b) → d.mem.byte b = s.dev.mem.byte b))) ∧
  (∀ (s : State) (y : Nat) (h : WrtHdr) (c : Conn) (msn imm len off : Nat) (pl : List Byte) (host : HostSide) (e : REntry),
    sound s.dev = true → s.dev.conn y h.conn = c → newRequest s.dev y 2 h = true → c.msgs = [] → c.doneMsns = [] →
    c.early = [] → msn = c.rxMsn → host.xl = .hit → s.dev.canMaster y = true → (s.dev.yard y).inval = [] →
    s.dev.freeRecv y h.conn = some e → s.dev.mem.uc = [] →
    Completes (.sendImm y h msn imm len off pl host) s (fun d =>
      d.fld (R.TRN_RX_PKTS y) = (s.dev.fld (R.TRN_RX_PKTS y) + 1) % 2 ^ 64 ∧
      (d.conn y h.conn).rxMsn = (if c.packets len = 1 then (msn + 1) % 2 ^ 32 else msn))) ∧
  (∀ (s : State) (y : Nat) (h : WrtHdr) (c : Conn) (msn len off tag : Nat) (pl : List Byte) (host : HostSide) (l : MatchList) (k : Nat),
    sound s.dev = true → s.dev.conn y h.conn = c → newRequest s.dev y 3 h = true → c.msgs = [] → c.doneMsns = [] →
    c.early = [] → msn = c.rxMsn → c.tagged = true → Tab.find s.dev.lists (yk y c.matchList) = some l →
    l.posted.find? (fun p => p.hits tag h.conn) = none → l.freeSlot = some k →
    Completes (.tsend y h msn len off tag pl host) s (fun d =>
      d.fld (R.TRN_RX_PKTS y) = (s.dev.fld (R.TRN_RX_PKTS y) + 1) % 2 ^ 64 ∧
      (d.conn y h.conn).rxMsn = (if c.packets len = 1 then (msn + 1) % 2 ^ 32 else msn) ∧
      (Tab.find d.lists (yk y c.matchList)).map (fun q => q.unexp.map (fun u => (u.conn, u.msn, u.tag, u.len,
        u.slot))) = some (l.unexp.map (fun u => (u.conn, u.msn, u.tag, u.len, u.slot)) ++ [(h.conn, msn, tag, len,
        k)]))) ∧
  (∀ (s : State) (y : Nat) (h : WrtHdr) (c : Conn) (msn len off tag : Nat) (pl : List Byte) (host : HostSide) (l : MatchList) (p : Posted),
    sound s.dev = true → s.dev.conn y h.conn = c → newRequest s.dev y 3 h = true → c.msgs = [] → c.doneMsns = [] →
    c.early = [] → msn = c.rxMsn → host.xl = .hit → s.dev.canMaster y = true → (s.dev.yard y).inval = [] →
    s.dev.mem.uc = [] → c.tagged = true → Tab.find s.dev.lists (yk y c.matchList) = some l →
    l.posted.find? (fun p => p.hits tag h.conn) = some p → s.dev.cqFull y (s.dev.ring y p.ring).rq = false →
    Completes (.tsend y h msn len off tag pl host) s (fun d =>
      d.fld (R.TRN_RX_PKTS y) = (s.dev.fld (R.TRN_RX_PKTS y) + 1) % 2 ^ 64 ∧
      (d.conn y h.conn).rxMsn = (if c.packets len = 1 then (msn + 1) % 2 ^ 32 else msn) ∧
      (Tab.find d.lists (yk y c.matchList)).map (fun q => q.posted) = some (l.posted.erase p))) ∧
  (∀ (s : State) (y : Nat) (h : WrtHdr) (c : Conn) (msn handle len tag : Nat) (l : MatchList) (p : Posted),
    sound s.dev = true → s.dev.conn y h.conn = c → newRequest s.dev y 4 h = true → c.msgs = [] → c.doneMsns = [] →
    c.early = [] → msn = c.rxMsn → c.tagged = true → Tab.find s.dev.lists (yk y c.matchList) = some l →
    l.posted.find? (fun p => p.hits tag h.conn) = some p → s.dev.cqFull y (s.dev.ring y p.ring).rq = false →
    min len p.len ≤ c.window * c.mtu →
    Completes (.rts y h msn handle len tag) s (fun d =>
      d.fld (R.TRN_RX_PKTS y) = (s.dev.fld (R.TRN_RX_PKTS y) + 1) % 2 ^ 64 ∧
      (d.conn y h.conn).ops.getLast?.map (fun o => (o.opc, o.len, o.handle, o.loc)) = some (7, min len p.len, handle,
        p.loc) ∧
      (Tab.find d.lists (yk y c.matchList)).map (fun q => q.posted) = some (l.posted.erase p) ∧ d.mem = s.dev.mem)) ∧
  (∀ (s : State) (y : Nat) (h : WrtHdr) (c : Conn) (msn handle len tag : Nat) (l : MatchList) (k : Nat),
    sound s.dev = true → s.dev.conn y h.conn = c → newRequest s.dev y 4 h = true → c.msgs = [] → c.doneMsns = [] →
    c.early = [] → msn = c.rxMsn → c.tagged = true → Tab.find s.dev.lists (yk y c.matchList) = some l →
    l.posted.find? (fun p => p.hits tag h.conn) = none → l.freeSlot = some k →
    Completes (.rts y h msn handle len tag) s (fun d =>
      d.fld (R.TRN_RX_PKTS y) = (s.dev.fld (R.TRN_RX_PKTS y) + 1) % 2 ^ 64 ∧
      (d.conn y h.conn).rxMsn = (msn + 1) % 2 ^ 32 ∧
      (Tab.find d.lists (yk y c.matchList)).map (fun q => q.unexp.map (fun u => ((u.conn, u.msn, u.tag), u.len,
        u.slot, u.rts))) = some (l.unexp.map (fun u => ((u.conn, u.msn, u.tag), u.len, u.slot, u.rts)) ++ [((h.conn,
        msn, tag), len, k, some handle)]))) ∧
  (∀ (s : State) (y : Nat) (h : WrtHdr) (c : Conn) (msn handle len code : Nat) (o : SendOp),
    sound s.dev = true → s.dev.conn y h.conn = c → newRequest s.dev y 15 h = true → c.msgs = [] → c.doneMsns = [] →
    c.early = [] → msn = c.rxMsn → c.ops = [o] → o.opc = 4 → o.handle = handle → o.started = true → o.code = none →
    o.done = false → o.rndv = none →
    Completes (.rndvFin y h msn handle len code) s (fun d =>
      d.fld (R.TRN_RX_PKTS y) = (s.dev.fld (R.TRN_RX_PKTS y) + 1) % 2 ^ 64 ∧
      (d.conn y h.conn).ops.all (fun q => q.code == some 0 && q.operand == len) = true ∧
      (d.conn y h.conn).rxMsn = (msn + 1) % 2 ^ 32))

/-- A new access through an open window is served (R260, R261, R265 to R267, R348, R349). -/
def Obligations.WindowAccesses : Prop :=
  (∀ (s : State) (y : Nat) (h : WrtHdr) (c : Conn) (msn len off wkey : Nat) (pl : List Byte) (host : HostSide) (w : Win) (t a : Nat),
    sound s.dev = true → s.dev.conn y h.conn = c → newRequest s.dev y 5 h = true → c.msgs = [] → c.doneMsns = [] →
    c.early = [] → msn = c.rxMsn → s.dev.win y (wkey / 256) = w → wkey / 256 < s.dev.winCount y →
    w.grants h.conn 1 wkey off pl.length = true → w.kind = 0 →
    s.dev.segAt y w.pasid w.seg (w.base + off) pl.length = some (t, a) → s.dev.mem.uc = [] →
    (0 :: s.dev.farPorts).all (fun q => s.dev.on (R.MEM_FAR_PORT_LINK_UP q)) = true → unbanked s.dev y = true →
    Completes (.write y h msn len off wkey pl host) s (fun d =>
      d.fld (R.TRN_RX_PKTS y) = (s.dev.fld (R.TRN_RX_PKTS y) + 1) % 2 ^ 64 ∧
      d.win y (wkey / 256) = { w with accepted := w.accepted + 1 } ∧ d.mem.read (s.dev.addr y t a) pl.length = pl ∧
      (∀ b, (b < (s.dev.addr y t a) ∨ (s.dev.addr y t a) + pl.length ≤ b) → d.mem.byte b = s.dev.mem.byte b))) ∧
  (∀ (s : State) (y : Nat) (h : WrtHdr) (c : Conn) (msn len off wkey : Nat) (pl : List Byte) (host : HostSide) (w : Win),
    sound s.dev = true → s.dev.conn y h.conn = c → newRequest s.dev y 5 h = true → c.msgs = [] → c.doneMsns = [] →
    c.early = [] → msn = c.rxMsn → s.dev.win y (wkey / 256) = w → wkey / 256 < s.dev.winCount y →
    w.grants h.conn 1 wkey off pl.length = true → w.kind ≠ 0 → s.dev.hostLost y = false → host.xl = .hit →
    s.dev.canMaster y = true → (s.dev.yard y).inval = [] →
    Completes (.write y h msn len off wkey pl host) s (fun d =>
      d.fld (R.TRN_RX_PKTS y) = (s.dev.fld (R.TRN_RX_PKTS y) + 1) % 2 ^ 64 ∧
      d.win y (wkey / 256) = { w with accepted := w.accepted + 1 } ∧
      (pl = [] ∨ (newOut s.dev d).contains (.hostVWrite (y + 1) w.pasid (w.base + off) pl (bit (s.dev.fld (R.YRD_HOST_CTRL y)) 0)) = true) ∧
      d.mem = s.dev.mem)) ∧
  (∀ (s : State) (y : Nat) (h : WrtHdr) (c : Conn) (msn imm len off wkey : Nat) (pl : List Byte) (host : HostSide) (w : Win) (t a : Nat) (e : REntry),
    sound s.dev = true → s.dev.conn y h.conn = c → newRequest s.dev y 6 h = true → c.msgs = [] → c.doneMsns = [] →
    c.early = [] → msn = c.rxMsn → s.dev.win y (wkey / 256) = w → wkey / 256 < s.dev.winCount y →
    w.grants h.conn 1 wkey off pl.length = true → w.kind = 0 →
    s.dev.segAt y w.pasid w.seg (w.base + off) pl.length = some (t, a) → s.dev.mem.uc = [] →
    (0 :: s.dev.farPorts).all (fun q => s.dev.on (R.MEM_FAR_PORT_LINK_UP q)) = true → unbanked s.dev y = true →
    s.dev.freeRecv y h.conn = some e →
    Completes (.writeImm y h msn imm len off wkey pl host) s (fun d =>
      d.fld (R.TRN_RX_PKTS y) = (s.dev.fld (R.TRN_RX_PKTS y) + 1) % 2 ^ 64 ∧
      d.win y (wkey / 256) = { w with accepted := w.accepted + 1 } ∧
      ((s.dev.ring y h.conn).rq.inSeg = false → d.mem.read (s.dev.addr y t a) pl.length = pl))) ∧
  (∀ (s : State) (y : Nat) (h : WrtHdr) (c : Conn) (msn imm len off wkey : Nat) (pl : List Byte) (host : HostSide) (w : Win) (e : REntry),
    sound s.dev = true → s.dev.conn y h.conn = c → newRequest s.dev y 6 h = true → c.msgs = [] → c.doneMsns = [] →
    c.early = [] → msn = c.rxMsn → s.dev.win y (wkey / 256) = w → wkey / 256 < s.dev.winCount y →
    w.grants h.conn 1 wkey off pl.length = true → w.kind ≠ 0 → s.dev.hostLost y = false → host.xl = .hit →
    s.dev.canMaster y = true → (s.dev.yard y).inval = [] → s.dev.freeRecv y h.conn = some e →
    Completes (.writeImm y h msn imm len off wkey pl host) s (fun d =>
      d.fld (R.TRN_RX_PKTS y) = (s.dev.fld (R.TRN_RX_PKTS y) + 1) % 2 ^ 64 ∧
      d.win y (wkey / 256) = { w with accepted := w.accepted + 1 } ∧
      (pl = [] ∨ (newOut s.dev d).contains (.hostVWrite (y + 1) w.pasid (w.base + off) pl (bit (s.dev.fld (R.YRD_HOST_CTRL y)) 0)) = true) ∧
      ((s.dev.ring y h.conn).rq.inSeg = false → d.mem = s.dev.mem))) ∧
  (∀ (s : State) (y : Nat) (h : WrtHdr) (c : Conn) (msn len off wkey : Nat) (pl : List Byte) (host : HostSide) (w : Win) (t a : Nat),
    sound s.dev = true → s.dev.conn y h.conn = c → newRequest s.dev y 12 h = true → c.msgs = [] → c.doneMsns = [] →
    c.early = [] → msn = c.rxMsn → s.dev.win y (wkey / 256) = w → wkey / 256 < s.dev.winCount y →
    w.grants h.conn 3 wkey off pl.length = true → w.kind = 0 →
    s.dev.segAt y w.pasid w.seg (w.base + off) pl.length = some (t, a) → s.dev.mem.uc = [] →
    (0 :: s.dev.farPorts).all (fun q => s.dev.on (R.MEM_FAR_PORT_LINK_UP q)) = true → unbanked s.dev y = true →
    pl.length % 4 = 0 → off % 4 = 0 →
    Completes (.addwFp32 y h msn len off wkey pl host) s (fun d =>
      d.fld (R.TRN_RX_PKTS y) = (s.dev.fld (R.TRN_RX_PKTS y) + 1) % 2 ^ 64 ∧
      d.win y (wkey / 256) = { w with accepted := w.accepted + 1 } ∧
      (let out := addElems .fp32 (s.dev.mem.read (s.dev.addr y t a) pl.length) pl;
        d.mem.read (s.dev.addr y t a) out.length = out) ∧
      (∀ b, (b < (s.dev.addr y t a) ∨ (s.dev.addr y t a) + pl.length ≤ b) → d.mem.byte b = s.dev.mem.byte b))) ∧
  (∀ (s : State) (y : Nat) (h : WrtHdr) (c : Conn) (msn len off wkey : Nat) (pl : List Byte) (host : HostSide) (w : Win),
    sound s.dev = true → s.dev.conn y h.conn = c → newRequest s.dev y 12 h = true → c.msgs = [] → c.doneMsns = [] →
    c.early = [] → msn = c.rxMsn → s.dev.win y (wkey / 256) = w → wkey / 256 < s.dev.winCount y →
    w.grants h.conn 3 wkey off pl.length = true → w.kind ≠ 0 → s.dev.hostLost y = false → host.xl = .hit →
    s.dev.canMaster y = true → (s.dev.yard y).inval = [] → host.bad = false → pl.length % 4 = 0 → off % 4 = 0 →
    Completes (.addwFp32 y h msn len off wkey pl host) s (fun d =>
      d.fld (R.TRN_RX_PKTS y) = (s.dev.fld (R.TRN_RX_PKTS y) + 1) % 2 ^ 64 ∧
      d.win y (wkey / 256) = { w with accepted := w.accepted + 1 } ∧
      (pl = [] ∨ (newOut s.dev d).contains (.hostVWrite (y + 1) w.pasid (w.base + off) (addElems .fp32 ((host.data ++
        zeros pl.length).take pl.length) pl) (bit (s.dev.fld (R.YRD_HOST_CTRL y)) 0)) = true) ∧
      d.mem = s.dev.mem)) ∧
  (∀ (s : State) (y : Nat) (h : WrtHdr) (c : Conn) (msn len off wkey : Nat) (pl : List Byte) (host : HostSide) (w : Win) (t a : Nat),
    sound s.dev = true → s.dev.conn y h.conn = c → newRequest s.dev y 13 h = true → c.msgs = [] → c.doneMsns = [] →
    c.early = [] → msn = c.rxMsn → s.dev.win y (wkey / 256) = w → wkey / 256 < s.dev.winCount y →
    w.grants h.conn 3 wkey off pl.length = true → w.kind = 0 →
    s.dev.segAt y w.pasid w.seg (w.base + off) pl.length = some (t, a) → s.dev.mem.uc = [] →
    (0 :: s.dev.farPorts).all (fun q => s.dev.on (R.MEM_FAR_PORT_LINK_UP q)) = true → unbanked s.dev y = true →
    pl.length % 2 = 0 → off % 2 = 0 →
    Completes (.addwBf16 y h msn len off wkey pl host) s (fun d =>
      d.fld (R.TRN_RX_PKTS y) = (s.dev.fld (R.TRN_RX_PKTS y) + 1) % 2 ^ 64 ∧
      d.win y (wkey / 256) = { w with accepted := w.accepted + 1 } ∧
      (let out := addElems .bf16 (s.dev.mem.read (s.dev.addr y t a) pl.length) pl;
        d.mem.read (s.dev.addr y t a) out.length = out) ∧
      (∀ b, (b < (s.dev.addr y t a) ∨ (s.dev.addr y t a) + pl.length ≤ b) → d.mem.byte b = s.dev.mem.byte b))) ∧
  (∀ (s : State) (y : Nat) (h : WrtHdr) (c : Conn) (msn len off wkey : Nat) (pl : List Byte) (host : HostSide) (w : Win),
    sound s.dev = true → s.dev.conn y h.conn = c → newRequest s.dev y 13 h = true → c.msgs = [] → c.doneMsns = [] →
    c.early = [] → msn = c.rxMsn → s.dev.win y (wkey / 256) = w → wkey / 256 < s.dev.winCount y →
    w.grants h.conn 3 wkey off pl.length = true → w.kind ≠ 0 → s.dev.hostLost y = false → host.xl = .hit →
    s.dev.canMaster y = true → (s.dev.yard y).inval = [] → host.bad = false → pl.length % 2 = 0 → off % 2 = 0 →
    Completes (.addwBf16 y h msn len off wkey pl host) s (fun d =>
      d.fld (R.TRN_RX_PKTS y) = (s.dev.fld (R.TRN_RX_PKTS y) + 1) % 2 ^ 64 ∧
      d.win y (wkey / 256) = { w with accepted := w.accepted + 1 } ∧
      (pl = [] ∨ (newOut s.dev d).contains (.hostVWrite (y + 1) w.pasid (w.base + off) (addElems .bf16 ((host.data ++
        zeros pl.length).take pl.length) pl) (bit (s.dev.fld (R.YRD_HOST_CTRL y)) 0)) = true) ∧
      d.mem = s.dev.mem)) ∧
  (∀ (s : State) (y : Nat) (h : WrtHdr) (c : Conn) (msn wkey off v : Nat) (host : HostSide) (w : Win) (t a : Nat),
    sound s.dev = true → s.dev.conn y h.conn = c → newRequest s.dev y 9 h = true → c.msgs = [] → c.doneMsns = [] →
    c.early = [] → msn = c.rxMsn → s.dev.win y (wkey / 256) = w → wkey / 256 < s.dev.winCount y →
    w.grants h.conn 2 wkey off 8 = true → w.kind = 0 → s.dev.segAt y w.pasid w.seg (w.base + off) 8 = some (t, a) →
    s.dev.mem.uc = [] → (0 :: s.dev.farPorts).all (fun q => s.dev.on (R.MEM_FAR_PORT_LINK_UP q)) = true →
    unbanked s.dev y = true → off % 8 = 0 →
    Completes (.fadd y h msn wkey off v host) s (fun d =>
      d.fld (R.TRN_RX_PKTS y) = (s.dev.fld (R.TRN_RX_PKTS y) + 1) % 2 ^ 64 ∧
      d.win y (wkey / 256) = { w with accepted := w.accepted + 1 } ∧
      le (d.mem.read (s.dev.addr y t a) 8) 0 8 = (le (s.dev.mem.read (s.dev.addr y t a) 8) 0 8 + v) % 2 ^ 64 ∧
      (∀ b, (b < (s.dev.addr y t a) ∨ (s.dev.addr y t a) + 8 ≤ b) → d.mem.byte b = s.dev.mem.byte b) ∧
      ((d.conn y h.conn).rsps.drop c.rsps.length).map (fun r => (r.opc, r.psn, r.a)) = [(0x0B, h.psn,
        le (s.dev.mem.read (s.dev.addr y t a) 8) 0 8)])) ∧
  (∀ (s : State) (y : Nat) (h : WrtHdr) (c : Conn) (msn wkey off v : Nat) (host : HostSide) (w : Win),
    sound s.dev = true → s.dev.conn y h.conn = c → newRequest s.dev y 9 h = true → c.msgs = [] → c.doneMsns = [] →
    c.early = [] → msn = c.rxMsn → s.dev.win y (wkey / 256) = w → wkey / 256 < s.dev.winCount y →
    w.grants h.conn 2 wkey off 8 = true → w.kind ≠ 0 → s.dev.hostLost y = false → host.xl = .hit →
    s.dev.canMaster y = true → (s.dev.yard y).inval = [] → host.bad = false → off % 8 = 0 →
    Completes (.fadd y h msn wkey off v host) s (fun d =>
      d.fld (R.TRN_RX_PKTS y) = (s.dev.fld (R.TRN_RX_PKTS y) + 1) % 2 ^ 64 ∧
      d.win y (wkey / 256) = { w with accepted := w.accepted + 1 } ∧
      (newOut s.dev d).contains (.hostVWrite (y + 1) w.pasid (w.base + off) (leBytes 8 ((leNat (host.data.take 8) + v) % 2 ^ 64)) (bit (s.dev.fld (R.YRD_HOST_CTRL y)) 0)) = true ∧
      ((d.conn y h.conn).rsps.drop c.rsps.length).map (fun r => (r.opc, r.psn, r.a)) = [(0x0B, h.psn,
        leNat (host.data.take 8))] ∧
      d.mem = s.dev.mem)) ∧
  (∀ (s : State) (y : Nat) (h : WrtHdr) (c : Conn) (msn wkey off v cmp : Nat) (host : HostSide) (w : Win) (t a : Nat),
    sound s.dev = true → s.dev.conn y h.conn = c → newRequest s.dev y 10 h = true → c.msgs = [] → c.doneMsns = [] →
    c.early = [] → msn = c.rxMsn → s.dev.win y (wkey / 256) = w → wkey / 256 < s.dev.winCount y →
    w.grants h.conn 2 wkey off 8 = true → w.kind = 0 → s.dev.segAt y w.pasid w.seg (w.base + off) 8 = some (t, a) →
    s.dev.mem.uc = [] → (0 :: s.dev.farPorts).all (fun q => s.dev.on (R.MEM_FAR_PORT_LINK_UP q)) = true →
    unbanked s.dev y = true → off % 8 = 0 →
    Completes (.cswap y h msn wkey off v cmp host) s (fun d =>
      d.fld (R.TRN_RX_PKTS y) = (s.dev.fld (R.TRN_RX_PKTS y) + 1) % 2 ^ 64 ∧
      d.win y (wkey / 256) = { w with accepted := w.accepted + 1 } ∧
      (∀ b, (b < (s.dev.addr y t a) ∨ (s.dev.addr y t a) + 8 ≤ b) → d.mem.byte b = s.dev.mem.byte b) ∧
      le (d.mem.read (s.dev.addr y t a) 8) 0 8 = (if le (s.dev.mem.read (s.dev.addr y t a) 8) 0 8 = cmp then v else le (s.dev.mem.read (s.dev.addr y t a) 8) 0 8) % 2 ^ 64 ∧
      ((d.conn y h.conn).rsps.drop c.rsps.length).map (fun r => (r.opc, r.psn, r.a)) = [(0x0B, h.psn,
        le (s.dev.mem.read (s.dev.addr y t a) 8) 0 8)])) ∧
  (∀ (s : State) (y : Nat) (h : WrtHdr) (c : Conn) (msn wkey off v cmp : Nat) (host : HostSide) (w : Win),
    sound s.dev = true → s.dev.conn y h.conn = c → newRequest s.dev y 10 h = true → c.msgs = [] → c.doneMsns = [] →
    c.early = [] → msn = c.rxMsn → s.dev.win y (wkey / 256) = w → wkey / 256 < s.dev.winCount y →
    w.grants h.conn 2 wkey off 8 = true → w.kind ≠ 0 → s.dev.hostLost y = false → host.xl = .hit →
    s.dev.canMaster y = true → (s.dev.yard y).inval = [] → host.bad = false → off % 8 = 0 →
    Completes (.cswap y h msn wkey off v cmp host) s (fun d =>
      d.fld (R.TRN_RX_PKTS y) = (s.dev.fld (R.TRN_RX_PKTS y) + 1) % 2 ^ 64 ∧
      d.win y (wkey / 256) = { w with accepted := w.accepted + 1 } ∧
      (newOut s.dev d).contains (.hostVWrite (y + 1) w.pasid (w.base + off) (leBytes 8 (if leNat (host.data.take 8) = cmp then v else leNat (host.data.take 8))) (bit (s.dev.fld (R.YRD_HOST_CTRL y)) 0)) = true ∧
      ((d.conn y h.conn).rsps.drop c.rsps.length).map (fun r => (r.opc, r.psn, r.a)) = [(0x0B, h.psn,
        leNat (host.data.take 8))] ∧
      d.mem = s.dev.mem)) ∧
  (∀ (s : State) (y : Nat) (h : WrtHdr) (c : Conn) (msn handle len off wkey : Nat) (host : HostSide) (w : Win) (t a : Nat),
    sound s.dev = true → s.dev.conn y h.conn = c → newRequest s.dev y 7 h = true → c.msgs = [] → c.doneMsns = [] →
    c.early = [] → msn = c.rxMsn → wkey ≠ 0xFFFFFFFF →
    (c.roce = false ∨ ((c.rsps.filter (fun r => r.opc == 8)).map (fun r => r.msn)).eraseDups.length < 16) →
    s.dev.win y (wkey / 256) = w → wkey / 256 < s.dev.winCount y → w.grants h.conn 0 wkey off len = true →
    w.kind = 0 → s.dev.segAt y w.pasid w.seg (w.base + off) len = some (t, a) → s.dev.mem.uc = [] →
    (0 :: s.dev.farPorts).all (fun q => s.dev.on (R.MEM_FAR_PORT_LINK_UP q)) = true → unbanked s.dev y = true →
    Completes (.readReq y h msn handle len off wkey host) s (fun d =>
      d.fld (R.TRN_RX_PKTS y) = (s.dev.fld (R.TRN_RX_PKTS y) + 1) % 2 ^ 64 ∧
      d.win y (wkey / 256) = { w with accepted := w.accepted + 1, inflight := w.inflight + 1 } ∧
      ((d.conn y h.conn).rsps.drop c.rsps.length).map (fun r => (r.opc, r.psn, r.off, r.src,
        r.len)) = (List.range (c.packets len)).map (fun i => (8, c.psnAdd h.psn i, i * c.mtu, .mem t (a + i * c.mtu),
        min c.mtu (len - i * c.mtu))) ∧
      d.mem = s.dev.mem)) ∧
  (∀ (s : State) (y : Nat) (h : WrtHdr) (c : Conn) (msn handle len off wkey : Nat) (host : HostSide) (w : Win),
    sound s.dev = true → s.dev.conn y h.conn = c → newRequest s.dev y 7 h = true → c.msgs = [] → c.doneMsns = [] →
    c.early = [] → msn = c.rxMsn → wkey ≠ 0xFFFFFFFF →
    (c.roce = false ∨ ((c.rsps.filter (fun r => r.opc == 8)).map (fun r => r.msn)).eraseDups.length < 16) →
    s.dev.win y (wkey / 256) = w → wkey / 256 < s.dev.winCount y → w.grants h.conn 0 wkey off len = true →
    w.kind ≠ 0 → s.dev.hostLost y = false → host.xl = .hit → s.dev.canMaster y = true → (s.dev.yard y).inval = [] →
    Completes (.readReq y h msn handle len off wkey host) s (fun d =>
      d.fld (R.TRN_RX_PKTS y) = (s.dev.fld (R.TRN_RX_PKTS y) + 1) % 2 ^ 64 ∧
      d.win y (wkey / 256) = { w with accepted := w.accepted + 1, inflight := w.inflight + 1 } ∧
      ((d.conn y h.conn).rsps.drop c.rsps.length).map (fun r => (r.opc, r.psn, r.off, r.src,
        r.len)) = (List.range (c.packets len)).map (fun i => (8, c.psnAdd h.psn i, i * c.mtu,
        .host w.pasid (w.base + off + i * c.mtu), min c.mtu (len - i * c.mtu))) ∧
      d.mem = s.dev.mem)) ∧
  (∀ (s : State) (y : Nat) (h : WrtHdr) (c : Conn) (msn handle len off : Nat) (host : HostSide) (o : SendOp) (p g q t a : Nat),
    sound s.dev = true → s.dev.conn y h.conn = c → newRequest s.dev y 7 h = true → c.msgs = [] → c.doneMsns = [] →
    c.early = [] → msn = c.rxMsn →
    (c.roce = false ∨ ((c.rsps.filter (fun r => r.opc == 8)).map (fun r => r.msn)).eraseDups.length < 16) →
    c.ops.find? (fun o => o.opc == 4 && o.handle == handle && o.started && o.code.isNone) = some o →
    off + len ≤ o.operand → o.loc = .seg p g q → s.dev.segAt y p g (q + off) len = some (t, a) →
    Completes (.readReq y h msn handle len off 0xFFFFFFFF host) s (fun d =>
      d.fld (R.TRN_RX_PKTS y) = (s.dev.fld (R.TRN_RX_PKTS y) + 1) % 2 ^ 64 ∧
      d.wins = s.dev.wins ∧
      ((d.conn y h.conn).rsps.drop c.rsps.length).map (fun r => (r.opc, r.psn, r.off, r.src,
        r.len)) = (List.range (c.packets len)).map (fun i => (8, c.psnAdd h.psn i, i * c.mtu, .mem t (a + i * c.mtu),
        min c.mtu (len - i * c.mtu))) ∧
      d.mem = s.dev.mem)) ∧
  (∀ (s : State) (y : Nat) (h : WrtHdr) (c : Conn) (msn off wkey : Nat) (host : HostSide) (w : Win) (t a : Nat),
    sound s.dev = true → s.dev.conn y h.conn = c → newRequest s.dev y 14 h = true → c.msgs = [] → c.doneMsns = [] →
    c.early = [] → msn = c.rxMsn → s.dev.win y (wkey / 256) = w → wkey / 256 < s.dev.winCount y →
    w.grants h.conn 0 wkey off 0 = true → w.kind = 0 → s.dev.segAt y w.pasid w.seg (w.base + off) 0 = some (t, a) →
    s.dev.mem.uc = [] → (0 :: s.dev.farPorts).all (fun q => s.dev.on (R.MEM_FAR_PORT_LINK_UP q)) = true →
    unbanked s.dev y = true →
    Completes (.flushRead y h msn off wkey host) s (fun d =>
      d.fld (R.TRN_RX_PKTS y) = (s.dev.fld (R.TRN_RX_PKTS y) + 1) % 2 ^ 64 ∧
      d.win y (wkey / 256) = { w with accepted := w.accepted + 1, inflight := w.inflight + 1 } ∧
      ((d.conn y h.conn).rsps.drop c.rsps.length).map (fun r => (r.opc, r.psn, r.flush)) = [(8, h.psn, true)] ∧
      d.mem = s.dev.mem)) ∧
  (∀ (s : State) (y : Nat) (h : WrtHdr) (c : Conn) (msn off wkey : Nat) (host : HostSide) (w : Win),
    sound s.dev = true → s.dev.conn y h.conn = c → newRequest s.dev y 14 h = true → c.msgs = [] → c.doneMsns = [] →
    c.early = [] → msn = c.rxMsn → s.dev.win y (wkey / 256) = w → wkey / 256 < s.dev.winCount y →
    w.grants h.conn 0 wkey off 0 = true → w.kind ≠ 0 → s.dev.hostLost y = false → host.xl = .hit →
    s.dev.canMaster y = true → (s.dev.yard y).inval = [] →
    Completes (.flushRead y h msn off wkey host) s (fun d =>
      d.fld (R.TRN_RX_PKTS y) = (s.dev.fld (R.TRN_RX_PKTS y) + 1) % 2 ^ 64 ∧
      d.win y (wkey / 256) = { w with accepted := w.accepted + 1, inflight := w.inflight + 1 } ∧
      ((d.conn y h.conn).rsps.drop c.rsps.length).map (fun r => (r.opc, r.psn, r.flush)) = [(8, h.psn, true)] ∧
      d.mem = s.dev.mem))

/-- READ_RSP, ATOMIC_RSP, ACK and NAK act on the operations they answer (R261, R268, R275, R276, R280). -/
def Obligations.AnswersReceived : Prop :=
  (∀ (s : State) (y : Nat) (h : WrtHdr) (c : Conn) (msn len off : Nat) (pl : List Byte) (o : SendOp) (p g q t a : Nat),
    sound s.dev = true → s.dev.conn y h.conn = c → fromPeer s.dev y h = true → s.dev.planConn y h.conn = false →
    c.ops = [o] → o.opc = 7 → o.started = true → o.done = false → o.code = none → o.msn = msn →
    c.gap o.psn h.psn < o.npsn → o.got.contains (c.gap o.psn h.psn) = false → o.got.length + 1 ≠ o.npsn →
    o.loc = .seg p g q → s.dev.segAt y p g (q + c.gap o.psn h.psn * c.mtu) pl.length = some (t, a) → c.msgs = [] →
    s.dev.mem.uc = [] → (0 :: s.dev.farPorts).all (fun q => s.dev.on (R.MEM_FAR_PORT_LINK_UP q)) = true →
    unbanked s.dev y = true →
    Completes (.readRsp y h msn len off pl) s (fun d =>
      d.fld (R.TRN_RX_PKTS y) = (s.dev.fld (R.TRN_RX_PKTS y) + 1) % 2 ^ 64 ∧
      (d.conn y h.conn).retries = 0 ∧ (d.conn y h.conn).ops = [{ o with got := o.got ++ [c.gap o.psn h.psn] }] ∧
      d.mem.read (s.dev.addr y t a) pl.length = pl ∧
      (∀ b, (b < (s.dev.addr y t a) ∨ (s.dev.addr y t a) + pl.length ≤ b) → d.mem.byte b = s.dev.mem.byte b))) ∧
  (∀ (s : State) (y : Nat) (h : WrtHdr) (c : Conn) (msn len off : Nat) (pl : List Byte) (o : SendOp),
    sound s.dev = true → s.dev.conn y h.conn = c → fromPeer s.dev y h = true → s.dev.planConn y h.conn = false →
    c.ops = [o] → (o.opc = 7 ∨ o.opc = 0x0E) → o.started = true → o.code = none → o.msn = msn →
    c.gap o.psn h.psn < o.npsn → o.got.contains (c.gap o.psn h.psn) = true →
    Completes (.readRsp y h msn len off pl) s (fun d =>
      d.fld (R.TRN_RX_PKTS y) = (s.dev.fld (R.TRN_RX_PKTS y) + 1) % 2 ^ 64 ∧
      (d.conn y h.conn).ops = c.ops ∧ d.mem = s.dev.mem)) ∧
  (∀ (s : State) (y : Nat) (h : WrtHdr) (c : Conn) (msn len off : Nat) (pl : List Byte) (o : SendOp) (p g q t a : Nat),
    sound s.dev = true → s.dev.conn y h.conn = c → fromPeer s.dev y h = true → s.dev.planConn y h.conn = false →
    c.ops = [o] → (o.opc = 7 ∨ o.opc = 0x0E) → o.started = true → o.done = false → o.code = none → o.msn = msn →
    o.rndv = none → o.entry = none → c.gap o.psn h.psn < o.npsn → o.got.contains (c.gap o.psn h.psn) = false →
    o.got.length + 1 = o.npsn → o.loc = .seg p g q →
    s.dev.segAt y p g (q + c.gap o.psn h.psn * c.mtu) pl.length = some (t, a) → c.msgs = [] → s.dev.mem.uc = [] →
    (0 :: s.dev.farPorts).all (fun q => s.dev.on (R.MEM_FAR_PORT_LINK_UP q)) = true → unbanked s.dev y = true →
    Completes (.readRsp y h msn len off pl) s (fun d =>
      d.fld (R.TRN_RX_PKTS y) = (s.dev.fld (R.TRN_RX_PKTS y) + 1) % 2 ^ 64 ∧
      (d.conn y h.conn).retries = 0 ∧ (d.conn y h.conn).ops.all (fun q => q.code == some 0) = true ∧
      d.mem.read (s.dev.addr y t a) pl.length = pl ∧
      (∀ b, (b < (s.dev.addr y t a) ∨ (s.dev.addr y t a) + pl.length ≤ b) → d.mem.byte b = s.dev.mem.byte b))) ∧
  (∀ (s : State) (y : Nat) (h : WrtHdr) (c : Conn) (msn v : Nat) (o : SendOp) (p g q t a : Nat),
    sound s.dev = true → s.dev.conn y h.conn = c → fromPeer s.dev y h = true → s.dev.planConn y h.conn = false →
    c.ops = [o] → (o.opc = 9 ∨ o.opc = 0x0A) → o.started = true → o.done = false → o.code = none → o.msn = msn →
    o.rndv = none → o.loc = .seg p g q → s.dev.segAt y p g q 8 = some (t, a) → s.dev.mem.uc = [] →
    (0 :: s.dev.farPorts).all (fun q => s.dev.on (R.MEM_FAR_PORT_LINK_UP q)) = true → unbanked s.dev y = true →
    Completes (.atomicRsp y h msn v) s (fun d =>
      d.fld (R.TRN_RX_PKTS y) = (s.dev.fld (R.TRN_RX_PKTS y) + 1) % 2 ^ 64 ∧
      (d.conn y h.conn).retries = 0 ∧ (d.conn y h.conn).ops.all (fun q => q.code == some 0) = true ∧
      (o.entry = none → le (d.mem.read (s.dev.addr y t a) 8) 0 8 = v % 2 ^ 64) ∧
      (∀ b, o.entry = none ∧ (b < (s.dev.addr y t a) ∨ (s.dev.addr y t a) + 8 ≤ b) →
        d.mem.byte b = s.dev.mem.byte b))) ∧
  (∀ (s : State) (y : Nat) (h : WrtHdr) (c : Conn) (e : AckExt),
    sound s.dev = true → s.dev.conn y h.conn = c → fromPeer s.dev y h = true →
    c.gap c.una (c.psnAdd h.psn 1) ≤ c.gap c.una c.nextPsn →
    Completes (.ack y h e) s (fun d => d.fld (R.TRN_RX_PKTS y) = (s.dev.fld (R.TRN_RX_PKTS y) + 1) % 2 ^ 64 ∧
      (d.conn y h.conn).una = c.psnAdd h.psn 1 ∧
      (d.conn y h.conn).pkts.all (fun p => !(p.sent &&
        decide (c.gap c.una p.psn < c.gap c.una (c.psnAdd h.psn 1)))) = true)) ∧
  (∀ (s : State) (y : Nat) (h : WrtHdr) (c : Conn) (e : AckExt),
    sound s.dev = true → s.dev.conn y h.conn = c → fromPeer s.dev y h = true →
    (if c.roce then e.syndrome / 0x20 = 1 else e.syndrome = 1) →
    (bits c.retry 4 3 = 7 ∨ c.rnrRetries < bits c.retry 4 3) →
    Completes (.nak y h e) s (fun d => d.fld (R.TRN_RX_PKTS y) = (s.dev.fld (R.TRN_RX_PKTS y) + 1) % 2 ^ 64 ∧
      (d.conn y h.conn).rnrWait = true ∧ (d.conn y h.conn).rnrPsn = (if c.roce = true then h.psn else e.nakPsn) ∧
      d.fld (R.TRN_RNR_RCVD y) = (s.dev.fld (R.TRN_RNR_RCVD y) + 1) % 2 ^ 64)) ∧
  (∀ (s : State) (y : Nat) (h : WrtHdr) (c : Conn) (e : AckExt),
    sound s.dev = true → s.dev.conn y h.conn = c → fromPeer s.dev y h = true →
    (if c.roce then e.syndrome / 0x20 = 1 else e.syndrome = 1) → bits c.retry 4 3 ≠ 7 →
    bits c.retry 4 3 ≤ c.rnrRetries → c.rnrRetries ≠ 0 → c.rnrPsn = (if c.roce = true then h.psn else e.nakPsn) →
    Completes (.nak y h e) s (fun d => d.fld (R.TRN_RX_PKTS y) = (s.dev.fld (R.TRN_RX_PKTS y) + 1) % 2 ^ 64 ∧
      (d.conn y h.conn).st = 4 ∧ (d.conn y h.conn).errCode = cRnrExceeded)) ∧
  (∀ (s : State) (y : Nat) (h : WrtHdr) (c : Conn) (e : AckExt),
    sound s.dev = true → s.dev.conn y h.conn = c → fromPeer s.dev y h = true → c.roce = true → e.syndrome = 0x60 →
    Completes (.nak y h e) s (fun d => d.fld (R.TRN_RX_PKTS y) = (s.dev.fld (R.TRN_RX_PKTS y) + 1) % 2 ^ 64 ∧
      (d.conn y h.conn).pkts.all (fun p => !(p.sent && decide (c.gap h.psn p.psn < c.psnMod / 2)) || p.due) = true)) ∧
  (∀ (s : State) (y : Nat) (h : WrtHdr) (c : Conn) (e : AckExt),
    sound s.dev = true → s.dev.conn y h.conn = c → fromPeer s.dev y h = true → c.roce = true →
    e.syndrome / 0x20 ≠ 1 → e.syndrome ≠ 0x60 →
    Completes (.nak y h e) s (fun d => d.fld (R.TRN_RX_PKTS y) = (s.dev.fld (R.TRN_RX_PKTS y) + 1) % 2 ^ 64 ∧
      (d.conn y h.conn).st = 4 ∧ (d.conn y h.conn).errCode = cRemoteAccess)) ∧
  (∀ (s : State) (y : Nat) (h : WrtHdr) (c : Conn) (e : AckExt),
    sound s.dev = true → s.dev.conn y h.conn = c → fromPeer s.dev y h = true → c.roce = false → e.syndrome ≠ 1 →
    Completes (.nak y h e) s (fun d => d.fld (R.TRN_RX_PKTS y) = (s.dev.fld (R.TRN_RX_PKTS y) + 1) % 2 ^ 64 ∧
      (d.conn y h.conn).pkts.all (fun p => !decide (c.gap p.psn e.nakPsn < p.span) || (p.marked && !p.due)) = true))

/-- The transport timers and the paced transmission act as R273, R274, R276, R278, R280, R286, R287 state (R263,
  R268, R269, R273, R274, R276, R277, R278, R280, R286, R287). -/
def Obligations.TimersAndTransmission : Prop :=
  (∀ (s : State) (y n : Nat) (c : Conn),
    sound s.dev = true → s.dev.conn y n = c → s.dev.live y = true → (c.st = 2 ∨ c.st = 3) →
    (c.pkts.any (fun p => p.sent) = true ∨ c.ops.any (fun o => o.started && o.answered && o.code.isNone) = true) →
    (bits c.retry 0 4 = 0 ∨ c.retries < bits c.retry 0 4) →
    Completes (.retransmitTimerExpiry y n) s (fun d => (d.conn y n).retries = c.retries + 1 ∧
      (d.conn y n).rto = min (2 * c.rto) (1000 * s.dev.fld (R.TRN_RTO_MAX y)) ∧
      (d.conn y n).pkts.all (fun p => !p.sent || p.marked || p.due) = true ∧ d.regs = s.dev.regs ∧
        d.mem = s.dev.mem)) ∧
  (∀ (s : State) (y n : Nat) (c : Conn),
    sound s.dev = true → s.dev.conn y n = c → s.dev.live y = true → (c.st = 2 ∨ c.st = 3) →
    (c.pkts.any (fun p => p.sent) = true ∨ c.ops.any (fun o => o.started && o.answered && o.code.isNone) = true) →
    bits c.retry 0 4 ≠ 0 → bits c.retry 0 4 ≤ c.retries → n < 2 ^ 24 →
    Completes (.retransmitTimerExpiry y n) s (fun d => (d.conn y n).st = 4 ∧ (d.conn y n).errCode = cRetryExceeded ∧
      d.fld (R.TRN_ERR y) = n + 2 ^ 24 * cRetryExceeded)) ∧
  (∀ (s : State) (y n : Nat) (c : Conn),
    sound s.dev = true → s.dev.conn y n = c → s.dev.live y = true → (c.st = 2 ∨ c.st = 3) → c.timerOn = true →
    Completes (.ackTimerExpiry y n) s (fun d => ((d.conn y n).timerOn, (d.conn y n).ackDue,
      (d.conn y n).ecn) = (false, 0, 0) ∧
      (d.conn y n).epsn = c.epsn ∧
      (c.roce = true ∨ s.dev.keyed y = true → wrtSent s.dev d y n (fun p => p.opc == 0x10 &&
        p.psn == (c.epsn + c.psnMod - 1) % c.psnMod) = true) ∧
      d.mem = s.dev.mem)) ∧
  (∀ (s : State) (y n : Nat) (c : Conn),
    sound s.dev = true → s.dev.conn y n = c → (c.st = 2 ∨ c.st = 3) → c.ccOn = true →
    Completes (.increaseTimer y n) s (fun d => (d.conn y n).rate = min c.rateMax (c.rate + s.dev.fld ((R.TRN_CC_AI y c.profile).sub 0 24)) ∧
      d.regs = s.dev.regs ∧ d.mem = s.dev.mem)) ∧
  (∀ (s : State) (y n : Nat) (c : Conn),
    sound s.dev = true → s.dev.conn y n = c → c.rnrWait = true →
    Completes (.rnrWaitEnd y n) s (fun d => (d.conn y n).rnrWait = false ∧
      (d.conn y n).pkts.all (fun p => !p.sent || p.marked || p.due || !decide (c.gap c.rnrPsn p.psn < c.psnMod / 2)) = true ∧
      d.regs = s.dev.regs ∧ d.mem = s.dev.mem)) ∧
  (∀ (s : State) (y n : Nat) (c : Conn) (host : HostSide) (r : RspPkt) (bs : List Byte),
    sound s.dev = true → s.dev.conn y n = c → s.dev.live y = true → (c.st = 2 ∨ c.st = 3) →
    c.rsps.find? (fun q => !q.flush || (decide (1 ≤ c.gap q.psn c.epsn) &&
      decide (c.gap q.psn c.epsn ≤ c.psnMod / 2))) = some r →
    (c.roce = true ∨ s.dev.keyed y = true) → s.dev.mem.uc = [] →
    (0 :: s.dev.farPorts).all (fun q => s.dev.on (R.MEM_FAR_PORT_LINK_UP q)) = true → r.src = .bytes bs →
    Completes (.pacedTransmission y n host) s (fun d => (d.conn y n).rsps = c.rsps.erase r ∧
      d.fld (R.TRN_TX_PKTS y) = (s.dev.fld (R.TRN_TX_PKTS y) + 1) % 2 ^ 64 ∧
      wrtSent s.dev d y n (fun p => p.opc == r.opc && p.psn == r.psn % c.psnMod && p.payload == bs) = true ∧
      d.mem = s.dev.mem)) ∧
  (∀ (s : State) (y n : Nat) (c : Conn) (host : HostSide) (r : RspPkt) (t a : Nat),
    sound s.dev = true → s.dev.conn y n = c → s.dev.live y = true → (c.st = 2 ∨ c.st = 3) →
    c.rsps.find? (fun q => !q.flush || (decide (1 ≤ c.gap q.psn c.epsn) &&
      decide (c.gap q.psn c.epsn ≤ c.psnMod / 2))) = some r →
    (c.roce = true ∨ s.dev.keyed y = true) → s.dev.mem.uc = [] →
    (0 :: s.dev.farPorts).all (fun q => s.dev.on (R.MEM_FAR_PORT_LINK_UP q)) = true → r.src = .mem t a →
    Completes (.pacedTransmission y n host) s (fun d => (d.conn y n).rsps = c.rsps.erase r ∧
      d.fld (R.TRN_TX_PKTS y) = (s.dev.fld (R.TRN_TX_PKTS y) + 1) % 2 ^ 64 ∧
      wrtSent s.dev d y n (fun p => p.opc == r.opc && p.psn == r.psn % c.psnMod &&
        p.payload == s.dev.mem.read (s.dev.addr y t a) r.len) = true ∧
      d.mem = s.dev.mem)) ∧
  (∀ (s : State) (y n : Nat) (c : Conn) (host : HostSide) (r : RspPkt) (p va : Nat),
    sound s.dev = true → s.dev.conn y n = c → s.dev.live y = true → (c.st = 2 ∨ c.st = 3) →
    c.rsps.find? (fun q => !q.flush || (decide (1 ≤ c.gap q.psn c.epsn) &&
      decide (c.gap q.psn c.epsn ≤ c.psnMod / 2))) = some r →
    (c.roce = true ∨ s.dev.keyed y = true) → s.dev.mem.uc = [] →
    (0 :: s.dev.farPorts).all (fun q => s.dev.on (R.MEM_FAR_PORT_LINK_UP q)) = true → r.src = .host p va →
    r.len ≠ 0 → host.bad = false → host.xl = .hit → s.dev.canMaster y = true → (s.dev.yard y).inval = [] →
    Completes (.pacedTransmission y n host) s (fun d => (d.conn y n).rsps = c.rsps.erase r ∧
      d.fld (R.TRN_TX_PKTS y) = (s.dev.fld (R.TRN_TX_PKTS y) + 1) % 2 ^ 64 ∧
      wrtSent s.dev d y n (fun p => p.opc == r.opc && p.psn == r.psn % c.psnMod && p.payload == (host.data ++
        zeros (r.len - host.data.length)).take r.len) = true ∧
      d.mem = s.dev.mem)) ∧
  (∀ (s : State) (y n : Nat) (c : Conn) (host : HostSide) (p : TxPkt),
    sound s.dev = true → s.dev.conn y n = c → s.dev.live y = true → (c.st = 2 ∨ c.st = 3) → c.rsps = [] →
    c.pkts.find? (fun q => q.due && !q.marked) = some p → p.body ≠ [] → (c.roce = true ∨ s.dev.keyed y = true) →
    Completes (.pacedTransmission y n host) s (fun d => (d.conn y n).retx = c.retx + 1 ∧
      d.fld (R.TRN_RETX y) = (s.dev.fld (R.TRN_RETX y) + 1) % 2 ^ 64 ∧
      d.fld (R.TRN_TX_PKTS y) = (s.dev.fld (R.TRN_TX_PKTS y) + 1) % 2 ^ 64 ∧
      wrtSent s.dev d y n (fun q => q.opc == p.msn && q.psn == p.psn % c.psnMod && q.payload == p.payload) = true ∧
      d.mem = s.dev.mem)) ∧
  (∀ (s : State) (y n : Nat) (c : Conn) (host : HostSide) (p : TxPkt),
    sound s.dev = true → s.dev.conn y n = c → s.dev.live y = true → c.st = 2 → c.rnrWait = false → c.rsps = [] →
    c.pkts.find? (fun q => q.due && !q.marked) = none → c.pkts.find? (fun q => !q.sent) = some p →
    c.gap c.una p.psn < c.window → (c.roce = true ∨ s.dev.keyed y = true) →
    Completes (.pacedTransmission y n host) s (fun d => (d.conn y n).nextPsn = c.psnAdd p.psn 1 ∧
      d.fld (R.TRN_TX_PKTS y) = (s.dev.fld (R.TRN_TX_PKTS y) + 1) % 2 ^ 64 ∧
      wrtSent s.dev d y n (fun q => q.opc == p.msn && q.psn == p.psn % c.psnMod && q.payload == p.payload) = true ∧
      d.mem = s.dev.mem)) ∧
  (∀ (s : State) (y n : Nat) (c : Conn) (host : HostSide) (o : SendOp) (bs : List Byte),
    sound s.dev = true → s.dev.conn y n = c → s.dev.live y = true → c.st = 2 → c.rnrWait = false → c.rsps = [] →
    c.pkts = [] → c.ops = [o] → o.started = false → o.code = none → s.dev.cqFull y (s.dev.ring y n).sq = false →
    (c.roce = true ∨ s.dev.keyed y = true) → o.answered = false → o.loc = .inline bs →
    c.gap c.una c.nextPsn < c.window →
    Completes (.pacedTransmission y n host) s (fun d => (d.conn y n).nextPsn = c.psnAdd c.nextPsn 1 ∧
      (d.conn y n).txMsn = (c.txMsn + 1) % 2 ^ 32 ∧
      ((d.conn y n).pkts.map (fun p => (p.psn, p.msn, p.sent))) = [(c.nextPsn, c.txMsn, true)] ∧
      d.fld (R.TRN_TX_PKTS y) = (s.dev.fld (R.TRN_TX_PKTS y) + 1) % 2 ^ 64 ∧
      wrtSent s.dev d y n (fun p => p.opc == o.opc && p.psn == c.nextPsn % c.psnMod &&
        p.payload == slice bs 0 (c.payloadLen o 0)) = true ∧
      d.mem = s.dev.mem)) ∧
  (∀ (s : State) (y n : Nat) (c : Conn) (host : HostSide) (o : SendOp) (p g q : Nat) (ta : Nat × Nat),
    sound s.dev = true → s.dev.conn y n = c → s.dev.live y = true → c.st = 2 → c.rnrWait = false → c.rsps = [] →
    c.pkts = [] → c.ops = [o] → o.started = false → o.code = none → s.dev.cqFull y (s.dev.ring y n).sq = false →
    (c.roce = true ∨ s.dev.keyed y = true) → o.opc = 7 → o.wkey ≠ 0xFFFFFFFF → o.got = [] → o.loc = .seg p g q →
    s.dev.segAt y p g q 0 = some ta → s.dev.mem.uc = [] → c.gap c.una c.nextPsn + c.packets o.len ≤ c.window →
    Completes (.pacedTransmission y n host) s (fun d => (d.conn y n).nextPsn = c.psnAdd c.nextPsn (c.packets o.len) ∧
      (d.conn y n).txMsn = (c.txMsn + 1) % 2 ^ 32 ∧
      ((d.conn y n).pkts.map (fun p => (p.psn, p.span, p.msn, p.sent))) = [(c.nextPsn, c.packets o.len, c.txMsn,
        true)] ∧
      d.fld (R.TRN_TX_PKTS y) = (s.dev.fld (R.TRN_TX_PKTS y) + 1) % 2 ^ 64 ∧
      wrtSent s.dev d y n (fun p => p.opc == 7 && p.psn == c.nextPsn % c.psnMod && p.payload == []) = true ∧
      d.mem = s.dev.mem))

/-- BIND, UNBIND, QUERY, DOORBELL and PUSH act on a connection's rings (R298, R303, R307, R308, R323). -/
def Obligations.RingCommands : Prop :=
  (∀ (s : State) (y n : Nat) (bs : List Byte),
    sound s.dev = true → s.dev.yfOk y = true → (s.dev.yard y).fatal = false → s.dev.frozen y = false →
    s.dev.canMaster y = true → le bs 0 8 % 4096 = 0 → le bs 8 8 % 4096 = 0 → 4 ≤ le bs 0x10 1 → le bs 0x10 1 ≤ 16 →
    4 ≤ le bs 0x11 1 → le bs 0x11 1 ≤ 16 → le bs 0x12 1 < 4 → le bs 0x13 1 < 4 → le bs 0x14 4 < 2 ^ 20 →
    0 < le bs 0x1A 2 → le bs 0x1A 2 ≤ min 1024 (2 ^ min (le bs 0x10 1) (le bs 0x11 1) - 1) →
    (le bs 0x1C 2 < 2048 ∨ le bs 0x1C 2 = 0xFFFF) → le bs 0x1E 1 < 4 → le bs 0x1F 1 < 2 → zeroAt bs 0x20 32 = true →
    s.dev.ringPlaceOk y (le bs 0x14 4) (le bs 0x18 1) (le bs 0 8) (2 ^ le bs 0x10 1 * (if bit (le bs 0x12 1) 0 then 256 else 64)) (bit (le bs 0x13 1) 0) = true →
    s.dev.ringPlaceOk y (le bs 0x14 4) (le bs 0x19 1) (le bs 8 8) (2 ^ le bs 0x11 1 * (if bit (le bs 0x12 1) 1 then 256 else 64)) (bit (le bs 0x13 1) 1) = true →
    n < s.dev.connCount y → (s.dev.conn y n).st = 1 → s.dev.planConn y n = false →
    bit (s.dev.fld (R.YRD_MODE y)) 0 = false →
    Completes (.bind y n (some bs)) s (fun d => d.fld (R.YRD_RING_STATUS_RESULT y) = 0 ∧
      d.fld (R.YRD_RING_STATUS_DONE y) = 1 ∧
      ((d.ring y n).sq.bound, (d.ring y n).sq.addr, (d.ring y n).sq.log, (d.ring y n).sq.n,
        (d.ring y n).sq.live) = (true, le bs 0 8, le bs 0x10 1, 0, []) ∧
      ((d.ring y n).rq.bound, (d.ring y n).rq.addr, (d.ring y n).rq.log, (d.ring y n).rq.n,
        (d.ring y n).rq.live) = (true, le bs 8 8, le bs 0x11 1, 0, []) ∧
      ((d.ring y n).fetch, (d.ring y n).vector) = (le bs 0x1A 2, le bs 0x1C 2) ∧ d.mem = s.dev.mem)) ∧
  (∀ (s : State) (y n : Nat),
    sound s.dev = true → s.dev.yfOk y = true → (s.dev.yard y).fatal = false → s.dev.frozen y = false →
    (s.dev.conn y n).st = 1 → s.dev.planConn y n = false → bit (s.dev.fld (R.YRD_MODE y)) 0 = false →
    Completes (.unbind y n) s (fun d => d.fld (R.YRD_RING_STATUS_RESULT y) = 0 ∧
      d.fld (R.YRD_RING_STATUS_DONE y) = 1 ∧ Tab.find d.rings (yk y n) = none ∧ d.mem = s.dev.mem)) ∧
  (∀ (s : State) (y n : Nat),
    sound s.dev = true → s.dev.yfOk y = true → (s.dev.yard y).fatal = false → s.dev.frozen y = false →
    s.dev.canMaster y = true → (s.dev.ring y n).raw.length = 32 →
    Completes (.ringQuery y n) s (fun d => d.fld (R.YRD_RING_STATUS_RESULT y) = 0 ∧
      d.fld (R.YRD_RING_STATUS_DONE y) = 1 ∧
      (d.out.getLast?.map (fun o => match o with | .hostWrite fn a bs => fn == y + 1 && a == s.dev.fld (R.YRD_RING_ADDR y) && bs.length == 64 && le bs 0x20 4 == (s.dev.ring y n).sq.n % 2 ^ 32 && le bs 0x28 4 == (s.dev.ring y n).rq.n % 2 ^ 32 | _ => false)) = some true ∧
      d.rings = s.dev.rings ∧ d.mem = s.dev.mem)) ∧
  (∀ (s : State) (y r : Nat) (recv : Bool) (mem : List (List Byte)) (xl : Xlat),
    sound s.dev = true → s.dev.yfOk y = true → r < s.dev.connCount y →
    (((s.dev.ring y r).half recv).bound = false ∨ ((s.dev.ring y r).half recv).cq.isSome = true ∨
      (s.dev.conn y r).st ≠ 2) →
    Completes (.doorbell y r recv mem xl) s (fun d =>
      d.fld (R.YRD_DB_DROPPED y) = (s.dev.fld (R.YRD_DB_DROPPED y) + 1) % 2 ^ (R.YRD_DB_DROPPED y).w ∧
      d.rings = s.dev.rings ∧ d.mem = s.dev.mem)) ∧
  (∀ (s : State) (y r : Nat) (recv : Bool) (e : List Byte) (h : Half),
    sound s.dev = true → s.dev.yfOk y = true → s.dev.live y = true → r < s.dev.connCount y →
    (s.dev.ring y r).half recv = h → h.bound = true → h.cq = none → (s.dev.conn y r).st = 2 → h.inSeg = false →
    s.dev.canMaster y = true → (s.dev.yard y).inval = [] → h.live.length < (s.dev.ring y r).fetch → h.owns e = true →
    Completes (.doorbell y r recv [e]) s (fun d => ((d.ring y r).half recv).live = h.live ++
      [{ n := h.n, bytes := e, started := false, out := none }] ∧
      ((d.ring y r).half recv).n = (h.n + 1) % 2 ^ 32 ∧ d.mem = s.dev.mem)) ∧
  (∀ (s : State) (y r : Nat) (recv : Bool) (mem : List (List Byte)) (xl : Xlat) (h : Half) (t a : Nat),
    sound s.dev = true → s.dev.yfOk y = true → s.dev.live y = true → r < s.dev.connCount y →
    (s.dev.ring y r).half recv = h → h.bound = true → h.cq = none → (s.dev.conn y r).st = 2 → h.inSeg = true →
    s.dev.segAt y h.pasid h.sg (h.at h.n) h.size = some (t, a) → s.dev.mem.uc = [] →
    (0 :: s.dev.farPorts).all (fun q => s.dev.on (R.MEM_FAR_PORT_LINK_UP q)) = true →
    h.owns (s.dev.mem.read (s.dev.addr y t a) h.size) = true → h.live.length + 1 = (s.dev.ring y r).fetch →
    Completes (.doorbell y r recv mem xl) s (fun d => ((d.ring y r).half recv).live = h.live ++
      [{ n := h.n, bytes := s.dev.mem.read (s.dev.addr y t a) h.size, started := false, out := none }] ∧
      ((d.ring y r).half recv).n = (h.n + 1) % 2 ^ 32 ∧ d.mem = s.dev.mem)) ∧
  (∀ (s : State) (y r : Nat) (recv : Bool) (mem : List (List Byte)) (h : Half),
    sound s.dev = true → s.dev.yfOk y = true → s.dev.live y = true → r < s.dev.connCount y →
    (s.dev.ring y r).half recv = h → h.bound = true → h.cq = none → (s.dev.conn y r).st = 2 → h.inSeg = false →
    s.dev.canMaster y = true →
    Completes (.doorbell y r recv mem .waiting) s (fun d =>
      (d.ring y r).half recv = { h with ahead := mem, pendScan := true } ∧
      d.out = s.dev.out ++ [.atsRequest (y + 1) h.pasid (h.at h.n / 4096)] ∧ d.mem = s.dev.mem)) ∧
  (∀ (s : State) (y r : Nat) (recv : Bool) (mem : List (List Byte)) (xl : Xlat) (h : Half),
    sound s.dev = true → s.dev.yfOk y = true → s.dev.frozen y = true → r < s.dev.connCount y →
    (s.dev.ring y r).half recv = h → h.bound = true → h.cq = none → (s.dev.conn y r).st = 2 →
    Completes (.doorbell y r recv mem xl) s (fun d =>
      ((d.ring y r).half recv = { h with pendScan := true, ahead := if mem.isEmpty then h.ahead else mem }) ∧
      d.out = s.dev.out ∧ d.mem = s.dev.mem)) ∧
  (∀ (s : State) (y r : Nat) (bytes : List Byte) (mem : List (List Byte)) (xl : Xlat) (h : Half),
    sound s.dev = true → s.dev.yfOk y = true → s.dev.live y = true → r < s.dev.connCount y →
    (s.dev.ring y r).sq = h → h.bound = true → h.cq = none → h.pendScan = false → (s.dev.ring y r).push = true →
    (s.dev.conn y r).st = 2 → bytes.length = 64 → h.big = false → le bytes 3 1 = h.n % 256 → h.owns bytes = true →
    h.live.length < (s.dev.ring y r).fetch → mem.drop 1 = [] →
    Completes (.push y r 0 bytes mem xl) s (fun d =>
      d.fld (R.YRD_PUSH_ACCEPTED y) = (s.dev.fld (R.YRD_PUSH_ACCEPTED y) + 1) % 2 ^ (R.YRD_PUSH_ACCEPTED y).w ∧
      (h.inSeg = false → (d.ring y r).sq.live = h.live ++
        [{ n := h.n, bytes := bytes, started := false, out := none }] ∧ (d.ring y r).sq.n = (h.n + 1) % 2 ^ 32) ∧
      d.mem = s.dev.mem)) ∧
  (∀ (s : State) (y r off : Nat) (bytes : List Byte) (mem : List (List Byte)) (xl : Xlat) (h : Half),
    sound s.dev = true → s.dev.yfOk y = true → s.dev.live y = true → r < s.dev.connCount y →
    (s.dev.ring y r).sq = h → h.bound = true → h.cq = none → h.pendScan = false → (s.dev.ring y r).push = true →
    (s.dev.conn y r).st = 2 → bytes.length = 64 → h.big = true → off = 64 * h.parts.length → off < 0xC0 →
    Completes (.push y r off bytes mem xl) s (fun d => (d.ring y r).sq = { h with parts := h.parts ++ [bytes] } ∧
      d.regs = s.dev.regs ∧ d.mem = s.dev.mem)) ∧
  (∀ (s : State) (y r : Nat) (bytes : List Byte) (mem : List (List Byte)) (xl : Xlat) (h : Half),
    sound s.dev = true → s.dev.yfOk y = true → s.dev.live y = true → r < s.dev.connCount y →
    (s.dev.ring y r).sq = h → h.bound = true → h.cq = none → h.pendScan = false → (s.dev.ring y r).push = true →
    (s.dev.conn y r).st = 2 → bytes.length = 64 → h.big = true → h.parts.length = 3 →
    le (h.parts ++ [bytes]).flatten 3 1 = h.n % 256 → h.owns (h.parts ++ [bytes]).flatten = true →
    h.live.length < (s.dev.ring y r).fetch → mem.drop 1 = [] →
    Completes (.push y r 0xC0 bytes mem xl) s (fun d =>
      d.fld (R.YRD_PUSH_ACCEPTED y) = (s.dev.fld (R.YRD_PUSH_ACCEPTED y) + 1) % 2 ^ (R.YRD_PUSH_ACCEPTED y).w ∧
      (h.inSeg = false → (d.ring y r).sq.live = h.live ++
        [{ n := h.n, bytes := (h.parts ++ [bytes]).flatten, started := false, out := none }] ∧
        (d.ring y r).sq.n = (h.n + 1) % 2 ^ 32) ∧
      d.mem = s.dev.mem)) ∧
  (∀ (s : State) (y r off : Nat) (bytes : List Byte) (mem : List (List Byte)) (xl : Xlat),
    sound s.dev = true → s.dev.yfOk y = true → r < s.dev.connCount y → (s.dev.ring y r).sq.bound = true →
    (s.dev.ring y r).push = false →
    Completes (.push y r off bytes mem xl) s (fun d =>
      d.fld (R.YRD_PUSH_AS_DOORBELL y) = (s.dev.fld (R.YRD_PUSH_AS_DOORBELL y) + (1 + (s.dev.ring y r).sq.parts.length)) % 2 ^ (R.YRD_PUSH_AS_DOORBELL y).w ∧
      d.mem = s.dev.mem)) ∧
  (∀ (s : State) (y r off : Nat) (bytes : List Byte) (mem : List (List Byte)) (xl : Xlat),
    sound s.dev = true → s.dev.yfOk y = true → r < s.dev.connCount y → (s.dev.ring y r).sq.bound = false →
    Completes (.push y r off bytes mem xl) s (fun d =>
      d.fld (R.YRD_PUSH_AS_DOORBELL y) = (s.dev.fld (R.YRD_PUSH_AS_DOORBELL y) + 1) % 2 ^ (R.YRD_PUSH_AS_DOORBELL y).w ∧
      d.fld (R.YRD_DB_DROPPED y) = (s.dev.fld (R.YRD_DB_DROPPED y) + 1) % 2 ^ (R.YRD_DB_DROPPED y).w ∧
      d.rings = s.dev.rings ∧ d.mem = s.dev.mem))

/-- A send entry that nothing refuses starts and queues its operation (R300, R302, R312). -/
def Obligations.SendEntries : Prop :=
  (∀ (s : State) (y r : Nat) (h : Half) (e : REntry) (host : HostSide),
    sound s.dev = true → s.dev.live y = true → (s.dev.conn y r).st = 2 → (s.dev.ring y r).sq = h →
    s.dev.cqFull y h = false → h.live.find? (fun q => !q.started) = some e →
    (bit (le e.bytes 0 1) 4 = true → h.live.head? = some e) → s.dev.sendCode y r h e.bytes = 0 →
    opOf e.bytes = 0x01 → host.xl = .hit → s.dev.canMaster y = true → (s.dev.yard y).inval = [] →
    Completes (.sendEntry y r host) s (fun d => ((d.conn y r).ops.drop (s.dev.conn y r).ops.length).map (fun o => (o.opc, o.len, o.remote, o.wkey, o.entry)) = [(0x01, entryLen h.big false e.bytes, le e.bytes 8 8, le e.bytes 4 4, some e.n)] ∧
      (d.ring y r).sq.live = h.live.map (fun q => if q.n = e.n then { q with started := true } else q) ∧
      d.mem = s.dev.mem)) ∧
  (∀ (s : State) (y r : Nat) (h : Half) (e : REntry) (host : HostSide),
    sound s.dev = true → s.dev.live y = true → (s.dev.conn y r).st = 2 → (s.dev.ring y r).sq = h →
    s.dev.cqFull y h = false → h.live.find? (fun q => !q.started) = some e →
    (bit (le e.bytes 0 1) 4 = true → h.live.head? = some e) → s.dev.sendCode y r h e.bytes = 0 →
    opOf e.bytes = 0x02 → host.xl = .hit → s.dev.canMaster y = true → (s.dev.yard y).inval = [] →
    Completes (.sendImmEntry y r host) s (fun d =>
      ((d.conn y r).ops.drop (s.dev.conn y r).ops.length).map (fun o => (o.opc, o.len, o.remote, o.wkey,
      o.entry)) = [(0x02, entryLen h.big false e.bytes, le e.bytes 8 8, le e.bytes 4 4, some e.n)] ∧
      (d.ring y r).sq.live = h.live.map (fun q => if q.n = e.n then { q with started := true } else q) ∧
      d.mem = s.dev.mem)) ∧
  (∀ (s : State) (y r : Nat) (h : Half) (e : REntry) (host : HostSide),
    sound s.dev = true → s.dev.live y = true → (s.dev.conn y r).st = 2 → (s.dev.ring y r).sq = h →
    s.dev.cqFull y h = false → h.live.find? (fun q => !q.started) = some e →
    (bit (le e.bytes 0 1) 4 = true → h.live.head? = some e) → s.dev.sendCode y r h e.bytes = 0 →
    opOf e.bytes = 0x03 → host.xl = .hit → s.dev.canMaster y = true → (s.dev.yard y).inval = [] →
    Completes (.tsendEntry y r host) s (fun d =>
      ((d.conn y r).ops.drop (s.dev.conn y r).ops.length).map (fun o => (o.opc, o.len, o.remote, o.wkey,
      o.entry)) = (if 16384 < entryLen h.big false e.bytes then [(4, 0, le e.bytes 8 8, 0, some e.n)] else [(0x03,
      entryLen h.big false e.bytes, le e.bytes 8 8, le e.bytes 4 4, some e.n)]) ∧
      (d.ring y r).sq.live = h.live.map (fun q => if q.n = e.n then { q with started := true } else q) ∧
      d.mem = s.dev.mem)) ∧
  (∀ (s : State) (y r : Nat) (h : Half) (e : REntry) (host : HostSide),
    sound s.dev = true → s.dev.live y = true → (s.dev.conn y r).st = 2 → (s.dev.ring y r).sq = h →
    s.dev.cqFull y h = false → h.live.find? (fun q => !q.started) = some e →
    (bit (le e.bytes 0 1) 4 = true → h.live.head? = some e) → s.dev.sendCode y r h e.bytes = 0 →
    opOf e.bytes = 0x05 → host.xl = .hit → s.dev.canMaster y = true → (s.dev.yard y).inval = [] →
    Completes (.writeEntry y r host) s (fun d =>
      ((d.conn y r).ops.drop (s.dev.conn y r).ops.length).map (fun o => (o.opc, o.len, o.remote, o.wkey,
      o.entry)) = (if bit (le e.bytes 0 1) 3 then [(0x05, entryLen h.big false e.bytes, le e.bytes 8 8,
      le e.bytes 4 4, none), (0x0E, 0, le e.bytes 8 8, le e.bytes 4 4, some e.n)] else [(0x05,
      entryLen h.big false e.bytes, le e.bytes 8 8, le e.bytes 4 4, some e.n)]) ∧
      (d.ring y r).sq.live = h.live.map (fun q => if q.n = e.n then { q with started := true } else q) ∧
      d.mem = s.dev.mem)) ∧
  (∀ (s : State) (y r : Nat) (h : Half) (e : REntry) (host : HostSide),
    sound s.dev = true → s.dev.live y = true → (s.dev.conn y r).st = 2 → (s.dev.ring y r).sq = h →
    s.dev.cqFull y h = false → h.live.find? (fun q => !q.started) = some e →
    (bit (le e.bytes 0 1) 4 = true → h.live.head? = some e) → s.dev.sendCode y r h e.bytes = 0 →
    opOf e.bytes = 0x06 → host.xl = .hit → s.dev.canMaster y = true → (s.dev.yard y).inval = [] →
    Completes (.writeImmEntry y r host) s (fun d =>
      ((d.conn y r).ops.drop (s.dev.conn y r).ops.length).map (fun o => (o.opc, o.len, o.remote, o.wkey,
      o.entry)) = (if bit (le e.bytes 0 1) 3 then [(0x06, entryLen h.big false e.bytes, le e.bytes 8 8,
      le e.bytes 4 4, none), (0x0E, 0, le e.bytes 8 8, le e.bytes 4 4, some e.n)] else [(0x06,
      entryLen h.big false e.bytes, le e.bytes 8 8, le e.bytes 4 4, some e.n)]) ∧
      (d.ring y r).sq.live = h.live.map (fun q => if q.n = e.n then { q with started := true } else q) ∧
      d.mem = s.dev.mem)) ∧
  (∀ (s : State) (y r : Nat) (h : Half) (e : REntry) (host : HostSide),
    sound s.dev = true → s.dev.live y = true → (s.dev.conn y r).st = 2 → (s.dev.ring y r).sq = h →
    s.dev.cqFull y h = false → h.live.find? (fun q => !q.started) = some e →
    (bit (le e.bytes 0 1) 4 = true → h.live.head? = some e) → s.dev.sendCode y r h e.bytes = 0 →
    opOf e.bytes = 0x07 → host.xl = .hit → s.dev.canMaster y = true → (s.dev.yard y).inval = [] →
    Completes (.read y r host) s (fun d => (let part := (s.dev.conn y r).window * (s.dev.conn y r).mtu;
      let k := max 1 (ceilDiv (entryLen h.big false e.bytes) part);
      ((d.conn y r).ops.drop (s.dev.conn y r).ops.length).map (fun o => (o.opc, o.len, o.remote, o.wkey,
      o.entry)) = (List.range k).map (fun i => (7, min part (entryLen h.big false e.bytes - i * part),
      le e.bytes 8 8 + i * part, le e.bytes 4 4, if i + 1 = k then some e.n else none))) ∧
      (d.ring y r).sq.live = h.live.map (fun q => if q.n = e.n then { q with started := true } else q) ∧
      d.mem = s.dev.mem))

/-- Atomic, ADDW, FLUSH_READ, NOP and receive entries start as R301, R302 and R283 state (R283, R301, R302). -/
def Obligations.AtomicAndReceiveEntries : Prop :=
  (∀ (s : State) (y r : Nat) (h : Half) (e : REntry) (host : HostSide),
    sound s.dev = true → s.dev.live y = true → (s.dev.conn y r).st = 2 → (s.dev.ring y r).sq = h →
    s.dev.cqFull y h = false → h.live.find? (fun q => !q.started) = some e →
    (bit (le e.bytes 0 1) 4 = true → h.live.head? = some e) → s.dev.sendCode y r h e.bytes = 0 →
    opOf e.bytes = 0x09 → host.xl = .hit → s.dev.canMaster y = true → (s.dev.yard y).inval = [] →
    Completes (.faddEntry y r host) s (fun d => ((d.conn y r).ops.drop (s.dev.conn y r).ops.length).map (fun o => (o.opc, o.len, o.remote, o.wkey, o.entry, o.operand)) = [(0x09, 8, le e.bytes 8 8, le e.bytes 4 4, some e.n, le e.bytes 0x30 8)] ∧
      (d.ring y r).sq.live = h.live.map (fun q => if q.n = e.n then { q with started := true } else q) ∧
      d.mem = s.dev.mem)) ∧
  (∀ (s : State) (y r : Nat) (h : Half) (e : REntry) (host : HostSide),
    sound s.dev = true → s.dev.live y = true → (s.dev.conn y r).st = 2 → (s.dev.ring y r).sq = h →
    s.dev.cqFull y h = false → h.live.find? (fun q => !q.started) = some e →
    (bit (le e.bytes 0 1) 4 = true → h.live.head? = some e) → s.dev.sendCode y r h e.bytes = 0 →
    opOf e.bytes = 0x0A → host.xl = .hit → s.dev.canMaster y = true → (s.dev.yard y).inval = [] →
    Completes (.cswapEntry y r host) s (fun d =>
      ((d.conn y r).ops.drop (s.dev.conn y r).ops.length).map (fun o => ((o.opc, o.len, o.remote, o.wkey), (o.entry,
      o.operand, o.compare))) = [((0x0A, 8, le e.bytes 8 8, le e.bytes 4 4), (some e.n, le e.bytes 0x30 8,
      le e.bytes 0x38 8))] ∧
      (d.ring y r).sq.live = h.live.map (fun q => if q.n = e.n then { q with started := true } else q) ∧
      d.mem = s.dev.mem)) ∧
  (∀ (s : State) (y r : Nat) (h : Half) (e : REntry) (host : HostSide),
    sound s.dev = true → s.dev.live y = true → (s.dev.conn y r).st = 2 → (s.dev.ring y r).sq = h →
    s.dev.cqFull y h = false → h.live.find? (fun q => !q.started) = some e →
    (bit (le e.bytes 0 1) 4 = true → h.live.head? = some e) → s.dev.sendCode y r h e.bytes = 0 →
    opOf e.bytes = 0x0C → host.xl = .hit → s.dev.canMaster y = true → (s.dev.yard y).inval = [] →
    Completes (.addwFp32Entry y r host) s (fun d =>
      ((d.conn y r).ops.drop (s.dev.conn y r).ops.length).map (fun o => (o.opc, o.len, o.remote, o.wkey,
      o.entry)) = (if bit (le e.bytes 0 1) 3 then [(0x0C, entryLen h.big false e.bytes, le e.bytes 8 8,
      le e.bytes 4 4, none), (0x0E, 0, le e.bytes 8 8, le e.bytes 4 4, some e.n)] else [(0x0C,
      entryLen h.big false e.bytes, le e.bytes 8 8, le e.bytes 4 4, some e.n)]) ∧
      (d.ring y r).sq.live = h.live.map (fun q => if q.n = e.n then { q with started := true } else q) ∧
      d.mem = s.dev.mem)) ∧
  (∀ (s : State) (y r : Nat) (h : Half) (e : REntry) (host : HostSide),
    sound s.dev = true → s.dev.live y = true → (s.dev.conn y r).st = 2 → (s.dev.ring y r).sq = h →
    s.dev.cqFull y h = false → h.live.find? (fun q => !q.started) = some e →
    (bit (le e.bytes 0 1) 4 = true → h.live.head? = some e) → s.dev.sendCode y r h e.bytes = 0 →
    opOf e.bytes = 0x0D → host.xl = .hit → s.dev.canMaster y = true → (s.dev.yard y).inval = [] →
    Completes (.addwBf16Entry y r host) s (fun d =>
      ((d.conn y r).ops.drop (s.dev.conn y r).ops.length).map (fun o => (o.opc, o.len, o.remote, o.wkey,
      o.entry)) = (if bit (le e.bytes 0 1) 3 then [(0x0D, entryLen h.big false e.bytes, le e.bytes 8 8,
      le e.bytes 4 4, none), (0x0E, 0, le e.bytes 8 8, le e.bytes 4 4, some e.n)] else [(0x0D,
      entryLen h.big false e.bytes, le e.bytes 8 8, le e.bytes 4 4, some e.n)]) ∧
      (d.ring y r).sq.live = h.live.map (fun q => if q.n = e.n then { q with started := true } else q) ∧
      d.mem = s.dev.mem)) ∧
  (∀ (s : State) (y r : Nat) (h : Half) (e : REntry),
    sound s.dev = true → s.dev.live y = true → (s.dev.conn y r).st = 2 → (s.dev.ring y r).sq = h →
    s.dev.cqFull y h = false → h.live.find? (fun q => !q.started) = some e →
    (bit (le e.bytes 0 1) 4 = true → h.live.head? = some e) → s.dev.sendCode y r h e.bytes = 0 →
    opOf e.bytes = 0x0E →
    Completes (.flushReadEntry y r) s (fun d => ((d.conn y r).ops.drop (s.dev.conn y r).ops.length).map (fun o => (o.opc, o.len, o.remote, o.wkey, o.entry)) = [(0x0E, 0, le e.bytes 8 8, le e.bytes 4 4, some e.n)] ∧
      (d.ring y r).sq.live = h.live.map (fun q => if q.n = e.n then { q with started := true } else q) ∧
      d.mem = s.dev.mem)) ∧
  (∀ (s : State) (y r : Nat) (h : Half) (e : REntry),
    sound s.dev = true → s.dev.live y = true → (s.dev.conn y r).st = 2 → (s.dev.ring y r).sq = h →
    s.dev.cqFull y h = false → h.live.find? (fun q => !q.started) = some e →
    (bit (le e.bytes 0 1) 4 = true → h.live.head? = some e) → s.dev.sendCode y r h e.bytes = 0 → opOf e.bytes = 0 →
    h.live = [e] → e.out = none → h.byFetch = false → (entryLen h.big false e.bytes = 0 ∨ s.dev.canMaster y = true) →
    (s.dev.yard y).inval = [] →
    Completes (.nopEntry y r) s (fun d => ((d.ring y r).sq.live, (d.ring y r).sq.written) = ([],
      (h.written + 1) % 2 ^ 32))) ∧
  (∀ (s : State) (y r : Nat) (h : Half) (e : REntry),
    sound s.dev = true → s.dev.live y = true → (s.dev.conn y r).st = 2 → (s.dev.ring y r).rq = h →
    s.dev.cqFull y h = false → h.live.find? (fun q => !q.started) = some e → s.dev.recvCode y r h e.bytes = 0 →
    opOf e.bytes = 0x20 →
    Completes (.recv y r) s (fun d => (d.ring y r).rq.live = h.live.map (fun q => if q.n = e.n then { q with started := true } else q) ∧
      d.mem = s.dev.mem)) ∧
  (∀ (s : State) (y r : Nat) (h : Half) (e : REntry) (l : MatchList),
    sound s.dev = true → s.dev.live y = true → (s.dev.conn y r).st = 2 → (s.dev.ring y r).rq = h →
    s.dev.cqFull y h = false → h.live.find? (fun q => !q.started) = some e → s.dev.recvCode y r h e.bytes = 0 →
    opOf e.bytes = 0x21 → Tab.find s.dev.lists (yk y (s.dev.conn y r).matchList) = some l →
    (l.unexp.find? (fun u => ({ tag := le e.bytes 8 8, mask := if bit (le e.bytes 0 1) 2 then 2 ^ 64 - 1 else le e.bytes 0x30 8, src := le e.bytes 4 3, ring := r, n := e.n, loc := entryLoc h.big true e.bytes, len := entryLen h.big true e.bytes } : Posted).hits u.tag u.conn) = none) →
    l.posted.length < l.maxPosted →
    Completes (.trecv y r) s (fun d => (d.ring y r).rq.live = h.live.map (fun q => if q.n = e.n then { q with started := true } else q) ∧
      (Tab.find d.lists (yk y (s.dev.conn y r).matchList) = some { l with posted := l.posted ++ [{ tag := le e.bytes 8 8, mask := if bit (le e.bytes 0 1) 2 then 2 ^ 64 - 1 else le e.bytes 0x30 8, src := le e.bytes 4 3, ring := r, n := e.n, loc := entryLoc h.big true e.bytes, len := entryLen h.big true e.bytes }] }) ∧
      d.mem = s.dev.mem)) ∧
  (∀ (s : State) (y r : Nat) (h : Half) (e : REntry) (l : MatchList) (u : Unexp) (k : Nat),
    sound s.dev = true → s.dev.live y = true → (s.dev.conn y r).st = 2 → (s.dev.ring y r).rq = h →
    s.dev.cqFull y h = false → h.live.find? (fun q => !q.started) = some e → s.dev.recvCode y r h e.bytes = 0 →
    opOf e.bytes = 0x21 → Tab.find s.dev.lists (yk y (s.dev.conn y r).matchList) = some l →
    (l.unexp.find? (fun u => ({ tag := le e.bytes 8 8, mask := if bit (le e.bytes 0 1) 2 then 2 ^ 64 - 1 else le e.bytes 0x30 8, src := le e.bytes 4 3, ring := r, n := e.n, loc := entryLoc h.big true e.bytes, len := entryLen h.big true e.bytes } : Posted).hits u.tag u.conn) = some u) →
    u.rts = some k →
    min u.len (entryLen h.big true e.bytes) ≤ (s.dev.conn y u.conn).window * (s.dev.conn y u.conn).mtu →
    Completes (.trecv y r) s (fun d => Tab.find d.lists (yk y (s.dev.conn y r).matchList) = some { l with unexp := l.unexp.erase u } ∧
      (d.conn y u.conn).ops.getLast?.map (fun o => (o.opc, o.len, o.handle, o.loc)) = some (7,
        min u.len (entryLen h.big true e.bytes), k, entryLoc h.big true e.bytes) ∧
      d.mem = s.dev.mem)) ∧
  (∀ (s : State) (y r : Nat) (h : Half) (e : REntry) (l : MatchList) (u : Unexp) (p g q : Nat),
    sound s.dev = true → s.dev.live y = true → (s.dev.conn y r).st = 2 → (s.dev.ring y r).rq = h →
    s.dev.cqFull y h = false → h.live.find? (fun q => !q.started) = some e → s.dev.recvCode y r h e.bytes = 0 →
    opOf e.bytes = 0x21 → Tab.find s.dev.lists (yk y (s.dev.conn y r).matchList) = some l →
    (l.unexp.find? (fun u => ({ tag := le e.bytes 8 8, mask := if bit (le e.bytes 0 1) 2 then 2 ^ 64 - 1 else le e.bytes 0x30 8, src := le e.bytes 4 3, ring := r, n := e.n, loc := entryLoc h.big true e.bytes, len := entryLen h.big true e.bytes } : Posted).hits u.tag u.conn) = some u) →
    u.rts = none → entryLoc h.big true e.bytes = .seg p g q →
    Completes (.trecv y r) s (fun d => Tab.find d.lists (yk y (s.dev.conn y r).matchList) = some { l with unexp := l.unexp.erase u }))

/-- The administrative queue creates and deletes queues; doorbells and heads move (R319 to R322). -/
def Obligations.LegacyQueues : Prop :=
  (∀ (s : State) (y v : Nat) (es : List (List Byte)),
    sound s.dev = true → s.dev.cmdOk y = true → s.dev.canMaster y = true → bit (s.dev.fld (R.YRD_MODE y)) 0 = true →
    Completes (.lgqAqSqTail y v es) s (fun d => (let q := (s.dev.yard y).adm;
      let E := bits (s.dev.fld (R.LGQ_AQ_SIZE y)) 0 12 + 1; let n := (v % 2 ^ 16 % E + E - q.sqTail % E) % E;
      (d.yard y).adm = { q with waiting := q.waiting ++ (es ++ List.replicate n (zeros 64)).take n, sqTail := v % 2 ^ 16 % E } ∧ d.out = s.dev.out ++ (List.range n).map (fun i => .hostRead (y + 1) (s.dev.fld (R.LGQ_AQ_SQ_ADDR y) + (q.sqTail + i) % E * 64) 64)) ∧
      d.regs = s.dev.regs ∧ d.mem = s.dev.mem)) ∧
  (∀ (s : State) (y : Nat) (e : List Byte) (rest : List (List Byte)),
    sound s.dev = true → s.dev.live y = true → bit (s.dev.fld (R.YRD_MODE y)) 0 = true →
    (s.dev.yard y).adm.cqCount - (s.dev.yard y).adm.cqHead < bits (s.dev.fld (R.LGQ_AQ_SIZE y)) 16 12 + 1 →
    (s.dev.yard y).adm.waiting = e :: rest → le e 0 1 = 1 → le e 2 2 < 2048 → logOk (le e 0x10 1) = true →
    le e 0x12 2 < 2048 → le e 8 8 % 16 = 0 → s.dev.lcq y (le e 2 2) = none →
    Completes (.createCq y) s (fun d => ((d.yard y).adm.waiting, (d.yard y).adm.cqCount) = (rest,
      (s.dev.yard y).adm.cqCount + 1) ∧
      (s.dev.canMaster y = true → (d.out.getLast?.map (fun o => match o with | .hostWrite fn a bs => fn == y + 1 && a == s.dev.fld (R.LGQ_AQ_CQ_ADDR y) + (s.dev.yard y).adm.cqCount % (bits (s.dev.fld (R.LGQ_AQ_SIZE y)) 16 12 + 1) * 16 && le bs 8 2 == le e 2 2 && le bs 12 1 == 0 | _ => false)) = some true) ∧
      d.lcq y (le e 2 2) = some { base := le e 8 8, log := le e 0x10 1, vector := le e 0x12 2, head := 0, count := 0 } ∧
      d.mem = s.dev.mem)) ∧
  (∀ (s : State) (y : Nat) (e : List Byte) (rest : List (List Byte)),
    sound s.dev = true → s.dev.live y = true → bit (s.dev.fld (R.YRD_MODE y)) 0 = true →
    (s.dev.yard y).adm.cqCount - (s.dev.yard y).adm.cqHead < bits (s.dev.fld (R.LGQ_AQ_SIZE y)) 16 12 + 1 →
    (s.dev.yard y).adm.waiting = e :: rest → le e 0 1 = 2 → (s.dev.lcq y (le e 2 2)).isSome = true →
    s.dev.ringsOnCq y (le e 2 2) = [] →
    Completes (.deleteCq y) s (fun d => ((d.yard y).adm.waiting, (d.yard y).adm.cqCount) = (rest,
      (s.dev.yard y).adm.cqCount + 1) ∧
      (s.dev.canMaster y = true → (d.out.getLast?.map (fun o => match o with | .hostWrite fn a bs => fn == y + 1 && a == s.dev.fld (R.LGQ_AQ_CQ_ADDR y) + (s.dev.yard y).adm.cqCount % (bits (s.dev.fld (R.LGQ_AQ_SIZE y)) 16 12 + 1) * 16 && le bs 8 2 == le e 2 2 && le bs 12 1 == 0 | _ => false)) = some true) ∧
      d.lcq y (le e 2 2) = none ∧ d.mem = s.dev.mem)) ∧
  (∀ (s : State) (y : Nat) (e : List Byte) (rest : List (List Byte)),
    sound s.dev = true → s.dev.live y = true → bit (s.dev.fld (R.YRD_MODE y)) 0 = true →
    (s.dev.yard y).adm.cqCount - (s.dev.yard y).adm.cqHead < bits (s.dev.fld (R.LGQ_AQ_SIZE y)) 16 12 + 1 →
    (s.dev.yard y).adm.waiting = e :: rest → le e 0 1 = 3 → logOk (le e 0x10 1) = true → le e 0x18 4 < 2 ^ 20 →
    s.dev.hostCtx y (le e 0x18 4) = true → le e 8 8 % 64 = 0 → le e 0x14 4 < s.dev.connCount y →
    (s.dev.conn y (le e 0x14 4)).st = 1 → s.dev.planConn y (le e 0x14 4) = false →
    (s.dev.lcq y (le e 0x12 2)).isSome = true → (s.dev.ring y (le e 0x14 4)).sq.bound = false →
    Completes (.createSq y) s (fun d => ((d.yard y).adm.waiting, (d.yard y).adm.cqCount) = (rest,
      (s.dev.yard y).adm.cqCount + 1) ∧
      (s.dev.canMaster y = true → (d.out.getLast?.map (fun o => match o with | .hostWrite fn a bs => fn == y + 1 && a == s.dev.fld (R.LGQ_AQ_CQ_ADDR y) + (s.dev.yard y).adm.cqCount % (bits (s.dev.fld (R.LGQ_AQ_SIZE y)) 16 12 + 1) * 16 && le bs 8 2 == le e 2 2 && le bs 12 1 == 0 | _ => false)) = some true) ∧
      ((d.ring y (le e 0x14 4)).sq.bound, (d.ring y (le e 0x14 4)).sq.addr, (d.ring y (le e 0x14 4)).sq.log,
        (d.ring y (le e 0x14 4)).sq.cq) = (true, le e 8 8, le e 0x10 1, some (le e 0x12 2)) ∧
      d.mem = s.dev.mem)) ∧
  (∀ (s : State) (y : Nat) (e : List Byte) (rest : List (List Byte)),
    sound s.dev = true → s.dev.live y = true → bit (s.dev.fld (R.YRD_MODE y)) 0 = true →
    (s.dev.yard y).adm.cqCount - (s.dev.yard y).adm.cqHead < bits (s.dev.fld (R.LGQ_AQ_SIZE y)) 16 12 + 1 →
    (s.dev.yard y).adm.waiting = e :: rest → le e 0 1 = 5 → logOk (le e 0x10 1) = true → le e 0x18 4 < 2 ^ 20 →
    s.dev.hostCtx y (le e 0x18 4) = true → le e 8 8 % 64 = 0 → le e 0x14 4 < s.dev.connCount y →
    (s.dev.conn y (le e 0x14 4)).st = 1 → s.dev.planConn y (le e 0x14 4) = false →
    (s.dev.lcq y (le e 0x12 2)).isSome = true → (s.dev.ring y (le e 0x14 4)).rq.bound = false →
    Completes (.createRq y) s (fun d => ((d.yard y).adm.waiting, (d.yard y).adm.cqCount) = (rest,
      (s.dev.yard y).adm.cqCount + 1) ∧
      (s.dev.canMaster y = true → (d.out.getLast?.map (fun o => match o with | .hostWrite fn a bs => fn == y + 1 && a == s.dev.fld (R.LGQ_AQ_CQ_ADDR y) + (s.dev.yard y).adm.cqCount % (bits (s.dev.fld (R.LGQ_AQ_SIZE y)) 16 12 + 1) * 16 && le bs 8 2 == le e 2 2 && le bs 12 1 == 0 | _ => false)) = some true) ∧
      ((d.ring y (le e 0x14 4)).rq.bound, (d.ring y (le e 0x14 4)).rq.addr, (d.ring y (le e 0x14 4)).rq.log,
        (d.ring y (le e 0x14 4)).rq.cq) = (true, le e 8 8, le e 0x10 1, some (le e 0x12 2)) ∧
      d.mem = s.dev.mem)) ∧
  (∀ (s : State) (y : Nat) (e : List Byte) (rest : List (List Byte)),
    sound s.dev = true → s.dev.live y = true → bit (s.dev.fld (R.YRD_MODE y)) 0 = true →
    (s.dev.yard y).adm.cqCount - (s.dev.yard y).adm.cqHead < bits (s.dev.fld (R.LGQ_AQ_SIZE y)) 16 12 + 1 →
    (s.dev.yard y).adm.waiting = e :: rest → le e 0 1 = 4 → (s.dev.conn y (le e 2 2)).st = 1 →
    (s.dev.ring y (le e 2 2)).sq.cq.isSome = true →
    Completes (.deleteSq y) s (fun d => ((d.yard y).adm.waiting, (d.yard y).adm.cqCount) = (rest,
      (s.dev.yard y).adm.cqCount + 1) ∧
      (s.dev.canMaster y = true → (d.out.getLast?.map (fun o => match o with | .hostWrite fn a bs => fn == y + 1 && a == s.dev.fld (R.LGQ_AQ_CQ_ADDR y) + (s.dev.yard y).adm.cqCount % (bits (s.dev.fld (R.LGQ_AQ_SIZE y)) 16 12 + 1) * 16 && le bs 8 2 == le e 2 2 && le bs 12 1 == 0 | _ => false)) = some true) ∧
      (d.ring y (le e 2 2)).sq = Half.unbound ∧ d.mem = s.dev.mem)) ∧
  (∀ (s : State) (y : Nat) (e : List Byte) (rest : List (List Byte)),
    sound s.dev = true → s.dev.live y = true → bit (s.dev.fld (R.YRD_MODE y)) 0 = true →
    (s.dev.yard y).adm.cqCount - (s.dev.yard y).adm.cqHead < bits (s.dev.fld (R.LGQ_AQ_SIZE y)) 16 12 + 1 →
    (s.dev.yard y).adm.waiting = e :: rest → le e 0 1 = 6 → (s.dev.conn y (le e 2 2)).st = 1 →
    (s.dev.ring y (le e 2 2)).rq.cq.isSome = true →
    Completes (.deleteRq y) s (fun d => ((d.yard y).adm.waiting, (d.yard y).adm.cqCount) = (rest,
      (s.dev.yard y).adm.cqCount + 1) ∧
      (s.dev.canMaster y = true → (d.out.getLast?.map (fun o => match o with | .hostWrite fn a bs => fn == y + 1 && a == s.dev.fld (R.LGQ_AQ_CQ_ADDR y) + (s.dev.yard y).adm.cqCount % (bits (s.dev.fld (R.LGQ_AQ_SIZE y)) 16 12 + 1) * 16 && le bs 8 2 == le e 2 2 && le bs 12 1 == 0 | _ => false)) = some true) ∧
      (d.ring y (le e 2 2)).rq = Half.unbound ∧ d.mem = s.dev.mem)) ∧
  (∀ (s : State) (y r : Nat) (recv : Bool) (v : Nat) (es : List (List Byte)) (xl : Xlat),
    sound s.dev = true → s.dev.yfOk y = true → r < s.dev.connCount y →
    ((s.dev.ring y r).half recv).cq.isSome = true → (s.dev.conn y r).st = 2 →
    Completes (.tailDoorbell y r recv v es xl) s (fun d => ((d.ring y r).half recv).tail = v % 2 ^ 16)) ∧
  (∀ (s : State) (y r : Nat) (recv : Bool) (v : Nat) (e : List Byte) (h : Half),
    sound s.dev = true → s.dev.yfOk y = true → s.dev.live y = true → r < s.dev.connCount y →
    (s.dev.ring y r).half recv = h → h.cq.isSome = true → h.bound = true → h.inSeg = false →
    (s.dev.conn y r).st = 2 → s.dev.cqFull y h = false → s.dev.canMaster y = true → (s.dev.yard y).inval = [] →
    h.live.length < (s.dev.ring y r).fetch → v % 2 ^ 16 % 2 ^ h.log ≠ h.n % 2 ^ h.log →
    Completes (.tailDoorbell y r recv v [e]) s (fun d => ((d.ring y r).half recv).tail = v % 2 ^ 16 ∧
      ((d.ring y r).half recv).live = h.live ++ [{ n := h.n, bytes := e, started := false, out := none }] ∧
      ((d.ring y r).half recv).n = (h.n + 1) % 2 ^ 32 ∧ d.mem = s.dev.mem)) ∧
  (∀ (s : State) (y c v : Nat) (q : LCq),
    sound s.dev = true → s.dev.yfOk y = true → s.dev.lcq y c = some q →
    Completes (.lgqCqHead y c v) s (fun d => (d.lcq y c).map (fun z => z.head) = (let k := (v % 2 ^ 16 % 2 ^ q.log + 2 ^ q.log - q.head % 2 ^ q.log) % 2 ^ q.log; some (min q.count (q.head + (if k = 0 ∧ q.full = true then 2 ^ q.log else k)))))) ∧
  (∀ (s : State) (y v : Nat) (q : LAdm),
    sound s.dev = true → s.dev.yfOk y = true → (s.dev.yard y).adm = q →
    Completes (.lgqAqCqHead y v) s (fun d => (d.yard y).adm.cqHead = (let E := bits (s.dev.fld (R.LGQ_AQ_SIZE y)) 16 12 + 1; let k := (v % 2 ^ 16 % E + E - q.cqHead % E) % E; min q.cqCount (q.cqHead + (if k = 0 ∧ E ≤ q.cqCount - q.cqHead then E else k))) ∧
      d.regs = s.dev.regs ∧ d.mem = s.dev.mem))

/-- Host resume, the unmasking of a vector, a link retrain and a translation that arrives (R314, R316, R318, R346). -/
def Obligations.HostEvents : Prop :=
  (∀ (s : State) (y v : Nat),
    sound s.dev = true → s.dev.yfOk y = true → bit v 0 = true → s.dev.ctl.hostUp = true → s.dev.hostLost y = true →
    Completes (.yrdHostResume y v) s (fun d => d.fld (R.BAY_FN_STATE_HOST_LOST y) = 0 ∧
      d.fld (R.YRD_STATE_HOST_LOST y) = 0 ∧ d.yards = s.dev.yards ∧ d.mem = s.dev.mem)) ∧
  (∀ (s : State) (fn v : Nat),
    sound s.dev = true → s.dev.vecThere fn v = true → s.dev.mayIrq fn = true →
    Tab.num s.dev.ctl.msixPend (mk fn v) ≠ 0 → Tab.wfNum s.dev.ctl.msixPend = true →
    Completes (.msixUnmask fn v) s (fun d => d.out = s.dev.out ++ [.msix fn v (Tab.num s.dev.ctl.msixEnt (mk fn v))] ∧
      Tab.num d.ctl.msixPend (mk fn v) = 0 ∧ Tab.num d.ctl.msixOpen (mk fn v) = 1 ∧ d.regs = s.dev.regs ∧
      d.mem = s.dev.mem)) ∧
  (∀ (s : State) (fn v : Nat),
    sound s.dev = true → s.dev.vecThere fn v = true →
    (Tab.num s.dev.ctl.msixPend (mk fn v) = 0 ∨ s.dev.mayIrq fn = false) →
    Completes (.msixUnmask fn v) s (fun d => d.out = s.dev.out ∧ Tab.num d.ctl.msixOpen (mk fn v) = 1 ∧
      d.ctl.msixPend = s.dev.ctl.msixPend ∧ d.regs = s.dev.regs ∧ d.mem = s.dev.mem)) ∧
  (∀ (s : State),
    sound s.dev = true →
    Completes .pcieRetrain s (fun d => d.ctl.hostUp = !(s.dev.ctl.perst || s.dev.ctl.tripped || s.dev.fld R.CRP_PSTATE_STATUS_STATE == 3) ∧
      d.regs = s.dev.regs ∧ d.mem = s.dev.mem)) ∧
  (∀ (s : State) (b : Nat) (ok : Bool) (data : List Byte) (y : Nat) (e : Nat × Instr),
    sound s.dev = true → s.dev.yardOf b = some y → (s.dev.yard y).store.find? (fun q => q.1 == b) = some e →
    (s.dev.yard y).inval = [] → (ofYard s.dev.conns y).all (fun q => q.2.early.isEmpty) = true →
    Completes (.atsTranslationDone b ok data) s (fun d => (d.yard y).store = (s.dev.yard y).store.erase e))

/-- The SPDM connection requests negotiate and answer as R415 and R422 state (R415, R422, R426). -/
def Obligations.SpdmConnection : Prop :=
  (∀ (s : State) (tr : Transport),
    sound s.dev = true → serves s.dev tr 0 = true →
    Completes (.getVersion tr) s (fun d => (d.spdmAt tr).stage = 1 ∧
      d.sec.sessions = s.dev.sec.sessions.filter (fun z => z.tr != tr) ∧
      d.out = s.dev.out ++ [.spdm tr ([0x10, 0x04, 0, 0, 0, 1] ++ leBytes 2 0x1300)] ∧ d.regs = s.dev.regs ∧
      d.mem = s.dev.mem)) ∧
  (∀ (s : State) (tr : Transport),
    sound s.dev = true → serves s.dev tr 1 = true →
    Completes (.getCapabilities tr) s (fun d => (d.spdmAt tr).stage = max (s.dev.spdmAt tr).stage 2 ∧
      d.out = s.dev.out ++ [spdmAnswer s.dev tr ([0x13, 0x61, 0, 0] ++ (leBytes 4 capFlags ++
        Config.standardResponse 0x0274 0x61 []))] ∧
      d.regs = s.dev.regs ∧ d.mem = s.dev.mem)) ∧
  (∀ (s : State) (tr : Transport),
    sound s.dev = true → serves s.dev tr 2 = true →
    Completes (.negotiateAlgorithms tr) s (fun d => (d.spdmAt tr).stage = 3 ∧
      d.out = s.dev.out ++ [spdmAnswer s.dev tr ([0x13, 0x63, 0, 0] ++ (leBytes 4 0x08 ++ leBytes 4 0x02 ++
        leBytes 4 0x04 ++ leBytes 2 0x10 ++ leBytes 2 0x02))] ∧
      d.regs = s.dev.regs ∧ d.mem = s.dev.mem)) ∧
  (∀ (s : State) (tr : Transport),
    sound s.dev = true → serves s.dev tr 3 = true → s.dev.sec.idMade = true →
    Completes (.getDigests tr) s (fun d => d.out = s.dev.out ++ [spdmAnswer s.dev tr ([0x13, 0x01, 0, 3] ++
      (sha (Config.certificate 0) ++ sha (Config.certificate 1)))] ∧
      d.regs = s.dev.regs ∧ d.mem = s.dev.mem)) ∧
  (∀ (s : State) (tr : Transport) (slot : Nat),
    sound s.dev = true → serves s.dev tr 3 = true → slot < 2 → s.dev.sec.idMade = true →
    Completes (.getCertificate tr slot) s (fun d => d.out = s.dev.out ++ [spdmAnswer s.dev tr ([0x13, 0x02] ++
      leBytes 1 slot ++ [0] ++ Config.certificate slot)] ∧
      d.regs = s.dev.regs ∧ d.mem = s.dev.mem)) ∧
  (∀ (s : State) (tr : Transport) (nonce : List Byte),
    sound s.dev = true → serves s.dev tr 3 = true → s.dev.sec.idKeys = true →
    Completes (.challenge tr nonce) s (fun d => (let t := Config.standardResponse 0x0274 0x03 nonce;
      (d.spdmAt tr).lastSig = some (sha t) ∧ d.out = s.dev.out ++ [spdmAnswer s.dev tr ([0x13, 0x03, 0, 0] ++ (t ++
      Config.rsaSign t))]) ∧
      d.regs = s.dev.regs ∧ d.mem = s.dev.mem)) ∧
  (∀ (s : State) (tr : Transport) (hd : Nat) (last : Bool) (bs : List Byte),
    sound s.dev = true → serves s.dev tr 2 = true → (s.dev.spdmAt tr).chunksIn = none →
    Completes (.chunkSend tr hd 0 last bs) s (fun d => (d.spdmAt tr).chunksIn = (if last then none else some (hd, 1,
      bs)) ∧
      d.out = s.dev.out ++ [spdmAnswer s.dev tr ([0x13, 0x05, 0] ++ leBytes 1 (hd % 256) ++ leBytes 2 0)] ∧
      d.regs = s.dev.regs ∧ d.mem = s.dev.mem)) ∧
  (∀ (s : State) (tr : Transport) (hd n : Nat) (last : Bool) (bs b0 : List Byte),
    sound s.dev = true → serves s.dev tr 2 = true → (s.dev.spdmAt tr).chunksIn = some (hd, n, b0) →
    Completes (.chunkSend tr hd n last bs) s (fun d => (d.spdmAt tr).chunksIn = (if last then none else some (hd,
      n + 1, b0 ++ bs)) ∧
      d.out = s.dev.out ++ [spdmAnswer s.dev tr ([0x13, 0x05, 0] ++ leBytes 1 (hd % 256) ++ leBytes 2 n)] ∧
      d.regs = s.dev.regs ∧ d.mem = s.dev.mem)) ∧
  (∀ (s : State) (tr : Transport) (hd n : Nat) (bs : List Byte),
    sound s.dev = true → serves s.dev tr 2 = true → (s.dev.spdmAt tr).chunksOut = some (hd, n, bs) →
    Completes (.chunkGet tr hd n) s (fun d => (let k := max 1 (limitOf tr);
      (d.spdmAt tr).chunksOut = (if bs.length ≤ k then none else some (hd, n + 1, bs.drop k)) ∧ d.out = s.dev.out ++
      [.spdm tr ([0x13, 0x06] ++ leBytes 1 (b2n (decide (bs.length ≤ k))) ++ leBytes 1 (hd % 256) ++ (leBytes 2 n ++
      bs.take k))]) ∧
      d.regs = s.dev.regs ∧ d.mem = s.dev.mem))

/-- Sessions, measurements, reports and PQ signatures are served as R422 to R427 state (R422, R423, R424, R426,
  R427). -/
def Obligations.SpdmSessions : Prop :=
  (∀ (s : State) (tr : Transport) (share : List Byte),
    sound s.dev = true → serves s.dev tr 3 = true → s.dev.sec.idKeys = true → s.dev.sec.sessions.length < 16 →
    Completes (.keyExchange tr share) s (fun d =>
      (let t := leBytes 2 s.dev.sec.nextSession ++ Config.standardResponse 0x0274 0x64 share; d.out = s.dev.out ++
      [spdmAnswer s.dev tr ([0x13, 0x64, 0, 0] ++ (t ++ Config.rsaSign t))]) ∧
      d.sec.sessions = s.dev.sec.sessions ++ [{ id := s.dev.sec.nextSession, tr := tr, finished := false }] ∧
      d.sec.nextSession = s.dev.sec.nextSession + 1 ∧ d.regs = s.dev.regs ∧ d.mem = s.dev.mem)) ∧
  (∀ (s : State) (tr : Transport) (id : Nat) (z : Session),
    sound s.dev = true → serves s.dev tr 3 = true → s.dev.session tr id = some z → z.finished = false →
    Completes (.finish tr id) s (fun d => (d.session tr id).map (fun q => q.finished) = some true ∧
      d.out = s.dev.out ++ [spdmAnswer s.dev tr ([0x13, 0x65, 0, 0] ++
        Config.standardResponse 0x0274 0x65 (leBytes 2 id))] ∧
      d.regs = s.dev.regs ∧ d.mem = s.dev.mem)) ∧
  (∀ (s : State) (tr : Transport) (id : Nat),
    sound s.dev = true → servesIn s.dev tr id = true →
    Completes (.heartbeat tr id) s (fun d => d.out = s.dev.out ++ [spdmAnswer s.dev tr ([0x13, 0x68, 0, 0] ++ [])] ∧
      d.sec.sessions = s.dev.sec.sessions ∧ d.regs = s.dev.regs ∧ d.mem = s.dev.mem)) ∧
  (∀ (s : State) (tr : Transport) (id : Nat),
    sound s.dev = true → servesIn s.dev tr id = true →
    Completes (.keyUpdate tr id) s (fun d => d.out = s.dev.out ++ [spdmAnswer s.dev tr ([0x13, 0x69, 0, 0] ++ [])] ∧
      d.sec.sessions = s.dev.sec.sessions ∧ d.regs = s.dev.regs ∧ d.mem = s.dev.mem)) ∧
  (∀ (s : State) (tr : Transport) (id : Nat),
    sound s.dev = true → servesIn s.dev tr id = true →
    Completes (.endSession tr id) s (fun d => d.session tr id = none ∧
      d.out = s.dev.out ++ [spdmAnswer s.dev tr ([0x13, 0x6C, 0, 0] ++ [])] ∧ d.regs = s.dev.regs ∧
      d.mem = s.dev.mem)) ∧
  (∀ (s : State) (tr : Transport) (index : Nat) (nonce : List Byte) (sign : Bool),
    sound s.dev = true → serves s.dev tr 3 = true → s.dev.indexWaits index = false → index ≠ 0 →
    s.dev.chosen tr index = none →
    Completes (.getMeasurements tr index nonce sign) s (fun d => d.out = s.dev.out ++ [.spdm tr ([0x13, 0x7F] ++
      leBytes 1 eInvalidRequest ++ leBytes 1 0)] ∧
      d.regs = s.dev.regs ∧ d.mem = s.dev.mem)) ∧
  (∀ (s : State) (tr : Transport) (index : Nat) (nonce : List Byte) (sign : Bool),
    sound s.dev = true → serves s.dev tr 3 = true → s.dev.indexWaits index = false → index = 0 → sign = false →
    Completes (.getMeasurements tr index nonce sign) s (fun d => d.out = s.dev.out ++
      [spdmAnswer s.dev tr (measurementBytes s.dev tr 0 nonce [])] ∧
      d.regs = s.dev.regs ∧ d.mem = s.dev.mem)) ∧
  (∀ (s : State) (tr : Transport) (index : Nat) (nonce : List Byte) (sign : Bool) (bs : List (Nat × List Byte)),
    sound s.dev = true → serves s.dev tr 3 = true → s.dev.indexWaits index = false → index ≠ 0 →
    s.dev.chosen tr index = some bs → sign = false →
    Completes (.getMeasurements tr index nonce sign) s (fun d => d.out = s.dev.out ++
      [spdmAnswer s.dev tr (measurementBytes s.dev tr index nonce bs)] ∧
      d.regs = s.dev.regs ∧ d.mem = s.dev.mem)) ∧
  (∀ (s : State) (tr : Transport) (index : Nat) (nonce : List Byte) (sign : Bool) (bs : List (Nat × List Byte)),
    sound s.dev = true → serves s.dev tr 3 = true → s.dev.indexWaits index = false → index ≠ 0 →
    s.dev.chosen tr index = some bs → sign = true → s.dev.sec.idKeys = true →
    Completes (.getMeasurements tr index nonce sign) s (fun d => (let m := measurementBytes s.dev tr index nonce bs;
      let t := Config.standardResponse 0x0274 0x60 (m.drop 4); (d.spdmAt tr).lastSig = some (sha t) ∧
      d.out = s.dev.out ++ [spdmAnswer s.dev tr (m ++ Config.rsaSign t)]) ∧
      d.regs = s.dev.regs ∧ d.mem = s.dev.mem)) ∧
  (∀ (s : State) (tr : Transport) (index : Nat) (nonce : List Byte) (bs : List (Nat × List Byte)),
    sound s.dev = true → serves s.dev tr 3 = true → s.dev.indexWaits index = false → s.dev.sec.idKeys = true →
    s.dev.chosen tr index = some bs →
    Completes (.getReport tr index nonce) s (fun d => (let r := s.dev.report nonce bs;
      (d.spdmAt tr).lastSig = some (sha r) ∧ d.out = s.dev.out ++ [spdmAnswer s.dev tr (vendorBytes 1 0 (r ++
      fitBytes 384 (Config.rsaSign r) ++ fitBytes 16224 (Config.slhSign r)))]) ∧
      d.regs = s.dev.regs ∧ d.mem = s.dev.mem)) ∧
  (∀ (s : State) (tr : Transport) (index : Nat) (nonce : List Byte),
    sound s.dev = true → serves s.dev tr 3 = true → s.dev.indexWaits index = false → s.dev.chosen tr index = none →
    Completes (.getReport tr index nonce) s (fun d => d.out = s.dev.out ++ [.spdm tr ([0x13, 0x7F] ++
      leBytes 1 eInvalidRequest ++ leBytes 1 0)] ∧
      d.sec = s.dev.sec ∧ d.regs = s.dev.regs ∧ d.mem = s.dev.mem)) ∧
  (∀ (s : State) (tr : Transport) (v : List Byte),
    sound s.dev = true → serves s.dev tr 3 = true → s.dev.sec.idKeys = true → (s.dev.spdmAt tr).lastSig = some v →
    Completes (.getPqSig tr) s (fun d => d.out = s.dev.out ++
      [spdmAnswer s.dev tr (vendorBytes 3 0 (fitBytes 16224 (Config.slhSign v)))] ∧
      d.regs = s.dev.regs ∧ d.mem = s.dev.mem)) ∧
  (∀ (s : State) (tr : Transport),
    sound s.dev = true → serves s.dev tr 3 = true → (s.dev.spdmAt tr).lastSig = none →
    Completes (.getPqSig tr) s (fun d => d.out = s.dev.out ++ [spdmAnswer s.dev tr (vendorBytes 3 2 [])] ∧
      d.regs = s.dev.regs ∧ d.mem = s.dev.mem)) ∧
  (∀ (s : State) (tr : Transport) (tok index : Nat) (nonce : List Byte) (bs : List (Nat × List Byte)),
    sound s.dev = true → serves s.dev tr 3 = true →
    (s.dev.spdmAt tr).ready = some (tok, .getMeasurements tr index nonce false) → s.dev.indexWaits index = false →
    index ≠ 0 → s.dev.chosen tr index = some bs →
    Completes (.respondIfReady tr tok) s (fun d => (d.spdmAt tr).ready = none ∧
      d.out = s.dev.out ++ [spdmAnswer s.dev tr (measurementBytes s.dev tr index nonce bs)] ∧ d.regs = s.dev.regs ∧
      d.mem = s.dev.mem)) ∧
  (∀ (s : State) (tr : Transport) (tok : Nat),
    sound s.dev = true → s.dev.reaches tr = true → ((s.dev.spdmAt tr).ready.map (fun q => q.1)) ≠ some tok →
    Completes (.respondIfReady tr tok) s (fun d => d.out = s.dev.out ++ [.spdm tr ([0x13, 0x7F] ++
      leBytes 1 eUnexpected ++ leBytes 1 0)] ∧
      d.sec = s.dev.sec ∧ d.regs = s.dev.regs ∧ d.mem = s.dev.mem))

/-- TDISP moves a TDI between its states; IDE_KM keeps a stream's key (R436). -/
def Obligations.TdispAndIde : Prop :=
  (∀ (s : State) (y : Nat),
    sound s.dev = true → s.dev.ctl.hostUp = true → s.dev.ctl.tripped = false → s.dev.present y = true →
    s.dev.sec.busy = false → (s.dev.yard y).resetting = false →
    Completes (.getTdispVersion y) s (fun d => (d.yard y).tdi = (s.dev.yard y).tdi ∧
      d.out = s.dev.out ++ [.tdisp y 0x01 ([1, 0x10])] ∧ d.regs = s.dev.regs ∧ d.mem = s.dev.mem)) ∧
  (∀ (s : State) (y : Nat),
    sound s.dev = true → s.dev.ctl.hostUp = true → s.dev.ctl.tripped = false → s.dev.present y = true →
    s.dev.sec.busy = false → (s.dev.yard y).resetting = false →
    Completes (.getTdispCapabilities y) s (fun d => (d.yard y).tdi = (s.dev.yard y).tdi ∧
      d.out = s.dev.out ++ [.tdisp y 0x02 (Config.standardResponse 0x1D15 0x02 [])] ∧ d.regs = s.dev.regs ∧
      d.mem = s.dev.mem)) ∧
  (∀ (s : State) (y : Nat),
    sound s.dev = true → s.dev.ctl.hostUp = true → s.dev.ctl.tripped = false → s.dev.present y = true →
    s.dev.sec.busy = false → (s.dev.yard y).resetting = false → (s.dev.yard y).tdi = 0 →
    Completes (.lockInterfaceRequest y) s (fun d => (d.yard y).tdi = 1 ∧
      d.out = s.dev.out ++ [.tdisp y 0x03 (Config.standardResponse 0x1D15 0x03 [])] ∧ d.regs = s.dev.regs ∧
      d.mem = s.dev.mem)) ∧
  (∀ (s : State) (y : Nat),
    sound s.dev = true → s.dev.ctl.hostUp = true → s.dev.ctl.tripped = false → s.dev.present y = true →
    s.dev.sec.busy = false → (s.dev.yard y).resetting = false → ((s.dev.yard y).tdi = 1 ∨ (s.dev.yard y).tdi = 2) →
    Completes (.getDeviceInterfaceReport y) s (fun d => (d.yard y).tdi = (s.dev.yard y).tdi ∧
      d.out = s.dev.out ++ [.tdisp y 0x04 (Config.standardResponse 0x1D15 0x04 (leBytes 1 y ++
        leBytes 1 (s.dev.baysOf y).length))] ∧
      d.regs = s.dev.regs ∧ d.mem = s.dev.mem)) ∧
  (∀ (s : State) (y : Nat),
    sound s.dev = true → s.dev.ctl.hostUp = true → s.dev.ctl.tripped = false → s.dev.present y = true →
    s.dev.sec.busy = false → (s.dev.yard y).resetting = false →
    Completes (.getDeviceInterfaceState y) s (fun d => (d.yard y).tdi = (s.dev.yard y).tdi ∧
      d.out = s.dev.out ++ [.tdisp y 0x05 (leBytes 1 (s.dev.yard y).tdi)] ∧ d.regs = s.dev.regs ∧
        d.mem = s.dev.mem)) ∧
  (∀ (s : State) (y : Nat),
    sound s.dev = true → s.dev.ctl.hostUp = true → s.dev.ctl.tripped = false → s.dev.present y = true →
    s.dev.sec.busy = false → (s.dev.yard y).resetting = false → (s.dev.yard y).tdi = 1 →
    Completes (.startInterfaceRequest y) s (fun d => (d.yard y).tdi = 2 ∧ d.out = s.dev.out ++ [.tdisp y 0x06 ([])] ∧
      d.regs = s.dev.regs ∧ d.mem = s.dev.mem)) ∧
  (∀ (s : State) (y : Nat),
    sound s.dev = true → s.dev.ctl.hostUp = true → s.dev.ctl.tripped = false → s.dev.present y = true →
    s.dev.sec.busy = false → (s.dev.yard y).resetting = false →
    Completes (.stopInterfaceRequest y) s (fun d => (d.yard y).tdi = 0 ∧ d.out = s.dev.out ++ [.tdisp y 0x07 ([])] ∧
      d.regs = s.dev.regs ∧ d.mem = s.dev.mem)) ∧
  (∀ (s : State) (y : Nat),
    sound s.dev = true → s.dev.ctl.hostUp = true → s.dev.ctl.tripped = false → s.dev.present y = true →
    s.dev.sec.busy = false → (s.dev.yard y).resetting = false → (s.dev.yard y).tdi ≠ 0 →
    Completes (.lockInterfaceRequest y) s (fun d => d.out = s.dev.out ++ [.tdisp y 0x7F (leBytes 4 0x0104)] ∧
      d.yards = s.dev.yards ∧ d.regs = s.dev.regs ∧ d.mem = s.dev.mem)) ∧
  (∀ (s : State) (y : Nat),
    sound s.dev = true → s.dev.ctl.hostUp = true → s.dev.ctl.tripped = false → s.dev.present y = true →
    s.dev.sec.busy = false → (s.dev.yard y).resetting = false →
    (¬((s.dev.yard y).tdi = 1 ∨ (s.dev.yard y).tdi = 2)) →
    Completes (.getDeviceInterfaceReport y) s (fun d => d.out = s.dev.out ++ [.tdisp y 0x7F (leBytes 4 0x0104)] ∧
      d.yards = s.dev.yards ∧ d.regs = s.dev.regs ∧ d.mem = s.dev.mem)) ∧
  (∀ (s : State) (y : Nat),
    sound s.dev = true → s.dev.ctl.hostUp = true → s.dev.ctl.tripped = false → s.dev.present y = true →
    s.dev.sec.busy = false → (s.dev.yard y).resetting = false → (s.dev.yard y).tdi ≠ 1 →
    Completes (.startInterfaceRequest y) s (fun d => d.out = s.dev.out ++ [.tdisp y 0x7F (leBytes 4 0x0104)] ∧
      d.yards = s.dev.yards ∧ d.regs = s.dev.regs ∧ d.mem = s.dev.mem)) ∧
  (∀ (s : State) (id n : Nat) (key : List Byte),
    sound s.dev = true → servesIn s.dev .pfDoe id = true → n < 5 →
    Completes (.ideKm id n key) s (fun d => d.sec.ideKeys = (n, key) :: s.dev.sec.ideKeys.filter (fun e => e.1 != n) ∧
      d.regs = s.dev.regs ∧ d.mem = s.dev.mem))

/-- Key sets, operator slots, the life cycle and firmware commands act as R417 to R419, R429, R444, R445 state (R417,
  R419, R429, R444, R445). -/
def Obligations.KeysLifeCycleFirmware : Prop :=
  (∀ (s : State) (tr : Transport) (id y ks : Nat) (jms mig : List Byte),
    sound s.dev = true → servesIn s.dev tr id = true → s.dev.setKeysStatus tr y = 0 →
    Completes (.setKeys tr id y ks jms mig) s (fun d =>
      (d.yard y).keys = some { id := leBytes 8 ks, jms := jms, mig := mig } ∧
      d.fld ((R.YRD_KEY_STATE y).sub 0 1) = 1 ∧ d.mem = s.dev.mem)) ∧
  (∀ (s : State) (tr : Transport) (install : Bool) (slot : Nat) (rk hk : List Byte) (a : Auth),
    sound s.dev = true → serves s.dev tr 3 = true → (tr = .pfDoe ∨ tr = .mctp) →
    s.dev.operatorStatus install slot rk hk a = 0 → s.dev.sec.opKeys.length = 4 →
    Completes (.operatorKey tr install slot rk hk a) s (fun d =>
      d.sec.opKeys.getD slot none = (if install then some (rk, hk) else none) ∧
      d.sec.keyCount = s.dev.sec.keyCount + 1 ∧ bit (d.fld R.SEC_OPKEY_SLOTS) slot = install ∧ d.mem = s.dev.mem)) ∧
  (∀ (s : State) (tr : Transport) (target : Nat) (a : Auth),
    sound s.dev = true → serves s.dev tr 3 = true → (tr = .pfDoe ∨ tr = .mctp) →
    Completes (.setLifecycle tr target a) s (fun d =>
      (if s.dev.lifeStatus target a = 0 then d.fld R.SEC_STATUS_LIFECYCLE = target ∧
      d.sec.transCount = s.dev.sec.transCount + 1 ∧ d.sec.busy = true ∧ d.fld R.SEC_STATUS_SP_READY = 0 ∧
      d.sec.ideKeys = [] else d.regs = s.dev.regs ∧ d.yards = s.dev.yards) ∧
      d.mem = s.dev.mem)) ∧
  (∀ (s : State),
    sound s.dev = true → s.dev.pfOk = true → s.dev.sec.busy = false → s.dev.fld R.SEC_FW_STATUS_STATE ∈ [0, 3, 4] →
    Completes .stage s (fun d => d.fld R.SEC_FW_STATUS_STATE = 1 ∧ d.fld R.SEC_FW_STATUS_REASON = 0 ∧
      d.out = s.dev.out ++ [.hostRead 0 (s.dev.fld R.SEC_FW_ADDR) (s.dev.fld R.SEC_FW_LEN)] ∧ d.sec = s.dev.sec ∧
      d.mem = s.dev.mem)) ∧
  (∀ (s : State) (core : Bool) (data : Option (List Byte)),
    sound s.dev = true → (s.dev.fld R.SEC_FW_STATUS_STATE = 1 ∨ s.dev.fld R.SEC_FW_STATUS_STATE = 2) →
    Completes (.fwStageDone core data) s (fun d => d.fld R.SEC_FW_STATUS_REASON = s.dev.fwReason data ∧
      d.fld R.SEC_FW_STATUS_STATE = (if s.dev.fwReason data = 0 then 3 else 4) ∧
      (s.dev.fwReason data ≠ 0 → d.sec = s.dev.sec) ∧ d.mem = s.dev.mem)) ∧
  (∀ (s : State),
    sound s.dev = true → s.dev.pfOk = true → s.dev.fld R.SEC_FW_STATUS_STATE = 3 → s.dev.sec.spStaged.isSome = true →
    s.dev.sec.busy = false → (List.range 12).any (fun b => s.dev.bayState b == 2) = false →
    Completes .activate s (fun d => d.fld R.SEC_FW_STATUS_STATE = 5 ∧ d.sec.busy = true ∧ d.sec.sessions = [] ∧
      d.fld R.SEC_STATUS_SP_READY = 0 ∧ d.yards = s.dev.yards ∧ d.mem = s.dev.mem)) ∧
  (∀ (s : State),
    sound s.dev = true → s.dev.pfOk = true → s.dev.sec.busy = false → s.dev.fld R.SEC_FW_STATUS_STATE ∈ [0, 3, 4] →
    Completes .fwDiscard s (fun d => (d.sec.spStaged, d.sec.ccStaged) = (none, none) ∧
      (d.fld R.SEC_FW_STATUS_STATE, d.fld R.SEC_FW_STATUS_REASON, d.fld R.SEC_STATUS_FW_PENDING) = (0, 0, 0) ∧
      d.yards = s.dev.yards ∧ d.mem = s.dev.mem)) ∧
  (∀ (s : State) (ok : Bool),
    sound s.dev = true → s.dev.sec.busy = true → s.dev.ctl.tripped = false →
    Completes (.securityProcessorRestarted ok) s (fun d => d.sec.busy = false ∧ d.fld R.SEC_STATUS_SP_READY = 1 ∧
      (s.dev.fld R.SEC_FW_STATUS_STATE = 5 → d.sec.spStaged = none ∧
        d.sec.spFw = (if ok then s.dev.sec.spStaged.getD s.dev.sec.spFw else s.dev.sec.spFw)) ∧
      d.yards = s.dev.yards ∧ d.mem = s.dev.mem))

/-- Debug requests are granted as R420 gives, end as R421 gives, and JTAG answers as R503 gives (R420, R421, R503). -/
def Obligations.DebugAndJtag : Prop :=
  (∀ (s : State) (target : Nat),
    sound s.dev = true → s.dev.ctl.tripped = false → (target < 12 ∨ target = 0xFF) →
    !(s.dev.fld R.CRP_PSTATE_STATUS_STATE == 2 && bit s.dev.parked (min target 12)) = true →
    debugOutcome (s.dev.fld R.SEC_STATUS_LIFECYCLE) (s.dev.targetConf (min target 12)) false (s.dev.fld R.CRP_PSTATE_STATUS_STATE == 3) = 1 →
    Completes (.trace target) s (fun d => d.fld (R.SEC_DEBUG_STATUS.sub 0 2) = 1 ∧
      d.sec.grants = s.dev.sec.grants + 1 ∧ d.sec.traceOn = Nat.lor s.dev.sec.traceOn (2 ^ min target 12) ∧
      d.sec.haltOn = s.dev.sec.haltOn ∧ d.yards = s.dev.yards ∧ d.mem = s.dev.mem)) ∧
  (∀ (s : State) (target : Nat),
    sound s.dev = true → s.dev.ctl.tripped = false → (target < 12 ∨ target = 0xFF) →
    !(s.dev.fld R.CRP_PSTATE_STATUS_STATE == 2 && bit s.dev.parked (min target 12)) = true →
    debugOutcome (s.dev.fld R.SEC_STATUS_LIFECYCLE) (s.dev.targetConf (min target 12)) true (s.dev.fld R.CRP_PSTATE_STATUS_STATE == 3) = 1 →
    Completes (.halt target) s (fun d => d.fld (R.SEC_DEBUG_STATUS.sub 0 2) = 1 ∧
      d.sec.grants = s.dev.sec.grants + 1 ∧ d.sec.haltOn = Nat.lor s.dev.sec.haltOn (2 ^ min target 12) ∧
      d.sec.traceOn = s.dev.sec.traceOn ∧ d.yards = s.dev.yards ∧ d.mem = s.dev.mem)) ∧
  (∀ (s : State) (target : Nat),
    sound s.dev = true → s.dev.ctl.tripped = false → (target < 12 ∨ target = 0xFF) →
    !(s.dev.fld R.CRP_PSTATE_STATUS_STATE == 2 && bit s.dev.parked (min target 12)) = true →
    debugOutcome (s.dev.fld R.SEC_STATUS_LIFECYCLE) (s.dev.targetConf (min target 12)) false (s.dev.fld R.CRP_PSTATE_STATUS_STATE == 3) = 2 →
    Completes (.trace target) s (fun d => d.fld (R.SEC_DEBUG_STATUS.sub 0 2) = 2 ∧ d.ctl.jtagRefused = true ∧
      d.sec = s.dev.sec ∧ d.yards = s.dev.yards ∧ d.mem = s.dev.mem)) ∧
  (∀ (s : State) (target : Nat),
    sound s.dev = true → s.dev.ctl.tripped = false → (target < 12 ∨ target = 0xFF) →
    !(s.dev.fld R.CRP_PSTATE_STATUS_STATE == 2 && bit s.dev.parked (min target 12)) = true →
    debugOutcome (s.dev.fld R.SEC_STATUS_LIFECYCLE) (s.dev.targetConf (min target 12)) true (s.dev.fld R.CRP_PSTATE_STATUS_STATE == 3) = 2 →
    Completes (.halt target) s (fun d => d.fld (R.SEC_DEBUG_STATUS.sub 0 2) = 2 ∧ d.ctl.jtagRefused = true ∧
      d.sec = s.dev.sec ∧ d.yards = s.dev.yards ∧ d.mem = s.dev.mem)) ∧
  (∀ (s : State) (v : Nat),
    sound s.dev = true → s.dev.pfOk = true → bit v 0 = true →
    Completes (.secDebugEnd v) s (fun d => (d.sec.traceOn, d.sec.haltOn) = (0, 0) ∧
      d.fld (R.SEC_DEBUG_STATUS.sub 16 13) = 0 ∧ d.yards = s.dev.yards ∧ d.mem = s.dev.mem)) ∧
  (∀ (s : State),
    sound s.dev = true → s.dev.ctl.tripped = false →
    (s.dev.fld R.SEC_STATUS_LIFECYCLE = 0 ∨ s.dev.fld R.SEC_STATUS_LIFECYCLE = 4) →
    Completes .scan s (fun d => d.sec.scanOn = true ∧ d.sec.grants = s.dev.sec.grants + 1 ∧ d.sec.ideKeys = [] ∧
      d.fld (R.SEC_DEBUG_STATUS.sub 0 2) = 1)) ∧
  (∀ (s : State),
    sound s.dev = true →
    Completes .idcode s (fun d => d.out = s.dev.out ++ [.tdo "IDCODE" 0x100485CF] ∧ d.regs = s.dev.regs ∧
      d.mem = s.dev.mem)) ∧
  (∀ (s : State),
    sound s.dev = true →
    Completes .bypass s (fun d => d.out = s.dev.out ++ [.tdo "BYPASS" 0] ∧ d.regs = s.dev.regs ∧ d.mem = s.dev.mem)) ∧
  (∀ (s : State),
    sound s.dev = true → s.dev.yardList.any (fun y => s.dev.fnState y == 2) = false →
    Completes .samplePreload s (fun d => d.out = s.dev.out ++ [.tdo "SAMPLE/PRELOAD" 0] ∧ d.ctl.jtagRefused = false ∧
      d.regs = s.dev.regs ∧ d.yards = s.dev.yards ∧ d.mem = s.dev.mem)) ∧
  (∀ (s : State),
    sound s.dev = true → s.dev.yardList.any (fun y => s.dev.fnState y == 2) = false →
    Completes .extest s (fun d => d.out = s.dev.out ++ [.tdo "EXTEST" 0] ∧ d.ctl.jtagRefused = false ∧
      d.regs = s.dev.regs ∧ d.yards = s.dev.yards ∧ d.mem = s.dev.mem)) ∧
  (∀ (s : State),
    sound s.dev = true → s.dev.yardList.any (fun y => s.dev.fnState y == 2) = false →
    Completes .extestPulse s (fun d => d.out = s.dev.out ++ [.tdo "EXTEST_PULSE" 0] ∧ d.ctl.jtagRefused = false ∧
      d.regs = s.dev.regs ∧ d.yards = s.dev.yards ∧ d.mem = s.dev.mem)) ∧
  (∀ (s : State),
    sound s.dev = true → s.dev.yardList.any (fun y => s.dev.fnState y == 2) = false →
    Completes .extestTrain s (fun d => d.out = s.dev.out ++ [.tdo "EXTEST_TRAIN" 0] ∧ d.ctl.jtagRefused = false ∧
      d.regs = s.dev.regs ∧ d.yards = s.dev.yards ∧ d.mem = s.dev.mem)) ∧
  (∀ (s : State),
    sound s.dev = true → s.dev.yardList.any (fun y => s.dev.fnState y == 2) = true →
    Completes .extest s (fun d => d.out = s.dev.out ∧ d.ctl.jtagRefused = true ∧ d.regs = s.dev.regs ∧
      d.mem = s.dev.mem))

/-- The seal service, tamper and the cold reset (R414, R438 to R440, R476, R505). -/
def Obligations.SealAndReset : Prop :=
  (∀ (s : State) (y key : Nat) (host : HostSide) (len p g o : Nat),
    sound s.dev = true → s.dev.yfOk y = true → (s.dev.yard y).fatal = false →
    bit (s.dev.fld (R.YRD_SEAL_STATUS y)) 0 = false → s.dev.frozen y = false →
    bits (s.dev.fld (R.YRD_SEAL_LEN y)) 0 36 = len → 0 < len → len ≤ 2 ^ 36 - 32 →
    s.dev.sealLoc y false = .seg p g o → s.dev.mem.uc = [] →
    (0 :: s.dev.farPorts).all (fun q => s.dev.on (R.MEM_FAR_PORT_LINK_UP q)) = true → s.dev.keyed y = true →
    s.dev.locOk y (s.dev.sealLoc y false) len = true → s.dev.locOk y (s.dev.sealLoc y true) (len + 48) = true →
    (s.dev.yard y).setSnap = none →
    Completes (.sealObject y key host) s (fun d => (d.yard y).sealJob.map (fun j => (j.result, j.outLen)) = some (0,
      len + 48) ∧
      bit (d.fld (R.YRD_SEAL_STATUS y)) 0 = true ∧ d.mem = s.dev.mem)) ∧
  (∀ (s : State) (y key : Nat) (host : HostSide) (len p va : Nat),
    sound s.dev = true → s.dev.yfOk y = true → (s.dev.yard y).fatal = false →
    bit (s.dev.fld (R.YRD_SEAL_STATUS y)) 0 = false → s.dev.frozen y = false →
    bits (s.dev.fld (R.YRD_SEAL_LEN y)) 0 36 = len → 0 < len → len ≤ 2 ^ 36 - 32 →
    s.dev.sealLoc y false = .host p va → host.xl = .hit → s.dev.canMaster y = true → (s.dev.yard y).inval = [] →
    host.bad = false → s.dev.keyed y = true → s.dev.locOk y (s.dev.sealLoc y false) len = true →
    s.dev.locOk y (s.dev.sealLoc y true) (len + 48) = true → (s.dev.yard y).setSnap = none →
    Completes (.sealObject y key host) s (fun d => (d.yard y).sealJob.map (fun j => (j.result, j.outLen)) = some (0,
      len + 48) ∧
      bit (d.fld (R.YRD_SEAL_STATUS y)) 0 = true ∧ d.mem = s.dev.mem)) ∧
  (∀ (s : State) (y key : Nat) (host : HostSide) (len p g o : Nat) (k : KeySet),
    sound s.dev = true → s.dev.yfOk y = true → (s.dev.yard y).fatal = false →
    bit (s.dev.fld (R.YRD_SEAL_STATUS y)) 0 = false → s.dev.frozen y = false →
    bits (s.dev.fld (R.YRD_SEAL_LEN y)) 0 36 = len → 0 < len → len ≤ 2 ^ 36 - 32 →
    s.dev.sealLoc y false = .seg p g o → s.dev.mem.uc = [] →
    (0 :: s.dev.farPorts).all (fun q => s.dev.on (R.MEM_FAR_PORT_LINK_UP q)) = true → (s.dev.yard y).keys = some k →
    s.dev.locOk y (s.dev.sealLoc y false) (len + 48) = true → s.dev.locOk y (s.dev.sealLoc y true) len = true →
    (s.dev.yard y).setSnap = none →
    Completes (.unseal y key host) s (fun d => (let bs := match s.dev.segAt y p g o (len + 48) with | some (t, a) => s.dev.mem.read (s.dev.addr y t a) (len + 48) | none => []; (d.yard y).sealJob = some (if le bs 0 4 = 0x4C535647 ∧ le bs 0x18 8 ≠ len then { result := cLocalLength, outLen := 0, bytes := [] } else match openObject k key bs with | none => { result := cAuthFailed, outLen := 0, bytes := [] } | some plain => { result := 0, outLen := plain.length, bytes := plain })) ∧
      bit (d.fld (R.YRD_SEAL_STATUS y)) 0 = true ∧ d.mem = s.dev.mem)) ∧
  (∀ (s : State) (y key : Nat) (host : HostSide) (len p va : Nat) (k : KeySet),
    sound s.dev = true → s.dev.yfOk y = true → (s.dev.yard y).fatal = false →
    bit (s.dev.fld (R.YRD_SEAL_STATUS y)) 0 = false → s.dev.frozen y = false →
    bits (s.dev.fld (R.YRD_SEAL_LEN y)) 0 36 = len → 0 < len → len ≤ 2 ^ 36 - 32 →
    s.dev.sealLoc y false = .host p va → host.xl = .hit → s.dev.canMaster y = true → (s.dev.yard y).inval = [] →
    host.bad = false → (s.dev.yard y).keys = some k → s.dev.locOk y (s.dev.sealLoc y false) (len + 48) = true →
    s.dev.locOk y (s.dev.sealLoc y true) len = true → (s.dev.yard y).setSnap = none →
    Completes (.unseal y key host) s (fun d => (let bs := (host.data ++ zeros (len + 48 - host.data.length)).take (len + 48); (d.yard y).sealJob = some (if le bs 0 4 = 0x4C535647 ∧ le bs 0x18 8 ≠ len then { result := cLocalLength, outLen := 0, bytes := [] } else match openObject k key bs with | none => { result := cAuthFailed, outLen := 0, bytes := [] } | some plain => { result := 0, outLen := plain.length, bytes := plain })) ∧
      bit (d.fld (R.YRD_SEAL_STATUS y)) 0 = true ∧ d.mem = s.dev.mem)) ∧
  (∀ (s : State) (y : Nat) (j : SealJob),
    sound s.dev = true → s.dev.yfOk y = true → (s.dev.yard y).sealWait = none → (s.dev.yard y).sealJob = some j →
    j.result ≠ 0 → j.result < 256 →
    Completes (.sealDone y) s (fun d => (d.yard y).sealJob = none ∧
      d.fld ((R.YRD_SEAL_STATUS y).sub 8 8) = j.result ∧ d.fld ((R.YRD_SEAL_STATUS y).sub 0 2) = 2 ∧
      d.fld (R.YRD_SEAL_OUT_LEN y) = 0 ∧ d.mem = s.dev.mem)) ∧
  (∀ (s : State) (y : Nat) (j : SealJob) (p g o t a : Nat),
    sound s.dev = true → s.dev.yfOk y = true → (s.dev.yard y).sealWait = none → (s.dev.yard y).sealJob = some j →
    j.result = 0 → j.outLen < 2 ^ 64 → s.dev.sealLoc y true = .seg p g o →
    s.dev.segAt y p g o j.bytes.length = some (t, a) → s.dev.mem.uc = [] →
    (0 :: s.dev.farPorts).all (fun q => s.dev.on (R.MEM_FAR_PORT_LINK_UP q)) = true → unbanked s.dev y = true →
    Completes (.sealDone y) s (fun d => (∀ b, (b < s.dev.addr y t a ∨ s.dev.addr y t a + j.bytes.length ≤ b) →
      d.mem.byte b = s.dev.mem.byte b) ∧
      (d.yard y).sealJob = none ∧ d.fld ((R.YRD_SEAL_STATUS y).sub 8 8) = 0 ∧
      d.fld ((R.YRD_SEAL_STATUS y).sub 0 2) = 2 ∧ d.fld (R.YRD_SEAL_OUT_LEN y) = j.outLen ∧
      d.mem.read (s.dev.addr y t a) j.bytes.length = j.bytes)) ∧
  (∀ (s : State) (y : Nat) (j : SealJob) (p va : Nat),
    sound s.dev = true → s.dev.yfOk y = true → (s.dev.yard y).sealWait = none → (s.dev.yard y).sealJob = some j →
    j.result = 0 → j.outLen < 2 ^ 64 → s.dev.sealLoc y true = .host p va → s.dev.canMaster y = true →
    (s.dev.yard y).inval = [] →
    Completes (.sealDone y) s (fun d => (j.bytes = [] ∨
      (newOut s.dev d).contains (.hostVWrite (y + 1) p va j.bytes (bit (s.dev.fld (R.YRD_HOST_CTRL y)) 0)) = true) ∧
      (d.yard y).sealJob = none ∧ d.fld ((R.YRD_SEAL_STATUS y).sub 8 8) = 0 ∧
      d.fld ((R.YRD_SEAL_STATUS y).sub 0 2) = 2 ∧ d.fld (R.YRD_SEAL_OUT_LEN y) = j.outLen ∧ d.mem = s.dev.mem)) ∧
  (∀ (s : State) (y : Nat),
    sound s.dev = true → s.dev.ctl.tripped = false → s.dev.isYard y = true →
    Completes .tamper s (fun d => (d.fld R.SEC_STATUS_TAMPER, d.fld R.SEC_STATUS_TAMPER_NOW) = (1, 1) ∧
      d.fld R.SEC_TAMPER_COUNT = (s.dev.fld R.SEC_TAMPER_COUNT + 1) % 2 ^ 32 ∧ (d.yard y).keys = none ∧
      (d.yard y).xts = none ∧ d.sec.idKeys = false ∧ d.sec.ideKeys = [])) ∧
  (∀ (s : State),
    sound s.dev = true →
    Completes .tamperNHigh s (fun d => d.fld R.SEC_STATUS_TAMPER_NOW = 0 ∧
      d.fld R.SEC_STATUS_TAMPER = s.dev.fld R.SEC_STATUS_TAMPER ∧ d.yards = s.dev.yards ∧ d.sec = s.dev.sec ∧
      d.mem = s.dev.mem)) ∧
  (∀ (s : State) (addr : Nat),
    sound s.dev = true →
    Completes (.coldReset addr false) s (fun d => d.yards = [] ∧ d.conns = [] ∧
      d.mem = { cells := [], opened := [], veils := [], uc := [] } ∧ d.lay = Lay.reset ∧
      d.fld R.SEC_STATUS_LIFECYCLE = s.dev.fld R.SEC_STATUS_LIFECYCLE ∧
      d.fld R.SEC_TAMPER_COUNT = s.dev.fld R.SEC_TAMPER_COUNT ∧ d.fld (R.CRP_STATUS.sub 0 1) = 1 ∧
      d.sec.opKeys = s.dev.sec.opKeys ∧ d.ctl.straps = addr)) ∧
  (∀ (s : State) (addr : Nat),
    sound s.dev = true →
    Completes (.coldReset addr true) s (fun d => d.yards = [] ∧ d.conns = [] ∧
      d.mem = { cells := [], opened := [], veils := [], uc := [] } ∧ d.lay = Lay.reset ∧
      d.fld R.SEC_STATUS_LIFECYCLE = s.dev.fld R.SEC_STATUS_LIFECYCLE ∧ d.fld (R.CRP_STATUS.sub 0 1) = 1 ∧
      d.sec.opKeys = s.dev.sec.opKeys ∧ d.fld R.SEC_TAMPER_COUNT = (s.dev.fld R.SEC_TAMPER_COUNT + 1) % 2 ^ 32 ∧
      (d.fld R.SEC_STATUS_TAMPER, d.fld R.SEC_STATUS_TAMPER_NOW) = (1, 1) ∧ d.ctl.straps = addr)) ∧
  (∀ (s : State),
    sound s.dev = true → s.dev.ctl.tripped = false → s.dev.fld R.SEC_STATUS_TAMPER_NOW = 0 →
    Completes .railFault s (fun d => d.yards = [] ∧ d.conns = [] ∧
      d.mem = { cells := [], opened := [], veils := [], uc := [] } ∧ d.lay = Lay.reset ∧
      d.fld R.SEC_STATUS_LIFECYCLE = s.dev.fld R.SEC_STATUS_LIFECYCLE ∧
      d.fld R.SEC_TAMPER_COUNT = s.dev.fld R.SEC_TAMPER_COUNT ∧ d.fld (R.CRP_STATUS.sub 0 1) = 1 ∧
      d.sec.opKeys = s.dev.sec.opKeys ∧ d.ctl.straps = s.dev.ctl.straps))
end

