-- ==== Sys2Proof/Laws/State.lean ====
section
/-! SUPPORT. What each primitive update does to each field of the device. -/

namespace Sys2Proof.Machine

variable (d : Dev)

@[simp] theorem regs_reg (k v : Nat) : (applyAct d (.reg k v)).regs = Tab.setNum d.regs k (v % 2 ^ 128) := rfl
@[simp] theorem latch_reg (k v : Nat) : (applyAct d (.reg k v)).latch = d.latch := rfl
@[simp] theorem mem_reg (k v : Nat) : (applyAct d (.reg k v)).mem = d.mem := rfl
@[simp] theorem out_reg (k v : Nat) : (applyAct d (.reg k v)).out = d.out := rfl
@[simp] theorem freeIx_reg (k v : Nat) : (applyAct d (.reg k v)).freeIx = d.freeIx := rfl
@[simp] theorem lay_reg (k v : Nat) : (applyAct d (.reg k v)).lay = d.lay := rfl
@[simp] theorem yards_reg (k v : Nat) : (applyAct d (.reg k v)).yards = d.yards := rfl
@[simp] theorem pans_reg (k v : Nat) : (applyAct d (.reg k v)).pans = d.pans := rfl
@[simp] theorem comms_reg (k v : Nat) : (applyAct d (.reg k v)).comms = d.comms := rfl
@[simp] theorem conns_reg (k v : Nat) : (applyAct d (.reg k v)).conns = d.conns := rfl
@[simp] theorem rings_reg (k v : Nat) : (applyAct d (.reg k v)).rings = d.rings := rfl
@[simp] theorem lists_reg (k v : Nat) : (applyAct d (.reg k v)).lists = d.lists := rfl
@[simp] theorem ctxs_reg (k v : Nat) : (applyAct d (.reg k v)).ctxs = d.ctxs := rfl
@[simp] theorem wins_reg (k v : Nat) : (applyAct d (.reg k v)).wins = d.wins := rfl
@[simp] theorem lcqs_reg (k v : Nat) : (applyAct d (.reg k v)).lcqs = d.lcqs := rfl
@[simp] theorem fab_reg (k v : Nat) : (applyAct d (.reg k v)).fab = d.fab := rfl
@[simp] theorem eth_reg (k v : Nat) : (applyAct d (.reg k v)).eth = d.eth := rfl
@[simp] theorem sec_reg (k v : Nat) : (applyAct d (.reg k v)).sec = d.sec := rfl
@[simp] theorem ctl_reg (k v : Nat) : (applyAct d (.reg k v)).ctl = d.ctl := rfl

@[simp] theorem regs_latch (k v : Nat) : (applyAct d (.latch k v)).regs = d.regs := rfl
@[simp] theorem latch_latch (k v : Nat) : (applyAct d (.latch k v)).latch = Tab.setNum d.latch k v := rfl
@[simp] theorem mem_latch (k v : Nat) : (applyAct d (.latch k v)).mem = d.mem := rfl
@[simp] theorem out_latch (k v : Nat) : (applyAct d (.latch k v)).out = d.out := rfl
@[simp] theorem freeIx_latch (k v : Nat) : (applyAct d (.latch k v)).freeIx = d.freeIx := rfl
@[simp] theorem lay_latch (k v : Nat) : (applyAct d (.latch k v)).lay = d.lay := rfl
@[simp] theorem yards_latch (k v : Nat) : (applyAct d (.latch k v)).yards = d.yards := rfl
@[simp] theorem pans_latch (k v : Nat) : (applyAct d (.latch k v)).pans = d.pans := rfl
@[simp] theorem comms_latch (k v : Nat) : (applyAct d (.latch k v)).comms = d.comms := rfl
@[simp] theorem conns_latch (k v : Nat) : (applyAct d (.latch k v)).conns = d.conns := rfl
@[simp] theorem rings_latch (k v : Nat) : (applyAct d (.latch k v)).rings = d.rings := rfl
@[simp] theorem lists_latch (k v : Nat) : (applyAct d (.latch k v)).lists = d.lists := rfl
@[simp] theorem ctxs_latch (k v : Nat) : (applyAct d (.latch k v)).ctxs = d.ctxs := rfl
@[simp] theorem wins_latch (k v : Nat) : (applyAct d (.latch k v)).wins = d.wins := rfl
@[simp] theorem lcqs_latch (k v : Nat) : (applyAct d (.latch k v)).lcqs = d.lcqs := rfl
@[simp] theorem fab_latch (k v : Nat) : (applyAct d (.latch k v)).fab = d.fab := rfl
@[simp] theorem eth_latch (k v : Nat) : (applyAct d (.latch k v)).eth = d.eth := rfl
@[simp] theorem sec_latch (k v : Nat) : (applyAct d (.latch k v)).sec = d.sec := rfl
@[simp] theorem ctl_latch (k v : Nat) : (applyAct d (.latch k v)).ctl = d.ctl := rfl

@[simp] theorem regs_dropRegs (lo hi : Nat) :
    (applyAct d (.dropRegs lo hi)).regs = Tab.keep d.regs (fun k _ => !(decide (lo ≤ k) && decide (k < hi))) := rfl
@[simp] theorem latch_dropRegs (lo hi : Nat) :
    (applyAct d (.dropRegs lo hi)).latch = Tab.keep d.latch (fun k _ => !(decide (lo ≤ k) && decide (k < hi))) := rfl
@[simp] theorem mem_dropRegs (lo hi : Nat) : (applyAct d (.dropRegs lo hi)).mem = d.mem := rfl
@[simp] theorem out_dropRegs (lo hi : Nat) : (applyAct d (.dropRegs lo hi)).out = d.out := rfl
@[simp] theorem freeIx_dropRegs (lo hi : Nat) : (applyAct d (.dropRegs lo hi)).freeIx = d.freeIx := rfl
@[simp] theorem lay_dropRegs (lo hi : Nat) : (applyAct d (.dropRegs lo hi)).lay = d.lay := rfl
@[simp] theorem yards_dropRegs (lo hi : Nat) : (applyAct d (.dropRegs lo hi)).yards = d.yards := rfl
@[simp] theorem pans_dropRegs (lo hi : Nat) : (applyAct d (.dropRegs lo hi)).pans = d.pans := rfl
@[simp] theorem comms_dropRegs (lo hi : Nat) : (applyAct d (.dropRegs lo hi)).comms = d.comms := rfl
@[simp] theorem conns_dropRegs (lo hi : Nat) : (applyAct d (.dropRegs lo hi)).conns = d.conns := rfl
@[simp] theorem rings_dropRegs (lo hi : Nat) : (applyAct d (.dropRegs lo hi)).rings = d.rings := rfl
@[simp] theorem lists_dropRegs (lo hi : Nat) : (applyAct d (.dropRegs lo hi)).lists = d.lists := rfl
@[simp] theorem ctxs_dropRegs (lo hi : Nat) : (applyAct d (.dropRegs lo hi)).ctxs = d.ctxs := rfl
@[simp] theorem wins_dropRegs (lo hi : Nat) : (applyAct d (.dropRegs lo hi)).wins = d.wins := rfl
@[simp] theorem lcqs_dropRegs (lo hi : Nat) : (applyAct d (.dropRegs lo hi)).lcqs = d.lcqs := rfl
@[simp] theorem fab_dropRegs (lo hi : Nat) : (applyAct d (.dropRegs lo hi)).fab = d.fab := rfl
@[simp] theorem eth_dropRegs (lo hi : Nat) : (applyAct d (.dropRegs lo hi)).eth = d.eth := rfl
@[simp] theorem sec_dropRegs (lo hi : Nat) : (applyAct d (.dropRegs lo hi)).sec = d.sec := rfl
@[simp] theorem ctl_dropRegs (lo hi : Nat) : (applyAct d (.dropRegs lo hi)).ctl = d.ctl := rfl

@[simp] theorem regs_poke (a : Nat) (bs : List Byte) : (applyAct d (.poke a bs)).regs = d.regs := rfl
@[simp] theorem latch_poke (a : Nat) (bs : List Byte) : (applyAct d (.poke a bs)).latch = d.latch := rfl
@[simp] theorem mem_poke (a : Nat) (bs : List Byte) : (applyAct d (.poke a bs)).mem = d.mem.write a bs := rfl
@[simp] theorem out_poke (a : Nat) (bs : List Byte) : (applyAct d (.poke a bs)).out = d.out := rfl
@[simp] theorem freeIx_poke (a : Nat) (bs : List Byte) : (applyAct d (.poke a bs)).freeIx = d.freeIx := rfl
@[simp] theorem lay_poke (a : Nat) (bs : List Byte) : (applyAct d (.poke a bs)).lay = d.lay := rfl
@[simp] theorem yards_poke (a : Nat) (bs : List Byte) : (applyAct d (.poke a bs)).yards = d.yards := rfl
@[simp] theorem pans_poke (a : Nat) (bs : List Byte) : (applyAct d (.poke a bs)).pans = d.pans := rfl
@[simp] theorem comms_poke (a : Nat) (bs : List Byte) : (applyAct d (.poke a bs)).comms = d.comms := rfl
@[simp] theorem conns_poke (a : Nat) (bs : List Byte) : (applyAct d (.poke a bs)).conns = d.conns := rfl
@[simp] theorem rings_poke (a : Nat) (bs : List Byte) : (applyAct d (.poke a bs)).rings = d.rings := rfl
@[simp] theorem lists_poke (a : Nat) (bs : List Byte) : (applyAct d (.poke a bs)).lists = d.lists := rfl
@[simp] theorem ctxs_poke (a : Nat) (bs : List Byte) : (applyAct d (.poke a bs)).ctxs = d.ctxs := rfl
@[simp] theorem wins_poke (a : Nat) (bs : List Byte) : (applyAct d (.poke a bs)).wins = d.wins := rfl
@[simp] theorem lcqs_poke (a : Nat) (bs : List Byte) : (applyAct d (.poke a bs)).lcqs = d.lcqs := rfl
@[simp] theorem fab_poke (a : Nat) (bs : List Byte) : (applyAct d (.poke a bs)).fab = d.fab := rfl
@[simp] theorem eth_poke (a : Nat) (bs : List Byte) : (applyAct d (.poke a bs)).eth = d.eth := rfl
@[simp] theorem sec_poke (a : Nat) (bs : List Byte) : (applyAct d (.poke a bs)).sec = d.sec := rfl
@[simp] theorem ctl_poke (a : Nat) (bs : List Byte) : (applyAct d (.poke a bs)).ctl = d.ctl := rfl

@[simp] theorem regs_under (a : Nat) (bs : List Byte) : (applyAct d (.under a bs)).regs = d.regs := rfl
@[simp] theorem latch_under (a : Nat) (bs : List Byte) : (applyAct d (.under a bs)).latch = d.latch := rfl
@[simp] theorem mem_under (a : Nat) (bs : List Byte) : (applyAct d (.under a bs)).mem = d.mem.under a bs := rfl
@[simp] theorem out_under (a : Nat) (bs : List Byte) : (applyAct d (.under a bs)).out = d.out := rfl
@[simp] theorem freeIx_under (a : Nat) (bs : List Byte) : (applyAct d (.under a bs)).freeIx = d.freeIx := rfl
@[simp] theorem lay_under (a : Nat) (bs : List Byte) : (applyAct d (.under a bs)).lay = d.lay := rfl
@[simp] theorem yards_under (a : Nat) (bs : List Byte) : (applyAct d (.under a bs)).yards = d.yards := rfl
@[simp] theorem pans_under (a : Nat) (bs : List Byte) : (applyAct d (.under a bs)).pans = d.pans := rfl
@[simp] theorem comms_under (a : Nat) (bs : List Byte) : (applyAct d (.under a bs)).comms = d.comms := rfl
@[simp] theorem conns_under (a : Nat) (bs : List Byte) : (applyAct d (.under a bs)).conns = d.conns := rfl
@[simp] theorem rings_under (a : Nat) (bs : List Byte) : (applyAct d (.under a bs)).rings = d.rings := rfl
@[simp] theorem lists_under (a : Nat) (bs : List Byte) : (applyAct d (.under a bs)).lists = d.lists := rfl
@[simp] theorem ctxs_under (a : Nat) (bs : List Byte) : (applyAct d (.under a bs)).ctxs = d.ctxs := rfl
@[simp] theorem wins_under (a : Nat) (bs : List Byte) : (applyAct d (.under a bs)).wins = d.wins := rfl
@[simp] theorem lcqs_under (a : Nat) (bs : List Byte) : (applyAct d (.under a bs)).lcqs = d.lcqs := rfl
@[simp] theorem fab_under (a : Nat) (bs : List Byte) : (applyAct d (.under a bs)).fab = d.fab := rfl
@[simp] theorem eth_under (a : Nat) (bs : List Byte) : (applyAct d (.under a bs)).eth = d.eth := rfl
@[simp] theorem sec_under (a : Nat) (bs : List Byte) : (applyAct d (.under a bs)).sec = d.sec := rfl
@[simp] theorem ctl_under (a : Nat) (bs : List Byte) : (applyAct d (.under a bs)).ctl = d.ctl := rfl

@[simp] theorem regs_veil (lo len : Nat) : (applyAct d (.veil lo len)).regs = d.regs := rfl
@[simp] theorem latch_veil (lo len : Nat) : (applyAct d (.veil lo len)).latch = d.latch := rfl
@[simp] theorem mem_veil (lo len : Nat) : (applyAct d (.veil lo len)).mem = d.mem.veil lo len d.freeIx := rfl
@[simp] theorem out_veil (lo len : Nat) : (applyAct d (.veil lo len)).out = d.out := rfl
@[simp] theorem freeIx_veil (lo len : Nat) : (applyAct d (.veil lo len)).freeIx = d.freeIx + 1 := rfl
@[simp] theorem lay_veil (lo len : Nat) : (applyAct d (.veil lo len)).lay = d.lay := rfl
@[simp] theorem yards_veil (lo len : Nat) : (applyAct d (.veil lo len)).yards = d.yards := rfl
@[simp] theorem pans_veil (lo len : Nat) : (applyAct d (.veil lo len)).pans = d.pans := rfl
@[simp] theorem comms_veil (lo len : Nat) : (applyAct d (.veil lo len)).comms = d.comms := rfl
@[simp] theorem conns_veil (lo len : Nat) : (applyAct d (.veil lo len)).conns = d.conns := rfl
@[simp] theorem rings_veil (lo len : Nat) : (applyAct d (.veil lo len)).rings = d.rings := rfl
@[simp] theorem lists_veil (lo len : Nat) : (applyAct d (.veil lo len)).lists = d.lists := rfl
@[simp] theorem ctxs_veil (lo len : Nat) : (applyAct d (.veil lo len)).ctxs = d.ctxs := rfl
@[simp] theorem wins_veil (lo len : Nat) : (applyAct d (.veil lo len)).wins = d.wins := rfl
@[simp] theorem lcqs_veil (lo len : Nat) : (applyAct d (.veil lo len)).lcqs = d.lcqs := rfl
@[simp] theorem fab_veil (lo len : Nat) : (applyAct d (.veil lo len)).fab = d.fab := rfl
@[simp] theorem eth_veil (lo len : Nat) : (applyAct d (.veil lo len)).eth = d.eth := rfl
@[simp] theorem sec_veil (lo len : Nat) : (applyAct d (.veil lo len)).sec = d.sec := rfl
@[simp] theorem ctl_veil (lo len : Nat) : (applyAct d (.veil lo len)).ctl = d.ctl := rfl

@[simp] theorem regs_unveil (lo len : Nat) : (applyAct d (.unveil lo len)).regs = d.regs := rfl
@[simp] theorem latch_unveil (lo len : Nat) : (applyAct d (.unveil lo len)).latch = d.latch := rfl
@[simp] theorem mem_unveil (lo len : Nat) : (applyAct d (.unveil lo len)).mem = d.mem.unveil lo len := rfl
@[simp] theorem out_unveil (lo len : Nat) : (applyAct d (.unveil lo len)).out = d.out := rfl
@[simp] theorem freeIx_unveil (lo len : Nat) : (applyAct d (.unveil lo len)).freeIx = d.freeIx := rfl
@[simp] theorem lay_unveil (lo len : Nat) : (applyAct d (.unveil lo len)).lay = d.lay := rfl
@[simp] theorem yards_unveil (lo len : Nat) : (applyAct d (.unveil lo len)).yards = d.yards := rfl
@[simp] theorem pans_unveil (lo len : Nat) : (applyAct d (.unveil lo len)).pans = d.pans := rfl
@[simp] theorem comms_unveil (lo len : Nat) : (applyAct d (.unveil lo len)).comms = d.comms := rfl
@[simp] theorem conns_unveil (lo len : Nat) : (applyAct d (.unveil lo len)).conns = d.conns := rfl
@[simp] theorem rings_unveil (lo len : Nat) : (applyAct d (.unveil lo len)).rings = d.rings := rfl
@[simp] theorem lists_unveil (lo len : Nat) : (applyAct d (.unveil lo len)).lists = d.lists := rfl
@[simp] theorem ctxs_unveil (lo len : Nat) : (applyAct d (.unveil lo len)).ctxs = d.ctxs := rfl
@[simp] theorem wins_unveil (lo len : Nat) : (applyAct d (.unveil lo len)).wins = d.wins := rfl
@[simp] theorem lcqs_unveil (lo len : Nat) : (applyAct d (.unveil lo len)).lcqs = d.lcqs := rfl
@[simp] theorem fab_unveil (lo len : Nat) : (applyAct d (.unveil lo len)).fab = d.fab := rfl
@[simp] theorem eth_unveil (lo len : Nat) : (applyAct d (.unveil lo len)).eth = d.eth := rfl
@[simp] theorem sec_unveil (lo len : Nat) : (applyAct d (.unveil lo len)).sec = d.sec := rfl
@[simp] theorem ctl_unveil (lo len : Nat) : (applyAct d (.unveil lo len)).ctl = d.ctl := rfl

@[simp] theorem regs_clear (lo len : Nat) : (applyAct d (.clear lo len)).regs = d.regs := rfl
@[simp] theorem latch_clear (lo len : Nat) : (applyAct d (.clear lo len)).latch = d.latch := rfl
@[simp] theorem mem_clear (lo len : Nat) : (applyAct d (.clear lo len)).mem = d.mem.clear lo len := rfl
@[simp] theorem out_clear (lo len : Nat) : (applyAct d (.clear lo len)).out = d.out := rfl
@[simp] theorem freeIx_clear (lo len : Nat) : (applyAct d (.clear lo len)).freeIx = d.freeIx := rfl
@[simp] theorem lay_clear (lo len : Nat) : (applyAct d (.clear lo len)).lay = d.lay := rfl
@[simp] theorem yards_clear (lo len : Nat) : (applyAct d (.clear lo len)).yards = d.yards := rfl
@[simp] theorem pans_clear (lo len : Nat) : (applyAct d (.clear lo len)).pans = d.pans := rfl
@[simp] theorem comms_clear (lo len : Nat) : (applyAct d (.clear lo len)).comms = d.comms := rfl
@[simp] theorem conns_clear (lo len : Nat) : (applyAct d (.clear lo len)).conns = d.conns := rfl
@[simp] theorem rings_clear (lo len : Nat) : (applyAct d (.clear lo len)).rings = d.rings := rfl
@[simp] theorem lists_clear (lo len : Nat) : (applyAct d (.clear lo len)).lists = d.lists := rfl
@[simp] theorem ctxs_clear (lo len : Nat) : (applyAct d (.clear lo len)).ctxs = d.ctxs := rfl
@[simp] theorem wins_clear (lo len : Nat) : (applyAct d (.clear lo len)).wins = d.wins := rfl
@[simp] theorem lcqs_clear (lo len : Nat) : (applyAct d (.clear lo len)).lcqs = d.lcqs := rfl
@[simp] theorem fab_clear (lo len : Nat) : (applyAct d (.clear lo len)).fab = d.fab := rfl
@[simp] theorem eth_clear (lo len : Nat) : (applyAct d (.clear lo len)).eth = d.eth := rfl
@[simp] theorem sec_clear (lo len : Nat) : (applyAct d (.clear lo len)).sec = d.sec := rfl
@[simp] theorem ctl_clear (lo len : Nat) : (applyAct d (.clear lo len)).ctl = d.ctl := rfl

@[simp] theorem regs_spoil (lo len : Nat) : (applyAct d (.spoil lo len)).regs = d.regs := rfl
@[simp] theorem latch_spoil (lo len : Nat) : (applyAct d (.spoil lo len)).latch = d.latch := rfl
@[simp] theorem mem_spoil (lo len : Nat) : (applyAct d (.spoil lo len)).mem = d.mem.spoil lo len d.freeIx := rfl
@[simp] theorem out_spoil (lo len : Nat) : (applyAct d (.spoil lo len)).out = d.out := rfl
@[simp] theorem freeIx_spoil (lo len : Nat) : (applyAct d (.spoil lo len)).freeIx = d.freeIx + 1 := rfl
@[simp] theorem lay_spoil (lo len : Nat) : (applyAct d (.spoil lo len)).lay = d.lay := rfl
@[simp] theorem yards_spoil (lo len : Nat) : (applyAct d (.spoil lo len)).yards = d.yards := rfl
@[simp] theorem pans_spoil (lo len : Nat) : (applyAct d (.spoil lo len)).pans = d.pans := rfl
@[simp] theorem comms_spoil (lo len : Nat) : (applyAct d (.spoil lo len)).comms = d.comms := rfl
@[simp] theorem conns_spoil (lo len : Nat) : (applyAct d (.spoil lo len)).conns = d.conns := rfl
@[simp] theorem rings_spoil (lo len : Nat) : (applyAct d (.spoil lo len)).rings = d.rings := rfl
@[simp] theorem lists_spoil (lo len : Nat) : (applyAct d (.spoil lo len)).lists = d.lists := rfl
@[simp] theorem ctxs_spoil (lo len : Nat) : (applyAct d (.spoil lo len)).ctxs = d.ctxs := rfl
@[simp] theorem wins_spoil (lo len : Nat) : (applyAct d (.spoil lo len)).wins = d.wins := rfl
@[simp] theorem lcqs_spoil (lo len : Nat) : (applyAct d (.spoil lo len)).lcqs = d.lcqs := rfl
@[simp] theorem fab_spoil (lo len : Nat) : (applyAct d (.spoil lo len)).fab = d.fab := rfl
@[simp] theorem eth_spoil (lo len : Nat) : (applyAct d (.spoil lo len)).eth = d.eth := rfl
@[simp] theorem sec_spoil (lo len : Nat) : (applyAct d (.spoil lo len)).sec = d.sec := rfl
@[simp] theorem ctl_spoil (lo len : Nat) : (applyAct d (.spoil lo len)).ctl = d.ctl := rfl

@[simp] theorem regs_uc (us : List Nat) : (applyAct d (.uc us)).regs = d.regs := rfl
@[simp] theorem latch_uc (us : List Nat) : (applyAct d (.uc us)).latch = d.latch := rfl
@[simp] theorem mem_uc (us : List Nat) : (applyAct d (.uc us)).mem = { d.mem with uc := us } := rfl
@[simp] theorem out_uc (us : List Nat) : (applyAct d (.uc us)).out = d.out := rfl
@[simp] theorem freeIx_uc (us : List Nat) : (applyAct d (.uc us)).freeIx = d.freeIx := rfl
@[simp] theorem lay_uc (us : List Nat) : (applyAct d (.uc us)).lay = d.lay := rfl
@[simp] theorem yards_uc (us : List Nat) : (applyAct d (.uc us)).yards = d.yards := rfl
@[simp] theorem pans_uc (us : List Nat) : (applyAct d (.uc us)).pans = d.pans := rfl
@[simp] theorem comms_uc (us : List Nat) : (applyAct d (.uc us)).comms = d.comms := rfl
@[simp] theorem conns_uc (us : List Nat) : (applyAct d (.uc us)).conns = d.conns := rfl
@[simp] theorem rings_uc (us : List Nat) : (applyAct d (.uc us)).rings = d.rings := rfl
@[simp] theorem lists_uc (us : List Nat) : (applyAct d (.uc us)).lists = d.lists := rfl
@[simp] theorem ctxs_uc (us : List Nat) : (applyAct d (.uc us)).ctxs = d.ctxs := rfl
@[simp] theorem wins_uc (us : List Nat) : (applyAct d (.uc us)).wins = d.wins := rfl
@[simp] theorem lcqs_uc (us : List Nat) : (applyAct d (.uc us)).lcqs = d.lcqs := rfl
@[simp] theorem fab_uc (us : List Nat) : (applyAct d (.uc us)).fab = d.fab := rfl
@[simp] theorem eth_uc (us : List Nat) : (applyAct d (.uc us)).eth = d.eth := rfl
@[simp] theorem sec_uc (us : List Nat) : (applyAct d (.uc us)).sec = d.sec := rfl
@[simp] theorem ctl_uc (us : List Nat) : (applyAct d (.uc us)).ctl = d.ctl := rfl

@[simp] theorem regs_out (o : Out) : (applyAct d (.out o)).regs = d.regs := rfl
@[simp] theorem latch_out (o : Out) : (applyAct d (.out o)).latch = d.latch := rfl
@[simp] theorem mem_out (o : Out) : (applyAct d (.out o)).mem = d.mem := rfl
@[simp] theorem out_out (o : Out) : (applyAct d (.out o)).out = d.out ++ [o] := rfl
@[simp] theorem freeIx_out (o : Out) : (applyAct d (.out o)).freeIx = d.freeIx := rfl
@[simp] theorem lay_out (o : Out) : (applyAct d (.out o)).lay = d.lay := rfl
@[simp] theorem yards_out (o : Out) : (applyAct d (.out o)).yards = d.yards := rfl
@[simp] theorem pans_out (o : Out) : (applyAct d (.out o)).pans = d.pans := rfl
@[simp] theorem comms_out (o : Out) : (applyAct d (.out o)).comms = d.comms := rfl
@[simp] theorem conns_out (o : Out) : (applyAct d (.out o)).conns = d.conns := rfl
@[simp] theorem rings_out (o : Out) : (applyAct d (.out o)).rings = d.rings := rfl
@[simp] theorem lists_out (o : Out) : (applyAct d (.out o)).lists = d.lists := rfl
@[simp] theorem ctxs_out (o : Out) : (applyAct d (.out o)).ctxs = d.ctxs := rfl
@[simp] theorem wins_out (o : Out) : (applyAct d (.out o)).wins = d.wins := rfl
@[simp] theorem lcqs_out (o : Out) : (applyAct d (.out o)).lcqs = d.lcqs := rfl
@[simp] theorem fab_out (o : Out) : (applyAct d (.out o)).fab = d.fab := rfl
@[simp] theorem eth_out (o : Out) : (applyAct d (.out o)).eth = d.eth := rfl
@[simp] theorem sec_out (o : Out) : (applyAct d (.out o)).sec = d.sec := rfl
@[simp] theorem ctl_out (o : Out) : (applyAct d (.out o)).ctl = d.ctl := rfl

@[simp] theorem regs_free : (applyAct d (.free)).regs = d.regs := rfl
@[simp] theorem latch_free : (applyAct d (.free)).latch = d.latch := rfl
@[simp] theorem mem_free : (applyAct d (.free)).mem = d.mem := rfl
@[simp] theorem out_free : (applyAct d (.free)).out = d.out := rfl
@[simp] theorem freeIx_free : (applyAct d (.free)).freeIx = d.freeIx + 1 := rfl
@[simp] theorem lay_free : (applyAct d (.free)).lay = d.lay := rfl
@[simp] theorem yards_free : (applyAct d (.free)).yards = d.yards := rfl
@[simp] theorem pans_free : (applyAct d (.free)).pans = d.pans := rfl
@[simp] theorem comms_free : (applyAct d (.free)).comms = d.comms := rfl
@[simp] theorem conns_free : (applyAct d (.free)).conns = d.conns := rfl
@[simp] theorem rings_free : (applyAct d (.free)).rings = d.rings := rfl
@[simp] theorem lists_free : (applyAct d (.free)).lists = d.lists := rfl
@[simp] theorem ctxs_free : (applyAct d (.free)).ctxs = d.ctxs := rfl
@[simp] theorem wins_free : (applyAct d (.free)).wins = d.wins := rfl
@[simp] theorem lcqs_free : (applyAct d (.free)).lcqs = d.lcqs := rfl
@[simp] theorem fab_free : (applyAct d (.free)).fab = d.fab := rfl
@[simp] theorem eth_free : (applyAct d (.free)).eth = d.eth := rfl
@[simp] theorem sec_free : (applyAct d (.free)).sec = d.sec := rfl
@[simp] theorem ctl_free : (applyAct d (.free)).ctl = d.ctl := rfl

@[simp] theorem regs_lay (v : Lay) : (applyAct d (.lay v)).regs = d.regs := rfl
@[simp] theorem latch_lay (v : Lay) : (applyAct d (.lay v)).latch = d.latch := rfl
@[simp] theorem mem_lay (v : Lay) : (applyAct d (.lay v)).mem = d.mem := rfl
@[simp] theorem out_lay (v : Lay) : (applyAct d (.lay v)).out = d.out := rfl
@[simp] theorem freeIx_lay (v : Lay) : (applyAct d (.lay v)).freeIx = d.freeIx := rfl
@[simp] theorem lay_lay (v : Lay) : (applyAct d (.lay v)).lay = v := rfl
@[simp] theorem yards_lay (v : Lay) : (applyAct d (.lay v)).yards = d.yards := rfl
@[simp] theorem pans_lay (v : Lay) : (applyAct d (.lay v)).pans = d.pans := rfl
@[simp] theorem comms_lay (v : Lay) : (applyAct d (.lay v)).comms = d.comms := rfl
@[simp] theorem conns_lay (v : Lay) : (applyAct d (.lay v)).conns = d.conns := rfl
@[simp] theorem rings_lay (v : Lay) : (applyAct d (.lay v)).rings = d.rings := rfl
@[simp] theorem lists_lay (v : Lay) : (applyAct d (.lay v)).lists = d.lists := rfl
@[simp] theorem ctxs_lay (v : Lay) : (applyAct d (.lay v)).ctxs = d.ctxs := rfl
@[simp] theorem wins_lay (v : Lay) : (applyAct d (.lay v)).wins = d.wins := rfl
@[simp] theorem lcqs_lay (v : Lay) : (applyAct d (.lay v)).lcqs = d.lcqs := rfl
@[simp] theorem fab_lay (v : Lay) : (applyAct d (.lay v)).fab = d.fab := rfl
@[simp] theorem eth_lay (v : Lay) : (applyAct d (.lay v)).eth = d.eth := rfl
@[simp] theorem sec_lay (v : Lay) : (applyAct d (.lay v)).sec = d.sec := rfl
@[simp] theorem ctl_lay (v : Lay) : (applyAct d (.lay v)).ctl = d.ctl := rfl

@[simp] theorem regs_yard (y : Nat) (v : Yard) : (applyAct d (.yard y v)).regs = d.regs := rfl
@[simp] theorem latch_yard (y : Nat) (v : Yard) : (applyAct d (.yard y v)).latch = d.latch := rfl
@[simp] theorem mem_yard (y : Nat) (v : Yard) : (applyAct d (.yard y v)).mem = d.mem := rfl
@[simp] theorem out_yard (y : Nat) (v : Yard) : (applyAct d (.yard y v)).out = d.out := rfl
@[simp] theorem freeIx_yard (y : Nat) (v : Yard) : (applyAct d (.yard y v)).freeIx = d.freeIx := rfl
@[simp] theorem lay_yard (y : Nat) (v : Yard) : (applyAct d (.yard y v)).lay = d.lay := rfl
@[simp] theorem yards_yard (y : Nat) (v : Yard) : (applyAct d (.yard y v)).yards = Tab.put d.yards y v := rfl
@[simp] theorem pans_yard (y : Nat) (v : Yard) : (applyAct d (.yard y v)).pans = d.pans := rfl
@[simp] theorem comms_yard (y : Nat) (v : Yard) : (applyAct d (.yard y v)).comms = d.comms := rfl
@[simp] theorem conns_yard (y : Nat) (v : Yard) : (applyAct d (.yard y v)).conns = d.conns := rfl
@[simp] theorem rings_yard (y : Nat) (v : Yard) : (applyAct d (.yard y v)).rings = d.rings := rfl
@[simp] theorem lists_yard (y : Nat) (v : Yard) : (applyAct d (.yard y v)).lists = d.lists := rfl
@[simp] theorem ctxs_yard (y : Nat) (v : Yard) : (applyAct d (.yard y v)).ctxs = d.ctxs := rfl
@[simp] theorem wins_yard (y : Nat) (v : Yard) : (applyAct d (.yard y v)).wins = d.wins := rfl
@[simp] theorem lcqs_yard (y : Nat) (v : Yard) : (applyAct d (.yard y v)).lcqs = d.lcqs := rfl
@[simp] theorem fab_yard (y : Nat) (v : Yard) : (applyAct d (.yard y v)).fab = d.fab := rfl
@[simp] theorem eth_yard (y : Nat) (v : Yard) : (applyAct d (.yard y v)).eth = d.eth := rfl
@[simp] theorem sec_yard (y : Nat) (v : Yard) : (applyAct d (.yard y v)).sec = d.sec := rfl
@[simp] theorem ctl_yard (y : Nat) (v : Yard) : (applyAct d (.yard y v)).ctl = d.ctl := rfl

@[simp] theorem regs_pan (i : Nat) (v : Pan) : (applyAct d (.pan i v)).regs = d.regs := rfl
@[simp] theorem latch_pan (i : Nat) (v : Pan) : (applyAct d (.pan i v)).latch = d.latch := rfl
@[simp] theorem mem_pan (i : Nat) (v : Pan) : (applyAct d (.pan i v)).mem = d.mem := rfl
@[simp] theorem out_pan (i : Nat) (v : Pan) : (applyAct d (.pan i v)).out = d.out := rfl
@[simp] theorem freeIx_pan (i : Nat) (v : Pan) : (applyAct d (.pan i v)).freeIx = d.freeIx := rfl
@[simp] theorem lay_pan (i : Nat) (v : Pan) : (applyAct d (.pan i v)).lay = d.lay := rfl
@[simp] theorem yards_pan (i : Nat) (v : Pan) : (applyAct d (.pan i v)).yards = d.yards := rfl
@[simp] theorem pans_pan (i : Nat) (v : Pan) : (applyAct d (.pan i v)).pans = d.pans.set i v := rfl
@[simp] theorem comms_pan (i : Nat) (v : Pan) : (applyAct d (.pan i v)).comms = d.comms := rfl
@[simp] theorem conns_pan (i : Nat) (v : Pan) : (applyAct d (.pan i v)).conns = d.conns := rfl
@[simp] theorem rings_pan (i : Nat) (v : Pan) : (applyAct d (.pan i v)).rings = d.rings := rfl
@[simp] theorem lists_pan (i : Nat) (v : Pan) : (applyAct d (.pan i v)).lists = d.lists := rfl
@[simp] theorem ctxs_pan (i : Nat) (v : Pan) : (applyAct d (.pan i v)).ctxs = d.ctxs := rfl
@[simp] theorem wins_pan (i : Nat) (v : Pan) : (applyAct d (.pan i v)).wins = d.wins := rfl
@[simp] theorem lcqs_pan (i : Nat) (v : Pan) : (applyAct d (.pan i v)).lcqs = d.lcqs := rfl
@[simp] theorem fab_pan (i : Nat) (v : Pan) : (applyAct d (.pan i v)).fab = d.fab := rfl
@[simp] theorem eth_pan (i : Nat) (v : Pan) : (applyAct d (.pan i v)).eth = d.eth := rfl
@[simp] theorem sec_pan (i : Nat) (v : Pan) : (applyAct d (.pan i v)).sec = d.sec := rfl
@[simp] theorem ctl_pan (i : Nat) (v : Pan) : (applyAct d (.pan i v)).ctl = d.ctl := rfl

@[simp] theorem regs_comm (k : Nat) (v : Option Comm) : (applyAct d (.comm k v)).regs = d.regs := rfl
@[simp] theorem latch_comm (k : Nat) (v : Option Comm) : (applyAct d (.comm k v)).latch = d.latch := rfl
@[simp] theorem mem_comm (k : Nat) (v : Option Comm) : (applyAct d (.comm k v)).mem = d.mem := rfl
@[simp] theorem out_comm (k : Nat) (v : Option Comm) : (applyAct d (.comm k v)).out = d.out := rfl
@[simp] theorem freeIx_comm (k : Nat) (v : Option Comm) : (applyAct d (.comm k v)).freeIx = d.freeIx := rfl
@[simp] theorem lay_comm (k : Nat) (v : Option Comm) : (applyAct d (.comm k v)).lay = d.lay := rfl
@[simp] theorem yards_comm (k : Nat) (v : Option Comm) : (applyAct d (.comm k v)).yards = d.yards := rfl
@[simp] theorem pans_comm (k : Nat) (v : Option Comm) : (applyAct d (.comm k v)).pans = d.pans := rfl
@[simp] theorem comms_comm (k : Nat) (v : Option Comm) : (applyAct d (.comm k v)).comms = putOpt d.comms k v := rfl
@[simp] theorem conns_comm (k : Nat) (v : Option Comm) : (applyAct d (.comm k v)).conns = d.conns := rfl
@[simp] theorem rings_comm (k : Nat) (v : Option Comm) : (applyAct d (.comm k v)).rings = d.rings := rfl
@[simp] theorem lists_comm (k : Nat) (v : Option Comm) : (applyAct d (.comm k v)).lists = d.lists := rfl
@[simp] theorem ctxs_comm (k : Nat) (v : Option Comm) : (applyAct d (.comm k v)).ctxs = d.ctxs := rfl
@[simp] theorem wins_comm (k : Nat) (v : Option Comm) : (applyAct d (.comm k v)).wins = d.wins := rfl
@[simp] theorem lcqs_comm (k : Nat) (v : Option Comm) : (applyAct d (.comm k v)).lcqs = d.lcqs := rfl
@[simp] theorem fab_comm (k : Nat) (v : Option Comm) : (applyAct d (.comm k v)).fab = d.fab := rfl
@[simp] theorem eth_comm (k : Nat) (v : Option Comm) : (applyAct d (.comm k v)).eth = d.eth := rfl
@[simp] theorem sec_comm (k : Nat) (v : Option Comm) : (applyAct d (.comm k v)).sec = d.sec := rfl
@[simp] theorem ctl_comm (k : Nat) (v : Option Comm) : (applyAct d (.comm k v)).ctl = d.ctl := rfl

@[simp] theorem regs_conn (k : Nat) (v : Option Conn) : (applyAct d (.conn k v)).regs = d.regs := rfl
@[simp] theorem latch_conn (k : Nat) (v : Option Conn) : (applyAct d (.conn k v)).latch = d.latch := rfl
@[simp] theorem mem_conn (k : Nat) (v : Option Conn) : (applyAct d (.conn k v)).mem = d.mem := rfl
@[simp] theorem out_conn (k : Nat) (v : Option Conn) : (applyAct d (.conn k v)).out = d.out := rfl
@[simp] theorem freeIx_conn (k : Nat) (v : Option Conn) : (applyAct d (.conn k v)).freeIx = d.freeIx := rfl
@[simp] theorem lay_conn (k : Nat) (v : Option Conn) : (applyAct d (.conn k v)).lay = d.lay := rfl
@[simp] theorem yards_conn (k : Nat) (v : Option Conn) : (applyAct d (.conn k v)).yards = d.yards := rfl
@[simp] theorem pans_conn (k : Nat) (v : Option Conn) : (applyAct d (.conn k v)).pans = d.pans := rfl
@[simp] theorem comms_conn (k : Nat) (v : Option Conn) : (applyAct d (.conn k v)).comms = d.comms := rfl
@[simp] theorem conns_conn (k : Nat) (v : Option Conn) : (applyAct d (.conn k v)).conns = putOpt d.conns k v := rfl
@[simp] theorem rings_conn (k : Nat) (v : Option Conn) : (applyAct d (.conn k v)).rings = d.rings := rfl
@[simp] theorem lists_conn (k : Nat) (v : Option Conn) : (applyAct d (.conn k v)).lists = d.lists := rfl
@[simp] theorem ctxs_conn (k : Nat) (v : Option Conn) : (applyAct d (.conn k v)).ctxs = d.ctxs := rfl
@[simp] theorem wins_conn (k : Nat) (v : Option Conn) : (applyAct d (.conn k v)).wins = d.wins := rfl
@[simp] theorem lcqs_conn (k : Nat) (v : Option Conn) : (applyAct d (.conn k v)).lcqs = d.lcqs := rfl
@[simp] theorem fab_conn (k : Nat) (v : Option Conn) : (applyAct d (.conn k v)).fab = d.fab := rfl
@[simp] theorem eth_conn (k : Nat) (v : Option Conn) : (applyAct d (.conn k v)).eth = d.eth := rfl
@[simp] theorem sec_conn (k : Nat) (v : Option Conn) : (applyAct d (.conn k v)).sec = d.sec := rfl
@[simp] theorem ctl_conn (k : Nat) (v : Option Conn) : (applyAct d (.conn k v)).ctl = d.ctl := rfl

@[simp] theorem regs_ring (k : Nat) (v : Option Ring) : (applyAct d (.ring k v)).regs = d.regs := rfl
@[simp] theorem latch_ring (k : Nat) (v : Option Ring) : (applyAct d (.ring k v)).latch = d.latch := rfl
@[simp] theorem mem_ring (k : Nat) (v : Option Ring) : (applyAct d (.ring k v)).mem = d.mem := rfl
@[simp] theorem out_ring (k : Nat) (v : Option Ring) : (applyAct d (.ring k v)).out = d.out := rfl
@[simp] theorem freeIx_ring (k : Nat) (v : Option Ring) : (applyAct d (.ring k v)).freeIx = d.freeIx := rfl
@[simp] theorem lay_ring (k : Nat) (v : Option Ring) : (applyAct d (.ring k v)).lay = d.lay := rfl
@[simp] theorem yards_ring (k : Nat) (v : Option Ring) : (applyAct d (.ring k v)).yards = d.yards := rfl
@[simp] theorem pans_ring (k : Nat) (v : Option Ring) : (applyAct d (.ring k v)).pans = d.pans := rfl
@[simp] theorem comms_ring (k : Nat) (v : Option Ring) : (applyAct d (.ring k v)).comms = d.comms := rfl
@[simp] theorem conns_ring (k : Nat) (v : Option Ring) : (applyAct d (.ring k v)).conns = d.conns := rfl
@[simp] theorem rings_ring (k : Nat) (v : Option Ring) : (applyAct d (.ring k v)).rings = putOpt d.rings k v := rfl
@[simp] theorem lists_ring (k : Nat) (v : Option Ring) : (applyAct d (.ring k v)).lists = d.lists := rfl
@[simp] theorem ctxs_ring (k : Nat) (v : Option Ring) : (applyAct d (.ring k v)).ctxs = d.ctxs := rfl
@[simp] theorem wins_ring (k : Nat) (v : Option Ring) : (applyAct d (.ring k v)).wins = d.wins := rfl
@[simp] theorem lcqs_ring (k : Nat) (v : Option Ring) : (applyAct d (.ring k v)).lcqs = d.lcqs := rfl
@[simp] theorem fab_ring (k : Nat) (v : Option Ring) : (applyAct d (.ring k v)).fab = d.fab := rfl
@[simp] theorem eth_ring (k : Nat) (v : Option Ring) : (applyAct d (.ring k v)).eth = d.eth := rfl
@[simp] theorem sec_ring (k : Nat) (v : Option Ring) : (applyAct d (.ring k v)).sec = d.sec := rfl
@[simp] theorem ctl_ring (k : Nat) (v : Option Ring) : (applyAct d (.ring k v)).ctl = d.ctl := rfl

@[simp] theorem regs_list (k : Nat) (v : Option MatchList) : (applyAct d (.list k v)).regs = d.regs := rfl
@[simp] theorem latch_list (k : Nat) (v : Option MatchList) : (applyAct d (.list k v)).latch = d.latch := rfl
@[simp] theorem mem_list (k : Nat) (v : Option MatchList) : (applyAct d (.list k v)).mem = d.mem := rfl
@[simp] theorem out_list (k : Nat) (v : Option MatchList) : (applyAct d (.list k v)).out = d.out := rfl
@[simp] theorem freeIx_list (k : Nat) (v : Option MatchList) : (applyAct d (.list k v)).freeIx = d.freeIx := rfl
@[simp] theorem lay_list (k : Nat) (v : Option MatchList) : (applyAct d (.list k v)).lay = d.lay := rfl
@[simp] theorem yards_list (k : Nat) (v : Option MatchList) : (applyAct d (.list k v)).yards = d.yards := rfl
@[simp] theorem pans_list (k : Nat) (v : Option MatchList) : (applyAct d (.list k v)).pans = d.pans := rfl
@[simp] theorem comms_list (k : Nat) (v : Option MatchList) : (applyAct d (.list k v)).comms = d.comms := rfl
@[simp] theorem conns_list (k : Nat) (v : Option MatchList) : (applyAct d (.list k v)).conns = d.conns := rfl
@[simp] theorem rings_list (k : Nat) (v : Option MatchList) : (applyAct d (.list k v)).rings = d.rings := rfl
@[simp] theorem lists_list (k : Nat) (v : Option MatchList) : (applyAct d (.list k v)).lists = putOpt d.lists k v :=
  rfl
@[simp] theorem ctxs_list (k : Nat) (v : Option MatchList) : (applyAct d (.list k v)).ctxs = d.ctxs := rfl
@[simp] theorem wins_list (k : Nat) (v : Option MatchList) : (applyAct d (.list k v)).wins = d.wins := rfl
@[simp] theorem lcqs_list (k : Nat) (v : Option MatchList) : (applyAct d (.list k v)).lcqs = d.lcqs := rfl
@[simp] theorem fab_list (k : Nat) (v : Option MatchList) : (applyAct d (.list k v)).fab = d.fab := rfl
@[simp] theorem eth_list (k : Nat) (v : Option MatchList) : (applyAct d (.list k v)).eth = d.eth := rfl
@[simp] theorem sec_list (k : Nat) (v : Option MatchList) : (applyAct d (.list k v)).sec = d.sec := rfl
@[simp] theorem ctl_list (k : Nat) (v : Option MatchList) : (applyAct d (.list k v)).ctl = d.ctl := rfl

@[simp] theorem regs_ctx (k : Nat) (v : Option AddrCtx) : (applyAct d (.ctx k v)).regs = d.regs := rfl
@[simp] theorem latch_ctx (k : Nat) (v : Option AddrCtx) : (applyAct d (.ctx k v)).latch = d.latch := rfl
@[simp] theorem mem_ctx (k : Nat) (v : Option AddrCtx) : (applyAct d (.ctx k v)).mem = d.mem := rfl
@[simp] theorem out_ctx (k : Nat) (v : Option AddrCtx) : (applyAct d (.ctx k v)).out = d.out := rfl
@[simp] theorem freeIx_ctx (k : Nat) (v : Option AddrCtx) : (applyAct d (.ctx k v)).freeIx = d.freeIx := rfl
@[simp] theorem lay_ctx (k : Nat) (v : Option AddrCtx) : (applyAct d (.ctx k v)).lay = d.lay := rfl
@[simp] theorem yards_ctx (k : Nat) (v : Option AddrCtx) : (applyAct d (.ctx k v)).yards = d.yards := rfl
@[simp] theorem pans_ctx (k : Nat) (v : Option AddrCtx) : (applyAct d (.ctx k v)).pans = d.pans := rfl
@[simp] theorem comms_ctx (k : Nat) (v : Option AddrCtx) : (applyAct d (.ctx k v)).comms = d.comms := rfl
@[simp] theorem conns_ctx (k : Nat) (v : Option AddrCtx) : (applyAct d (.ctx k v)).conns = d.conns := rfl
@[simp] theorem rings_ctx (k : Nat) (v : Option AddrCtx) : (applyAct d (.ctx k v)).rings = d.rings := rfl
@[simp] theorem lists_ctx (k : Nat) (v : Option AddrCtx) : (applyAct d (.ctx k v)).lists = d.lists := rfl
@[simp] theorem ctxs_ctx (k : Nat) (v : Option AddrCtx) : (applyAct d (.ctx k v)).ctxs = putOpt d.ctxs k v := rfl
@[simp] theorem wins_ctx (k : Nat) (v : Option AddrCtx) : (applyAct d (.ctx k v)).wins = d.wins := rfl
@[simp] theorem lcqs_ctx (k : Nat) (v : Option AddrCtx) : (applyAct d (.ctx k v)).lcqs = d.lcqs := rfl
@[simp] theorem fab_ctx (k : Nat) (v : Option AddrCtx) : (applyAct d (.ctx k v)).fab = d.fab := rfl
@[simp] theorem eth_ctx (k : Nat) (v : Option AddrCtx) : (applyAct d (.ctx k v)).eth = d.eth := rfl
@[simp] theorem sec_ctx (k : Nat) (v : Option AddrCtx) : (applyAct d (.ctx k v)).sec = d.sec := rfl
@[simp] theorem ctl_ctx (k : Nat) (v : Option AddrCtx) : (applyAct d (.ctx k v)).ctl = d.ctl := rfl

@[simp] theorem regs_win (k : Nat) (v : Option Win) : (applyAct d (.win k v)).regs = d.regs := rfl
@[simp] theorem latch_win (k : Nat) (v : Option Win) : (applyAct d (.win k v)).latch = d.latch := rfl
@[simp] theorem mem_win (k : Nat) (v : Option Win) : (applyAct d (.win k v)).mem = d.mem := rfl
@[simp] theorem out_win (k : Nat) (v : Option Win) : (applyAct d (.win k v)).out = d.out := rfl
@[simp] theorem freeIx_win (k : Nat) (v : Option Win) : (applyAct d (.win k v)).freeIx = d.freeIx := rfl
@[simp] theorem lay_win (k : Nat) (v : Option Win) : (applyAct d (.win k v)).lay = d.lay := rfl
@[simp] theorem yards_win (k : Nat) (v : Option Win) : (applyAct d (.win k v)).yards = d.yards := rfl
@[simp] theorem pans_win (k : Nat) (v : Option Win) : (applyAct d (.win k v)).pans = d.pans := rfl
@[simp] theorem comms_win (k : Nat) (v : Option Win) : (applyAct d (.win k v)).comms = d.comms := rfl
@[simp] theorem conns_win (k : Nat) (v : Option Win) : (applyAct d (.win k v)).conns = d.conns := rfl
@[simp] theorem rings_win (k : Nat) (v : Option Win) : (applyAct d (.win k v)).rings = d.rings := rfl
@[simp] theorem lists_win (k : Nat) (v : Option Win) : (applyAct d (.win k v)).lists = d.lists := rfl
@[simp] theorem ctxs_win (k : Nat) (v : Option Win) : (applyAct d (.win k v)).ctxs = d.ctxs := rfl
@[simp] theorem wins_win (k : Nat) (v : Option Win) : (applyAct d (.win k v)).wins = putOpt d.wins k v := rfl
@[simp] theorem lcqs_win (k : Nat) (v : Option Win) : (applyAct d (.win k v)).lcqs = d.lcqs := rfl
@[simp] theorem fab_win (k : Nat) (v : Option Win) : (applyAct d (.win k v)).fab = d.fab := rfl
@[simp] theorem eth_win (k : Nat) (v : Option Win) : (applyAct d (.win k v)).eth = d.eth := rfl
@[simp] theorem sec_win (k : Nat) (v : Option Win) : (applyAct d (.win k v)).sec = d.sec := rfl
@[simp] theorem ctl_win (k : Nat) (v : Option Win) : (applyAct d (.win k v)).ctl = d.ctl := rfl

@[simp] theorem regs_lcq (k : Nat) (v : Option LCq) : (applyAct d (.lcq k v)).regs = d.regs := rfl
@[simp] theorem latch_lcq (k : Nat) (v : Option LCq) : (applyAct d (.lcq k v)).latch = d.latch := rfl
@[simp] theorem mem_lcq (k : Nat) (v : Option LCq) : (applyAct d (.lcq k v)).mem = d.mem := rfl
@[simp] theorem out_lcq (k : Nat) (v : Option LCq) : (applyAct d (.lcq k v)).out = d.out := rfl
@[simp] theorem freeIx_lcq (k : Nat) (v : Option LCq) : (applyAct d (.lcq k v)).freeIx = d.freeIx := rfl
@[simp] theorem lay_lcq (k : Nat) (v : Option LCq) : (applyAct d (.lcq k v)).lay = d.lay := rfl
@[simp] theorem yards_lcq (k : Nat) (v : Option LCq) : (applyAct d (.lcq k v)).yards = d.yards := rfl
@[simp] theorem pans_lcq (k : Nat) (v : Option LCq) : (applyAct d (.lcq k v)).pans = d.pans := rfl
@[simp] theorem comms_lcq (k : Nat) (v : Option LCq) : (applyAct d (.lcq k v)).comms = d.comms := rfl
@[simp] theorem conns_lcq (k : Nat) (v : Option LCq) : (applyAct d (.lcq k v)).conns = d.conns := rfl
@[simp] theorem rings_lcq (k : Nat) (v : Option LCq) : (applyAct d (.lcq k v)).rings = d.rings := rfl
@[simp] theorem lists_lcq (k : Nat) (v : Option LCq) : (applyAct d (.lcq k v)).lists = d.lists := rfl
@[simp] theorem ctxs_lcq (k : Nat) (v : Option LCq) : (applyAct d (.lcq k v)).ctxs = d.ctxs := rfl
@[simp] theorem wins_lcq (k : Nat) (v : Option LCq) : (applyAct d (.lcq k v)).wins = d.wins := rfl
@[simp] theorem lcqs_lcq (k : Nat) (v : Option LCq) : (applyAct d (.lcq k v)).lcqs = putOpt d.lcqs k v := rfl
@[simp] theorem fab_lcq (k : Nat) (v : Option LCq) : (applyAct d (.lcq k v)).fab = d.fab := rfl
@[simp] theorem eth_lcq (k : Nat) (v : Option LCq) : (applyAct d (.lcq k v)).eth = d.eth := rfl
@[simp] theorem sec_lcq (k : Nat) (v : Option LCq) : (applyAct d (.lcq k v)).sec = d.sec := rfl
@[simp] theorem ctl_lcq (k : Nat) (v : Option LCq) : (applyAct d (.lcq k v)).ctl = d.ctl := rfl

@[simp] theorem regs_link (l : Nat) (v : Link) : (applyAct d (.link l v)).regs = d.regs := rfl
@[simp] theorem latch_link (l : Nat) (v : Link) : (applyAct d (.link l v)).latch = d.latch := rfl
@[simp] theorem mem_link (l : Nat) (v : Link) : (applyAct d (.link l v)).mem = d.mem := rfl
@[simp] theorem out_link (l : Nat) (v : Link) : (applyAct d (.link l v)).out = d.out := rfl
@[simp] theorem freeIx_link (l : Nat) (v : Link) : (applyAct d (.link l v)).freeIx = d.freeIx := rfl
@[simp] theorem lay_link (l : Nat) (v : Link) : (applyAct d (.link l v)).lay = d.lay := rfl
@[simp] theorem yards_link (l : Nat) (v : Link) : (applyAct d (.link l v)).yards = d.yards := rfl
@[simp] theorem pans_link (l : Nat) (v : Link) : (applyAct d (.link l v)).pans = d.pans := rfl
@[simp] theorem comms_link (l : Nat) (v : Link) : (applyAct d (.link l v)).comms = d.comms := rfl
@[simp] theorem conns_link (l : Nat) (v : Link) : (applyAct d (.link l v)).conns = d.conns := rfl
@[simp] theorem rings_link (l : Nat) (v : Link) : (applyAct d (.link l v)).rings = d.rings := rfl
@[simp] theorem lists_link (l : Nat) (v : Link) : (applyAct d (.link l v)).lists = d.lists := rfl
@[simp] theorem ctxs_link (l : Nat) (v : Link) : (applyAct d (.link l v)).ctxs = d.ctxs := rfl
@[simp] theorem wins_link (l : Nat) (v : Link) : (applyAct d (.link l v)).wins = d.wins := rfl
@[simp] theorem lcqs_link (l : Nat) (v : Link) : (applyAct d (.link l v)).lcqs = d.lcqs := rfl
@[simp] theorem fab_link (l : Nat) (v : Link) :
    (applyAct d (.link l v)).fab = { d.fab with links := d.fab.links.set l v } := rfl
@[simp] theorem eth_link (l : Nat) (v : Link) : (applyAct d (.link l v)).eth = d.eth := rfl
@[simp] theorem sec_link (l : Nat) (v : Link) : (applyAct d (.link l v)).sec = d.sec := rfl
@[simp] theorem ctl_link (l : Nat) (v : Link) : (applyAct d (.link l v)).ctl = d.ctl := rfl

@[simp] theorem regs_fab (h : List Pkt) (dr : Bool) (q : Nat) : (applyAct d (.fab h dr q)).regs = d.regs := rfl
@[simp] theorem latch_fab (h : List Pkt) (dr : Bool) (q : Nat) : (applyAct d (.fab h dr q)).latch = d.latch := rfl
@[simp] theorem mem_fab (h : List Pkt) (dr : Bool) (q : Nat) : (applyAct d (.fab h dr q)).mem = d.mem := rfl
@[simp] theorem out_fab (h : List Pkt) (dr : Bool) (q : Nat) : (applyAct d (.fab h dr q)).out = d.out := rfl
@[simp] theorem freeIx_fab (h : List Pkt) (dr : Bool) (q : Nat) : (applyAct d (.fab h dr q)).freeIx = d.freeIx := rfl
@[simp] theorem lay_fab (h : List Pkt) (dr : Bool) (q : Nat) : (applyAct d (.fab h dr q)).lay = d.lay := rfl
@[simp] theorem yards_fab (h : List Pkt) (dr : Bool) (q : Nat) : (applyAct d (.fab h dr q)).yards = d.yards := rfl
@[simp] theorem pans_fab (h : List Pkt) (dr : Bool) (q : Nat) : (applyAct d (.fab h dr q)).pans = d.pans := rfl
@[simp] theorem comms_fab (h : List Pkt) (dr : Bool) (q : Nat) : (applyAct d (.fab h dr q)).comms = d.comms := rfl
@[simp] theorem conns_fab (h : List Pkt) (dr : Bool) (q : Nat) : (applyAct d (.fab h dr q)).conns = d.conns := rfl
@[simp] theorem rings_fab (h : List Pkt) (dr : Bool) (q : Nat) : (applyAct d (.fab h dr q)).rings = d.rings := rfl
@[simp] theorem lists_fab (h : List Pkt) (dr : Bool) (q : Nat) : (applyAct d (.fab h dr q)).lists = d.lists := rfl
@[simp] theorem ctxs_fab (h : List Pkt) (dr : Bool) (q : Nat) : (applyAct d (.fab h dr q)).ctxs = d.ctxs := rfl
@[simp] theorem wins_fab (h : List Pkt) (dr : Bool) (q : Nat) : (applyAct d (.fab h dr q)).wins = d.wins := rfl
@[simp] theorem lcqs_fab (h : List Pkt) (dr : Bool) (q : Nat) : (applyAct d (.fab h dr q)).lcqs = d.lcqs := rfl
@[simp] theorem fab_fab (h : List Pkt) (dr : Bool) (q : Nat) :
    (applyAct d (.fab h dr q)).fab = { d.fab with held := h, draining := dr, sampleSeq := q } := rfl
@[simp] theorem eth_fab (h : List Pkt) (dr : Bool) (q : Nat) : (applyAct d (.fab h dr q)).eth = d.eth := rfl
@[simp] theorem sec_fab (h : List Pkt) (dr : Bool) (q : Nat) : (applyAct d (.fab h dr q)).sec = d.sec := rfl
@[simp] theorem ctl_fab (h : List Pkt) (dr : Bool) (q : Nat) : (applyAct d (.fab h dr q)).ctl = d.ctl := rfl

@[simp] theorem regs_sub (u : Nat) (v : SubPort) : (applyAct d (.sub u v)).regs = d.regs := rfl
@[simp] theorem latch_sub (u : Nat) (v : SubPort) : (applyAct d (.sub u v)).latch = d.latch := rfl
@[simp] theorem mem_sub (u : Nat) (v : SubPort) : (applyAct d (.sub u v)).mem = d.mem := rfl
@[simp] theorem out_sub (u : Nat) (v : SubPort) : (applyAct d (.sub u v)).out = d.out := rfl
@[simp] theorem freeIx_sub (u : Nat) (v : SubPort) : (applyAct d (.sub u v)).freeIx = d.freeIx := rfl
@[simp] theorem lay_sub (u : Nat) (v : SubPort) : (applyAct d (.sub u v)).lay = d.lay := rfl
@[simp] theorem yards_sub (u : Nat) (v : SubPort) : (applyAct d (.sub u v)).yards = d.yards := rfl
@[simp] theorem pans_sub (u : Nat) (v : SubPort) : (applyAct d (.sub u v)).pans = d.pans := rfl
@[simp] theorem comms_sub (u : Nat) (v : SubPort) : (applyAct d (.sub u v)).comms = d.comms := rfl
@[simp] theorem conns_sub (u : Nat) (v : SubPort) : (applyAct d (.sub u v)).conns = d.conns := rfl
@[simp] theorem rings_sub (u : Nat) (v : SubPort) : (applyAct d (.sub u v)).rings = d.rings := rfl
@[simp] theorem lists_sub (u : Nat) (v : SubPort) : (applyAct d (.sub u v)).lists = d.lists := rfl
@[simp] theorem ctxs_sub (u : Nat) (v : SubPort) : (applyAct d (.sub u v)).ctxs = d.ctxs := rfl
@[simp] theorem wins_sub (u : Nat) (v : SubPort) : (applyAct d (.sub u v)).wins = d.wins := rfl
@[simp] theorem lcqs_sub (u : Nat) (v : SubPort) : (applyAct d (.sub u v)).lcqs = d.lcqs := rfl
@[simp] theorem fab_sub (u : Nat) (v : SubPort) : (applyAct d (.sub u v)).fab = d.fab := rfl
@[simp] theorem eth_sub (u : Nat) (v : SubPort) :
    (applyAct d (.sub u v)).eth = { d.eth with subs := d.eth.subs.set u v } := rfl
@[simp] theorem sec_sub (u : Nat) (v : SubPort) : (applyAct d (.sub u v)).sec = d.sec := rfl
@[simp] theorem ctl_sub (u : Nat) (v : SubPort) : (applyAct d (.sub u v)).ctl = d.ctl := rfl

@[simp] theorem regs_eth (t : List (List Int)) (q : List (List Nat)) (m : Int) (rx : List EthRx) (ro tn : Bool) :
    (applyAct d (.eth t q m rx ro tn)).regs = d.regs := rfl
@[simp] theorem latch_eth (t : List (List Int)) (q : List (List Nat)) (m : Int) (rx : List EthRx) (ro tn : Bool) :
    (applyAct d (.eth t q m rx ro tn)).latch = d.latch := rfl
@[simp] theorem mem_eth (t : List (List Int)) (q : List (List Nat)) (m : Int) (rx : List EthRx) (ro tn : Bool) :
    (applyAct d (.eth t q m rx ro tn)).mem = d.mem := rfl
@[simp] theorem out_eth (t : List (List Int)) (q : List (List Nat)) (m : Int) (rx : List EthRx) (ro tn : Bool) :
    (applyAct d (.eth t q m rx ro tn)).out = d.out := rfl
@[simp] theorem freeIx_eth (t : List (List Int)) (q : List (List Nat)) (m : Int) (rx : List EthRx) (ro tn : Bool) :
    (applyAct d (.eth t q m rx ro tn)).freeIx = d.freeIx := rfl
@[simp] theorem lay_eth (t : List (List Int)) (q : List (List Nat)) (m : Int) (rx : List EthRx) (ro tn : Bool) :
    (applyAct d (.eth t q m rx ro tn)).lay = d.lay := rfl
@[simp] theorem yards_eth (t : List (List Int)) (q : List (List Nat)) (m : Int) (rx : List EthRx) (ro tn : Bool) :
    (applyAct d (.eth t q m rx ro tn)).yards = d.yards := rfl
@[simp] theorem pans_eth (t : List (List Int)) (q : List (List Nat)) (m : Int) (rx : List EthRx) (ro tn : Bool) :
    (applyAct d (.eth t q m rx ro tn)).pans = d.pans := rfl
@[simp] theorem comms_eth (t : List (List Int)) (q : List (List Nat)) (m : Int) (rx : List EthRx) (ro tn : Bool) :
    (applyAct d (.eth t q m rx ro tn)).comms = d.comms := rfl
@[simp] theorem conns_eth (t : List (List Int)) (q : List (List Nat)) (m : Int) (rx : List EthRx) (ro tn : Bool) :
    (applyAct d (.eth t q m rx ro tn)).conns = d.conns := rfl
@[simp] theorem rings_eth (t : List (List Int)) (q : List (List Nat)) (m : Int) (rx : List EthRx) (ro tn : Bool) :
    (applyAct d (.eth t q m rx ro tn)).rings = d.rings := rfl
@[simp] theorem lists_eth (t : List (List Int)) (q : List (List Nat)) (m : Int) (rx : List EthRx) (ro tn : Bool) :
    (applyAct d (.eth t q m rx ro tn)).lists = d.lists := rfl
@[simp] theorem ctxs_eth (t : List (List Int)) (q : List (List Nat)) (m : Int) (rx : List EthRx) (ro tn : Bool) :
    (applyAct d (.eth t q m rx ro tn)).ctxs = d.ctxs := rfl
@[simp] theorem wins_eth (t : List (List Int)) (q : List (List Nat)) (m : Int) (rx : List EthRx) (ro tn : Bool) :
    (applyAct d (.eth t q m rx ro tn)).wins = d.wins := rfl
@[simp] theorem lcqs_eth (t : List (List Int)) (q : List (List Nat)) (m : Int) (rx : List EthRx) (ro tn : Bool) :
    (applyAct d (.eth t q m rx ro tn)).lcqs = d.lcqs := rfl
@[simp] theorem fab_eth (t : List (List Int)) (q : List (List Nat)) (m : Int) (rx : List EthRx) (ro tn : Bool) :
    (applyAct d (.eth t q m rx ro tn)).fab = d.fab := rfl
@[simp] theorem eth_eth (t : List (List Int)) (q : List (List Nat)) (m : Int) (rx : List EthRx) (ro tn : Bool) :
    (applyAct d (.eth t q m rx ro tn)).eth = { d.eth with tokens := t, rates := q, mgmtTok := m, rx := rx, rxOn := ro, txOn := tn } := rfl
@[simp] theorem sec_eth (t : List (List Int)) (q : List (List Nat)) (m : Int) (rx : List EthRx) (ro tn : Bool) :
    (applyAct d (.eth t q m rx ro tn)).sec = d.sec := rfl
@[simp] theorem ctl_eth (t : List (List Int)) (q : List (List Nat)) (m : Int) (rx : List EthRx) (ro tn : Bool) :
    (applyAct d (.eth t q m rx ro tn)).ctl = d.ctl := rfl

@[simp] theorem regs_sec (v : Sec) : (applyAct d (.sec v)).regs = d.regs := rfl
@[simp] theorem latch_sec (v : Sec) : (applyAct d (.sec v)).latch = d.latch := rfl
@[simp] theorem mem_sec (v : Sec) : (applyAct d (.sec v)).mem = d.mem := rfl
@[simp] theorem out_sec (v : Sec) : (applyAct d (.sec v)).out = d.out := rfl
@[simp] theorem freeIx_sec (v : Sec) : (applyAct d (.sec v)).freeIx = d.freeIx := rfl
@[simp] theorem lay_sec (v : Sec) : (applyAct d (.sec v)).lay = d.lay := rfl
@[simp] theorem yards_sec (v : Sec) : (applyAct d (.sec v)).yards = d.yards := rfl
@[simp] theorem pans_sec (v : Sec) : (applyAct d (.sec v)).pans = d.pans := rfl
@[simp] theorem comms_sec (v : Sec) : (applyAct d (.sec v)).comms = d.comms := rfl
@[simp] theorem conns_sec (v : Sec) : (applyAct d (.sec v)).conns = d.conns := rfl
@[simp] theorem rings_sec (v : Sec) : (applyAct d (.sec v)).rings = d.rings := rfl
@[simp] theorem lists_sec (v : Sec) : (applyAct d (.sec v)).lists = d.lists := rfl
@[simp] theorem ctxs_sec (v : Sec) : (applyAct d (.sec v)).ctxs = d.ctxs := rfl
@[simp] theorem wins_sec (v : Sec) : (applyAct d (.sec v)).wins = d.wins := rfl
@[simp] theorem lcqs_sec (v : Sec) : (applyAct d (.sec v)).lcqs = d.lcqs := rfl
@[simp] theorem fab_sec (v : Sec) : (applyAct d (.sec v)).fab = d.fab := rfl
@[simp] theorem eth_sec (v : Sec) : (applyAct d (.sec v)).eth = d.eth := rfl
@[simp] theorem sec_sec (v : Sec) : (applyAct d (.sec v)).sec = v := rfl
@[simp] theorem ctl_sec (v : Sec) : (applyAct d (.sec v)).ctl = d.ctl := rfl

@[simp] theorem regs_ctl (v : Ctl) : (applyAct d (.ctl v)).regs = d.regs := rfl
@[simp] theorem latch_ctl (v : Ctl) : (applyAct d (.ctl v)).latch = d.latch := rfl
@[simp] theorem mem_ctl (v : Ctl) : (applyAct d (.ctl v)).mem = d.mem := rfl
@[simp] theorem out_ctl (v : Ctl) : (applyAct d (.ctl v)).out = d.out := rfl
@[simp] theorem freeIx_ctl (v : Ctl) : (applyAct d (.ctl v)).freeIx = d.freeIx := rfl
@[simp] theorem lay_ctl (v : Ctl) : (applyAct d (.ctl v)).lay = d.lay := rfl
@[simp] theorem yards_ctl (v : Ctl) : (applyAct d (.ctl v)).yards = d.yards := rfl
@[simp] theorem pans_ctl (v : Ctl) : (applyAct d (.ctl v)).pans = d.pans := rfl
@[simp] theorem comms_ctl (v : Ctl) : (applyAct d (.ctl v)).comms = d.comms := rfl
@[simp] theorem conns_ctl (v : Ctl) : (applyAct d (.ctl v)).conns = d.conns := rfl
@[simp] theorem rings_ctl (v : Ctl) : (applyAct d (.ctl v)).rings = d.rings := rfl
@[simp] theorem lists_ctl (v : Ctl) : (applyAct d (.ctl v)).lists = d.lists := rfl
@[simp] theorem ctxs_ctl (v : Ctl) : (applyAct d (.ctl v)).ctxs = d.ctxs := rfl
@[simp] theorem wins_ctl (v : Ctl) : (applyAct d (.ctl v)).wins = d.wins := rfl
@[simp] theorem lcqs_ctl (v : Ctl) : (applyAct d (.ctl v)).lcqs = d.lcqs := rfl
@[simp] theorem fab_ctl (v : Ctl) : (applyAct d (.ctl v)).fab = d.fab := rfl
@[simp] theorem eth_ctl (v : Ctl) : (applyAct d (.ctl v)).eth = d.eth := rfl
@[simp] theorem sec_ctl (v : Ctl) : (applyAct d (.ctl v)).sec = d.sec := rfl
@[simp] theorem ctl_ctl (v : Ctl) : (applyAct d (.ctl v)).ctl = v := rfl

@[simp] theorem regs_cold (v : Sec) : (applyAct d (.cold v)).regs = Dev.reset.regs := rfl
@[simp] theorem latch_cold (v : Sec) : (applyAct d (.cold v)).latch = Dev.reset.latch := rfl
@[simp] theorem mem_cold (v : Sec) : (applyAct d (.cold v)).mem = Dev.reset.mem := rfl
@[simp] theorem out_cold (v : Sec) : (applyAct d (.cold v)).out = d.out := rfl
@[simp] theorem freeIx_cold (v : Sec) : (applyAct d (.cold v)).freeIx = d.freeIx := rfl
@[simp] theorem lay_cold (v : Sec) : (applyAct d (.cold v)).lay = Dev.reset.lay := rfl
@[simp] theorem yards_cold (v : Sec) : (applyAct d (.cold v)).yards = Dev.reset.yards := rfl
@[simp] theorem pans_cold (v : Sec) : (applyAct d (.cold v)).pans = Dev.reset.pans := rfl
@[simp] theorem comms_cold (v : Sec) : (applyAct d (.cold v)).comms = Dev.reset.comms := rfl
@[simp] theorem conns_cold (v : Sec) : (applyAct d (.cold v)).conns = Dev.reset.conns := rfl
@[simp] theorem rings_cold (v : Sec) : (applyAct d (.cold v)).rings = Dev.reset.rings := rfl
@[simp] theorem lists_cold (v : Sec) : (applyAct d (.cold v)).lists = Dev.reset.lists := rfl
@[simp] theorem ctxs_cold (v : Sec) : (applyAct d (.cold v)).ctxs = Dev.reset.ctxs := rfl
@[simp] theorem wins_cold (v : Sec) : (applyAct d (.cold v)).wins = Dev.reset.wins := rfl
@[simp] theorem lcqs_cold (v : Sec) : (applyAct d (.cold v)).lcqs = Dev.reset.lcqs := rfl
@[simp] theorem fab_cold (v : Sec) : (applyAct d (.cold v)).fab = Dev.reset.fab := rfl
@[simp] theorem eth_cold (v : Sec) : (applyAct d (.cold v)).eth = Dev.reset.eth := rfl
@[simp] theorem sec_cold (v : Sec) : (applyAct d (.cold v)).sec = v := rfl
@[simp] theorem ctl_cold (v : Sec) : (applyAct d (.cold v)).ctl = Dev.reset.ctl := rfl

end Sys2Proof.Machine
end

