-- ==== Sys2Proof/Laws/Tab.lean ====
section
/-! SUPPORT. The laws of the sorted maps: what an entry reads as after a put, a delete and a filter, and that each keeps
the canonical form. -/

namespace Sys2Proof.Machine

variable {α : Type}

theorem Tab.find_put_same (t : Tab α) (k : Nat) (v : α) : Tab.find (Tab.put t k v) k = some v := by
  induction t with
  | nil => simp [Tab.put, Tab.find]
  | cons e r ih =>
    obtain ⟨j, w⟩ := e
    simp only [Tab.put]
    split
    · simp [Tab.find]
    · split
      · simp [Tab.find]
      · simp only [Tab.find]
        rw [if_neg (by omega)]
        exact ih

theorem Tab.find_put_other (t : Tab α) {k j : Nat} (v : α) (h : j ≠ k) : Tab.find (Tab.put t k v) j = Tab.find t j := by
  induction t with
  | nil => simp [Tab.put, Tab.find, Ne.symm h]
  | cons e r ih =>
    obtain ⟨i, w⟩ := e
    simp only [Tab.put]
    split
    · simp [Tab.find, Ne.symm h]
    · split
      · rename_i h1 h2
        subst h2
        simp [Tab.find, Ne.symm h]
      · simp only [Tab.find, ih]

theorem Tab.find_del_other (t : Tab α) {k j : Nat} (h : j ≠ k) : Tab.find (Tab.del t k) j = Tab.find t j := by
  induction t with
  | nil => rfl
  | cons e r ih =>
    obtain ⟨i, w⟩ := e
    simp only [Tab.del]
    split
    · rename_i h1
      subst h1
      simp [Tab.find, Ne.symm h]
    · simp only [Tab.find, ih]

/-- The tail of a rising map rises. -/
theorem Tab.wf_tail {e : Nat × α} {r : Tab α} (h : Tab.wf (e :: r) = true) : Tab.wf r = true := by
  cases r with
  | nil => rfl
  | cons e2 r2 =>
    simp only [Tab.wf, Bool.and_eq_true] at h
    exact h.2

/-- Every key of the tail of a rising map is above its first key. -/
theorem Tab.wf_lt {j : Nat} {w : α} {r : Tab α} (h : Tab.wf ((j, w) :: r) = true) : ∀ e ∈ r, j < e.1 := by
  induction r generalizing j w with
  | nil => simp
  | cons e2 r2 ih =>
    obtain ⟨k, x⟩ := e2
    simp only [Tab.wf, Bool.and_eq_true, decide_eq_true_eq] at h
    intro e he
    rcases List.mem_cons.1 he with rfl | he
    · exact h.1
    · exact Nat.lt_trans h.1 (ih h.2 e he)

/-- A map rises when its tail does and its first key is below every key of the tail. -/
theorem Tab.wf_cons {j : Nat} {w : α} {r : Tab α} (h : Tab.wf r = true) (hl : ∀ e ∈ r, j < e.1) :
    Tab.wf ((j, w) :: r) = true := by
  cases r with
  | nil => rfl
  | cons e2 r2 =>
    simp only [Tab.wf, Bool.and_eq_true, decide_eq_true_eq]
    exact ⟨hl _ (List.mem_cons_self ..), h⟩

/-- A key below every key is not listed. -/
theorem Tab.find_below {t : Tab α} {k : Nat} (h : ∀ e ∈ t, k < e.1) : Tab.find t k = none := by
  induction t with
  | nil => rfl
  | cons e r ih =>
    obtain ⟨i, w⟩ := e
    have hi := h _ (List.mem_cons_self ..)
    simp only [Tab.find]
    rw [if_neg (Nat.ne_of_gt hi)]
    exact ih (fun e he => h e (List.mem_cons_of_mem _ he))

theorem Tab.find_del_same {t : Tab α} {k : Nat} (h : Tab.wf t = true) : Tab.find (Tab.del t k) k = none := by
  induction t with
  | nil => rfl
  | cons e r ih =>
    obtain ⟨i, w⟩ := e
    simp only [Tab.del]
    split
    · rename_i h1
      subst h1
      exact Tab.find_below (Tab.wf_lt h)
    · rename_i h1
      simp only [Tab.find]
      rw [if_neg h1]
      exact ih (Tab.wf_tail h)

/-- The keys of a map after a put are the old ones and the new one. -/
theorem Tab.mem_put {t : Tab α} {k : Nat} {v : α} {e : Nat × α} (h : e ∈ Tab.put t k v) : e = (k, v) ∨ e ∈ t := by
  induction t with
  | nil => simpa [Tab.put] using h
  | cons a r ih =>
    obtain ⟨i, w⟩ := a
    simp only [Tab.put] at h
    split at h
    · rcases List.mem_cons.1 h with h | h
      · exact .inl h
      · exact .inr h
    · split at h
      · rcases List.mem_cons.1 h with h | h
        · exact .inl h
        · exact .inr (List.mem_cons_of_mem _ h)
      · rcases List.mem_cons.1 h with h | h
        · exact .inr (h ▸ List.mem_cons_self ..)
        · rcases ih h with h | h
          · exact .inl h
          · exact .inr (List.mem_cons_of_mem _ h)

theorem Tab.mem_del {t : Tab α} {k : Nat} {e : Nat × α} (h : e ∈ Tab.del t k) : e ∈ t := by
  induction t with
  | nil => simp [Tab.del] at h
  | cons a r ih =>
    obtain ⟨i, w⟩ := a
    simp only [Tab.del] at h
    split at h
    · exact List.mem_cons_of_mem _ h
    · rcases List.mem_cons.1 h with h | h
      · exact h ▸ List.mem_cons_self ..
      · exact List.mem_cons_of_mem _ (ih h)

theorem Tab.wf_put {t : Tab α} (k : Nat) (v : α) (h : Tab.wf t = true) : Tab.wf (Tab.put t k v) = true := by
  induction t with
  | nil => rfl
  | cons a r ih =>
    obtain ⟨i, w⟩ := a
    have hr := Tab.wf_tail h
    have hl := Tab.wf_lt h
    simp only [Tab.put]
    split
    · rename_i hk
      refine Tab.wf_cons h (fun e he => ?_)
      rcases List.mem_cons.1 he with rfl | he
      · exact hk
      · exact Nat.lt_trans hk (hl e he)
    · split
      · rename_i hk
        subst hk
        exact Tab.wf_cons hr hl
      · refine Tab.wf_cons (ih hr) (fun e he => ?_)
        rcases Tab.mem_put he with rfl | he
        · simp only
          omega
        · exact hl e he

theorem Tab.wf_del {t : Tab α} (k : Nat) (h : Tab.wf t = true) : Tab.wf (Tab.del t k) = true := by
  induction t with
  | nil => rfl
  | cons a r ih =>
    obtain ⟨i, w⟩ := a
    simp only [Tab.del]
    split
    · exact Tab.wf_tail h
    · exact Tab.wf_cons (ih (Tab.wf_tail h)) (fun e he => Tab.wf_lt h e (Tab.mem_del he))

theorem Tab.wf_filter {t : Tab α} (p : Nat × α → Bool) (h : Tab.wf t = true) : Tab.wf (List.filter p t) = true := by
  induction t with
  | nil => rfl
  | cons a r ih =>
    obtain ⟨i, w⟩ := a
    have hr := ih (Tab.wf_tail h)
    rw [List.filter_cons]
    split
    · exact Tab.wf_cons hr (fun e he => Tab.wf_lt h e (List.mem_filter.1 he).1)
    · exact hr

theorem Tab.wf_keep {t : Tab α} (p : Nat → α → Bool) (h : Tab.wf t = true) : Tab.wf (Tab.keep t p) = true :=
  Tab.wf_filter _ h

/-! ### Number maps -/

theorem Tab.num_setNum_other (t : Tab Nat) {k j : Nat} (v : Nat) (h : j ≠ k) : Tab.num (Tab.setNum t k v) j = Tab.num t j := by
  unfold Tab.num Tab.get Tab.setNum
  split
  · rw [Tab.find_del_other _ h]
  · rw [Tab.find_put_other _ _ h]

theorem Tab.num_setNum_same {t : Tab Nat} (k v : Nat) (h : Tab.wf t = true) : Tab.num (Tab.setNum t k v) k = v := by
  unfold Tab.num Tab.get Tab.setNum
  split
  · rename_i hv
    rw [Tab.find_del_same h, hv]
    rfl
  · rw [Tab.find_put_same]
    rfl

theorem Tab.wfNum_setNum {t : Tab Nat} (k v : Nat) (h : Tab.wfNum t = true) : Tab.wfNum (Tab.setNum t k v) = true := by
  simp only [Tab.wfNum, Bool.and_eq_true, List.all_eq_true] at h ⊢
  unfold Tab.setNum
  split
  · exact ⟨Tab.wf_del k h.1, fun e he => h.2 e (Tab.mem_del he)⟩
  · rename_i hv
    refine ⟨Tab.wf_put k v h.1, fun e he => ?_⟩
    rcases Tab.mem_put he with rfl | he
    · simpa using hv
    · exact h.2 e he

theorem Tab.wfNum_keep {t : Tab Nat} (p : Nat → Nat → Bool) (h : Tab.wfNum t = true) : Tab.wfNum (Tab.keep t p) = true := by
  simp only [Tab.wfNum, Bool.and_eq_true, List.all_eq_true] at h ⊢
  exact ⟨Tab.wf_keep p h.1, fun e he => h.2 e (List.mem_filter.1 he).1⟩

end Sys2Proof.Machine
end

