-- ==== Sys2Proof/Laws/Fld.lean ====
section
/-! SUPPORT. Fields of registers: what a field reads as after a write of it, of a field beside it, of another register. -/

namespace Sys2Proof

theorem bits_lt (v l w : Nat) : bits v l w < 2 ^ w := Nat.mod_lt _ (Nat.two_pow_pos w)

/-- A field reads as what was written to it, cut to its width. -/
theorem bits_putBits_same (v l w x : Nat) : bits (putBits v l w x) l w = x % 2 ^ w := by
  unfold bits putBits
  have hl : 0 < 2 ^ l := Nat.two_pow_pos l
  have h1 : v % 2 ^ l + 2 ^ l * (x % 2 ^ w) + 2 ^ (l + w) * (v / 2 ^ (l + w)) =
      v % 2 ^ l + 2 ^ l * (x % 2 ^ w + 2 ^ w * (v / 2 ^ (l + w))) := by
    rw [Nat.pow_add, Nat.mul_add, Nat.mul_assoc, Nat.add_assoc]
  rw [h1, Nat.add_mul_div_left _ _ hl, Nat.div_eq_of_lt (Nat.mod_lt _ hl), Nat.zero_add, Nat.add_mul_mod_self_left,
    Nat.mod_mod]

/-- A field below the written one reads as before. -/
theorem bits_putBits_below (v l w x l' w' : Nat) (h : l' + w' ≤ l) : bits (putBits v l w x) l' w' = bits v l' w' := by
  unfold bits putBits
  have e : l = l' + w' + (l - (l' + w')) := by omega
  have hv : v = v % 2 ^ l + 2 ^ l * (v / 2 ^ l) := (Nat.mod_add_div v (2 ^ l)).symm
  have hp : ∀ m : Nat, (v % 2 ^ l + 2 ^ l * m) / 2 ^ l' % 2 ^ w' = v % 2 ^ l / 2 ^ l' % 2 ^ w' := by
    intro m
    have hl' : 0 < 2 ^ l' := Nat.two_pow_pos l'
    have : 2 ^ l * m = 2 ^ l' * (2 ^ w' * (2 ^ (l - (l' + w')) * m)) := by
      conv => lhs; rw [e]
      rw [Nat.pow_add, Nat.pow_add]
      simp [Nat.mul_assoc]
    rw [this, Nat.add_mul_div_left _ _ hl', Nat.add_mul_mod_self_left]
  have h1 : v % 2 ^ l + 2 ^ l * (x % 2 ^ w) + 2 ^ (l + w) * (v / 2 ^ (l + w)) =
      v % 2 ^ l + 2 ^ l * (x % 2 ^ w + 2 ^ w * (v / 2 ^ (l + w))) := by
    rw [Nat.pow_add, Nat.mul_add, Nat.mul_assoc, Nat.add_assoc]
  rw [h1, hp]
  conv => rhs; rw [hv]
  rw [hp]

/-- A field above the written one reads as before. -/
theorem bits_putBits_above (v l w x l' w' : Nat) (h : l + w ≤ l') : bits (putBits v l w x) l' w' = bits v l' w' := by
  unfold bits putBits
  have hx : v % 2 ^ l + 2 ^ l * (x % 2 ^ w) < 2 ^ (l + w) := by
    have h1 : v % 2 ^ l < 2 ^ l := Nat.mod_lt _ (Nat.two_pow_pos l)
    have h2 : x % 2 ^ w + 1 ≤ 2 ^ w := Nat.mod_lt _ (Nat.two_pow_pos w)
    calc v % 2 ^ l + 2 ^ l * (x % 2 ^ w) < 2 ^ l + 2 ^ l * (x % 2 ^ w) := Nat.add_lt_add_right h1 _
      _ = 2 ^ l * (x % 2 ^ w + 1) := by rw [Nat.mul_add, Nat.mul_one, Nat.add_comm]
      _ ≤ 2 ^ l * 2 ^ w := Nat.mul_le_mul_left _ h2
      _ = 2 ^ (l + w) := (Nat.pow_add 2 l w).symm
  have e : 2 ^ l' = 2 ^ (l + w) * 2 ^ (l' - (l + w)) := by
    rw [← Nat.pow_add]
    congr 1
    omega
  have hd : (v % 2 ^ l + 2 ^ l * (x % 2 ^ w) + 2 ^ (l + w) * (v / 2 ^ (l + w))) / 2 ^ (l + w) = v / 2 ^ (l + w) := by
    rw [Nat.add_mul_div_left _ _ (Nat.two_pow_pos _), Nat.div_eq_of_lt hx, Nat.zero_add]
  rw [e, ← Nat.div_div_eq_div_mul, hd, Nat.div_div_eq_div_mul]

theorem putBits_lt (v l w x : Nat) (h : v < 2 ^ 128) (hw : l + w ≤ 128) : putBits v l w x < 2 ^ 128 := by
  unfold putBits
  have hx : v % 2 ^ l + 2 ^ l * (x % 2 ^ w) < 2 ^ (l + w) := by
    have h1 : v % 2 ^ l < 2 ^ l := Nat.mod_lt _ (Nat.two_pow_pos l)
    have h2 : x % 2 ^ w + 1 ≤ 2 ^ w := Nat.mod_lt _ (Nat.two_pow_pos w)
    calc v % 2 ^ l + 2 ^ l * (x % 2 ^ w) < 2 ^ l + 2 ^ l * (x % 2 ^ w) := Nat.add_lt_add_right h1 _
      _ = 2 ^ l * (x % 2 ^ w + 1) := by rw [Nat.mul_add, Nat.mul_one, Nat.add_comm]
      _ ≤ 2 ^ l * 2 ^ w := Nat.mul_le_mul_left _ h2
      _ = 2 ^ (l + w) := (Nat.pow_add 2 l w).symm
  have e : 2 ^ 128 = 2 ^ (l + w) * 2 ^ (128 - (l + w)) := by rw [← Nat.pow_add]; congr 1; omega
  have hq : v / 2 ^ (l + w) + 1 ≤ 2 ^ (128 - (l + w)) := by
    apply Nat.div_lt_of_lt_mul
    rw [← e]
    exact h
  calc v % 2 ^ l + 2 ^ l * (x % 2 ^ w) + 2 ^ (l + w) * (v / 2 ^ (l + w))
      < 2 ^ (l + w) + 2 ^ (l + w) * (v / 2 ^ (l + w)) := Nat.add_lt_add_right hx _
    _ = 2 ^ (l + w) * (v / 2 ^ (l + w) + 1) := by rw [Nat.mul_add, Nat.mul_one, Nat.add_comm]
    _ ≤ 2 ^ (l + w) * 2 ^ (128 - (l + w)) := Nat.mul_le_mul_left _ hq
    _ = 2 ^ 128 := e.symm

namespace Machine

/-- The value of a register of a sound register file is below 2^128. -/
theorem num_lt {t : Tab Nat} (h : t.all (fun p => decide (p.2 < 2 ^ 128)) = true) (k : Nat) : Tab.num t k < 2 ^ 128 := by
  unfold Tab.num Tab.get
  induction t with
  | nil => simp [Tab.find]
  | cons e r ih =>
    obtain ⟨j, w⟩ := e
    simp only [List.all_cons, Bool.and_eq_true, decide_eq_true_eq] at h
    simp only [Tab.find]
    split
    · exact h.1
    · exact ih h.2

/-- A register's field after a write of another register. -/
theorem fld_reg_other (d : Dev) (k v : Nat) (f : Fld) (h : f.key ≠ k) : (applyAct d (.reg k v)).fld f = d.fld f := by
  simp only [Dev.fld, regs_reg, Tab.num_setNum_other _ _ h]

/-- A field after a write of it. -/
theorem fld_reg_same (d : Dev) (f : Fld) (v : Nat) (hw : Tab.wf d.regs = true)
    (hr : d.regs.all (fun p => decide (p.2 < 2 ^ 128)) = true) (hf : f.lsb + f.w ≤ 128) :
    (applyAct d (.reg f.key (putBits (Tab.num d.regs f.key) f.lsb f.w v))).fld f = v % 2 ^ f.w := by
  simp only [Dev.fld, regs_reg, Tab.num_setNum_same _ _ hw]
  rw [Nat.mod_eq_of_lt (putBits_lt _ _ _ _ (num_lt hr _) hf), bits_putBits_same]

/-- A field after a write of a field beside it in the same register. -/
theorem fld_reg_beside (d : Dev) (f g : Fld) (v : Nat) (hw : Tab.wf d.regs = true)
    (hr : d.regs.all (fun p => decide (p.2 < 2 ^ 128)) = true) (hg : g.lsb + g.w ≤ 128) (hk : f.key = g.key)
    (h : f.lsb + f.w ≤ g.lsb ∨ g.lsb + g.w ≤ f.lsb) :
    (applyAct d (.reg g.key (putBits (Tab.num d.regs g.key) g.lsb g.w v))).fld f = d.fld f := by
  simp only [Dev.fld, hk, regs_reg, Tab.num_setNum_same _ _ hw]
  rw [Nat.mod_eq_of_lt (putBits_lt _ _ _ _ (num_lt hr _) hg)]
  rcases h with h | h
  · exact bits_putBits_below _ _ _ _ _ _ h
  · exact bits_putBits_above _ _ _ _ _ _ h

/-- A field after an update that writes no register. -/
theorem fld_regs_eq {a b : Dev} (h : a.regs = b.regs) (f : Fld) : a.fld f = b.fld f := by simp only [Dev.fld, h]

end Machine

end Sys2Proof
end

