-- ==== Sys2Proof/Laws/Memory.lean ====
section
/-! SUPPORT. Storage: one byte after a write of one byte, and that every operation keeps the canonical form. -/

namespace Sys2Proof.Machine

theorem Memory.byte_setByte_other (m : Memory) {a x : Nat} (b : Byte) (h : x ≠ a) : (m.setByte a b).byte x = m.byte x := by
  unfold Memory.setByte
  split
  · simp only [Memory.byte, Tab.find_del_other _ h]
    rfl
  · simp only [Memory.byte, Tab.find_put_other _ _ h]
    rfl

theorem Memory.byte_setByte_same (m : Memory) (a : Nat) (b : Byte) (h : Tab.wf m.cells = true) (hv : openSeed m.veils a = none) :
    (m.setByte a b).byte a = b := by
  unfold Memory.setByte
  split
  · rename_i hb
    simp only [Memory.byte, Tab.find_del_same h, Memory.background, hb.2, hb.1, hv]
    rfl
  · simp only [Memory.byte, Tab.find_put_same, hv]
    rfl

/-- The canonical form, in words: rising addresses, and a listed zero only inside an open range. -/
theorem Memory.wf_iff (m : Memory) : m.wf = true ↔
    Tab.wf m.cells = true ∧ ∀ c ∈ m.cells, c.2 ≠ 0 ∨ (openSeed m.opened c.1).isSome = true := by
  simp [Memory.wf, List.all_eq_true]

theorem Memory.wf_setByte {m : Memory} (a : Nat) (b : Byte) (h : m.wf = true) : (m.setByte a b).wf = true := by
  rw [Memory.wf_iff] at h ⊢
  unfold Memory.setByte
  split
  · exact ⟨Tab.wf_del a h.1, fun c hc => h.2 c (Tab.mem_del hc)⟩
  · rename_i hb
    refine ⟨Tab.wf_put a b h.1, fun c hc => ?_⟩
    rcases Tab.mem_put hc with rfl | hc
    · by_cases h0 : b = 0
      · right
        have : openSeed m.opened a ≠ none := fun e => hb ⟨h0, e⟩
        exact Option.isSome_iff_ne_none.2 this
      · exact .inl h0
    · exact h.2 c hc

theorem Memory.wf_under {m : Memory} (a : Nat) (bs : List Byte) (h : m.wf = true) : (m.under a bs).wf = true := by
  induction bs generalizing m a with
  | nil => exact h
  | cons b bs ih => exact ih (a + 1) (Memory.wf_setByte a b h)

/-- Lifting a veil keeps the canonical form. -/
theorem Memory.wf_unveil {m : Memory} (lo len : Nat) (h : m.wf = true) : (m.unveil lo len).wf = true := h

/-- A veil keeps the canonical form. -/
theorem Memory.wf_veil {m : Memory} (lo len seed : Nat) (h : m.wf = true) : (m.veil lo len seed).wf = true := h

/-- A write keeps the canonical form. -/
theorem Memory.wf_write {m : Memory} (a : Nat) (bs : List Byte) (h : m.wf = true) : (m.write a bs).wf = true :=
  Memory.wf_under a bs (Memory.wf_unveil a bs.length h)

/-- Marking units keeps the canonical form. -/
theorem Memory.wf_uc {m : Memory} (us : List Nat) (h : m.wf = true) : ({ m with uc := us } : Memory).wf = true := h

/-- A range whose contents become unspecified keeps the canonical form. -/
theorem Memory.wf_spoil {m : Memory} (lo len seed : Nat) (h : m.wf = true) : (m.spoil lo len seed).wf = true := by
  rw [Memory.wf_iff] at h ⊢
  refine ⟨Tab.wf_filter _ h.1, fun c hc => ?_⟩
  have hc' := List.mem_filter.1 hc
  rcases h.2 c hc'.1 with h0 | h0
  · exact .inl h0
  · right
    have : inRange c.1 lo len = false := by simpa using hc'.2
    simpa [Memory.spoil, openSeed, this] using h0

/-- An address outside a range taken out stays in the range that held it. -/
theorem openSeed_carve_other (rs : List OpenRange) (lo len x : Nat) (hx : inRange x lo len = false) :
    openSeed (carve rs lo len) x = openSeed rs x := by
  unfold carve
  induction rs with
  | nil => rfl
  | cons r t ih =>
    have hx' : x < lo ∨ lo + len ≤ x := by
      simp only [inRange, Bool.and_eq_false_iff, decide_eq_false_iff_not] at hx
      omega
    simp only [List.flatMap_cons]
    split
    · simp only [List.cons_append, List.nil_append, openSeed, ih]
    · split <;> split <;>
        simp only [List.cons_append, List.nil_append, List.append_nil, openSeed, inRange, Bool.and_eq_true,
          decide_eq_true_eq, ih] <;> (repeat' split) <;> first | rfl | omega

/-- An address of a range taken out is in no range. -/
theorem openSeed_carve_same (rs : List OpenRange) (lo len x : Nat) (hx : inRange x lo len = true) :
    openSeed (carve rs lo len) x = none := by
  unfold carve
  induction rs with
  | nil => rfl
  | cons r t ih =>
    have hx' : lo ≤ x ∧ x < lo + len := by simpa [inRange] using hx
    simp only [List.flatMap_cons]
    split
    · rename_i h
      have : ¬(r.lo ≤ x ∧ x < r.lo + r.len) := by omega
      simp only [List.cons_append, List.nil_append, openSeed, inRange, Bool.and_eq_true, decide_eq_true_eq, this, if_false, ih]
    · split <;> split <;>
        simp only [List.cons_append, List.nil_append, List.append_nil, openSeed, inRange, Bool.and_eq_true,
          decide_eq_true_eq, ih] <;> (repeat' split) <;> first | rfl | omega

/-- A clear keeps the canonical form. -/
theorem Memory.wf_clear {m : Memory} (lo len : Nat) (h : m.wf = true) : (m.clear lo len).wf = true := by
  rw [Memory.wf_iff] at h ⊢
  refine ⟨Tab.wf_filter _ h.1, fun c hc => ?_⟩
  have hc' := List.mem_filter.1 hc
  rcases h.2 c hc'.1 with h0 | h0
  · exact .inl h0
  · right
    have hx : inRange c.1 lo len = false := by simpa using hc'.2
    have e := openSeed_carve_other m.opened lo len c.1 hx
    unfold Memory.clear
    rw [e]
    exact h0

end Sys2Proof.Machine
end

