-- ==== Sys2Proof/Laws/Run.lean ====
section
/-! SUPPORT. How a meaning runs: each combinator of the monad applied to a device. -/

namespace Sys2Proof.Machine

variable {d0 : Dev} {α β : Type}

/-- The devices a meaning works on: those that primitive updates make of `d0`. -/
abbrev Dv (d0 : Dev) := { d : Dev // Steps d0 d }

@[simp] theorem pure_run (a : α) (s : Dv d0) : (pure a : M d0 α) s = (a, s) := rfl

@[simp] theorem bind_run (m : M d0 α) (f : α → M d0 β) (s : Dv d0) : (m >>= f) s = f (m s).1 (m s).2 := rfl

@[simp] theorem map_run (f : α → β) (m : M d0 α) (s : Dv d0) : (f <$> m) s = (f (m s).1, (m s).2) := rfl

@[simp] theorem dev_run (s : Dv d0) : (dev : M d0 Dev) s = (s.val, s) := rfl

@[simp] theorem act_run_fst (a : Act) (s : Dv d0) : ((act a : M d0 Unit) s).1 = () := rfl

@[simp] theorem act_run (a : Act) (s : Dv d0) : ((act a : M d0 Unit) s).2.val = applyAct s.val a := rfl

@[simp] theorem ite_run (c : Prop) [Decidable c] (x y : M d0 α) (s : Dv d0) :
    (if c then x else y) s = if c then x s else y s := by split <;> rfl

/-- Reading the device hands it on. With this lemma, and not `bind_run` with `dev_run`, the decision of a test that follows
speaks of the device itself, so that `ite_run` applies. -/
@[simp] theorem dev_bind_run (f : Dev → M d0 β) (s : Dv d0) : (dev >>= f : M d0 β) s = f s.val s := rfl

@[simp] theorem act_bind_run (a : Act) (f : Unit → M d0 β) (s : Dv d0) :
    (act a >>= f : M d0 β) s = f () ⟨applyAct s.val a, s.property.act a⟩ := rfl

@[simp] theorem pure_bind_run (a : α) (f : α → M d0 β) (s : Dv d0) : (pure a >>= f : M d0 β) s = f a s := rfl

@[simp] theorem each_nil_run (f : α → M d0 Unit) (s : Dv d0) : (each [] f : M d0 Unit) s = ((), s) := rfl

@[simp] theorem each_cons_run (x : α) (xs : List α) (f : α → M d0 Unit) (s : Dv d0) :
    (each (x :: xs) f : M d0 Unit) s = (each xs f : M d0 Unit) (f x s).2 := rfl

theorem perform_eq (s : State) (m : M s.dev Unit) :
    perform s m = .next { s with dev := (m ⟨s.dev, Steps.refl s.dev⟩).2.val } := rfl

end Sys2Proof.Machine
end

