-- ==== Sys2Proof/Laws/Ops.lean ====
section
/-! SUPPORT. The shared operations: for each, once, the device it leaves and the value it answers. -/

namespace Sys2Proof.Machine

variable {d0 : Dev}

/-- The device after a meaning. -/
abbrev M.after {α : Type} (m : M d0 α) (s : Dv d0) : Dev := (m s).2.val

/-- What a meaning answers. -/
abbrev M.answer {α : Type} (m : M d0 α) (s : Dv d0) : α := (m s).1

@[simp] theorem rd_run (f : Fld) (s : Dv d0) : (rd f : M d0 Nat) s = (s.val.fld f, s) := rfl

@[simp] theorem wr_after (f : Fld) (v : Nat) (s : Dv d0) : ((wr f v : M d0 Unit) s).2.val =
    applyAct s.val (.reg f.key (putBits (Tab.num s.val.regs f.key) f.lsb f.w v)) := rfl

@[simp] theorem bump_after (f : Fld) (n : Nat) (s : Dv d0) : ((bump f n : M d0 Unit) s).2.val =
    applyAct s.val (.reg f.key (putBits (Tab.num s.val.regs f.key) f.lsb f.w (s.val.fld f + n))) := rfl

@[simp] theorem drop_after (f : Fld) (n : Nat) (s : Dv d0) : ((drop f n : M d0 Unit) s).2.val =
    applyAct s.val (.reg f.key (putBits (Tab.num s.val.regs f.key) f.lsb f.w (s.val.fld f - n))) := rfl

@[simp] theorem orBits_after (f : Fld) (v : Nat) (s : Dv d0) : ((orBits f v : M d0 Unit) s).2.val =
    applyAct s.val (.reg f.key (putBits (Tab.num s.val.regs f.key) f.lsb f.w (Nat.lor (s.val.fld f) v))) := rfl

@[simp] theorem emit_after (o : Out) (s : Dv d0) : ((emit o : M d0 Unit) s).2.val = applyAct s.val (.out o) := rfl

@[simp] theorem fresh_run (s : Dv d0) : (fresh : M d0 Nat) s =
    (Config.freeNat s.val.freeIx, ⟨applyAct s.val .free, s.property.act .free⟩) := rfl

@[simp] theorem freshBool_run (s : Dv d0) : (freshBool : M d0 Bool) s =
    (Config.freeBool s.val.freeIx, ⟨applyAct s.val .free, s.property.act .free⟩) := rfl

@[simp] theorem modYard_after (y : Nat) (f : Yard → Yard) (s : Dv d0) : ((modYard y f : M d0 Unit) s).2.val =
    applyAct s.val (.yard y (f (s.val.yard y))) := rfl

@[simp] theorem modCtl_after (f : Ctl → Ctl) (s : Dv d0) : ((modCtl f : M d0 Unit) s).2.val =
    applyAct s.val (.ctl (f s.val.ctl)) := rfl

@[simp] theorem modSec_after (f : Sec → Sec) (s : Dv d0) : ((modSec f : M d0 Unit) s).2.val =
    applyAct s.val (.sec (f s.val.sec)) := rfl

@[simp] theorem modLay_after (f : Lay → Lay) (s : Dv d0) : ((modLay f : M d0 Unit) s).2.val =
    applyAct s.val (.lay (f s.val.lay)) := rfl

@[simp] theorem modConn_after (y n : Nat) (f : Conn → Conn) (s : Dv d0) : ((modConn y n f : M d0 Unit) s).2.val =
    applyAct s.val (.conn (yk y n) (some (f (s.val.conn y n)))) := rfl

/-- The record of a yard after a change of one. -/
theorem yard_act (d : Dev) (y z : Nat) (v : Yard) : (applyAct d (.yard y v)).yard z = if z = y then v else d.yard z := by
  simp only [Dev.yard, yards_yard, Tab.get]
  split
  · rename_i h
    subst h
    rw [Tab.find_put_same]
    rfl
  · rename_i h
    rw [Tab.find_put_other _ _ h]

/-- A connection after a change of one. -/
theorem conn_act (d : Dev) (k : Nat) (v : Conn) (y n : Nat) :
    (applyAct d (.conn k (some v))).conn y n = if yk y n = k then v else d.conn y n := by
  simp only [Dev.conn, conns_conn, putOpt, Tab.get]
  split
  · rename_i h
    rw [h, Tab.find_put_same]
    rfl
  · rename_i h
    rw [Tab.find_put_other _ _ h]

/-- Raising a vector of a function does one thing: the message while its entry is open, else the pending bit (R318). -/
theorem irqFn_after (fn v : Nat) (s : Dv d0) : ((irqFn fn v : M d0 Unit) s).2.val =
    if Tab.num s.val.ctl.msixOpen (mk fn v) ≠ 0 then applyAct s.val (.out (.msix fn v (Tab.num s.val.ctl.msixEnt (mk fn v))))
    else applyAct s.val (.ctl { s.val.ctl with msixPend := Tab.setNum s.val.ctl.msixPend (mk fn v) 1 }) := by
  simp only [irqFn, dev_bind_run, ite_run, bne_iff_ne]
  split <;> rfl

/-- Raising a vector of the physical function: nothing while its enable is clear. -/
theorem irqPf_after (en vec : Fld) (s : Dv d0) : ((irqPf en vec : M d0 Unit) s).2.val =
    if s.val.on en then ((irqFn 0 (s.val.fld vec) : M d0 Unit) s).2.val else s.val := by
  simp only [irqPf, dev_bind_run, ite_run]
  split <;> rfl

/-- Raising a vector of a yard: nothing while it may not issue interrupts (R296, R315, R436). -/
theorem irqYard_after (y v : Nat) (s : Dv d0) : ((irqYard y v : M d0 Unit) s).2.val =
    if s.val.canMaster y then ((irqFn (y + 1) v : M d0 Unit) s).2.val else s.val := by
  simp only [irqYard, dev_bind_run, ite_run]
  split <;> rfl

/-- A write of data to host memory for a yard: nothing while it may not master the bus, or when there is nothing to write; with
Relaxed Ordering when RO_DATA asks for it (R310). -/
theorem hostWr_after (y pasid va : Nat) (bs : List Byte) (s : Dv d0) : ((hostWr y pasid va bs : M d0 Unit) s).2.val =
    if s.val.canMaster y && !bs.isEmpty then
      applyAct s.val (.out (.hostVWrite (y + 1) pasid va bs (bit (s.val.fld (R.YRD_HOST_CTRL y)) 0)))
    else s.val := by
  simp only [hostWr, dev_bind_run, ite_run]
  split <;> rfl

/-- A write of a completion to host memory for a yard: the same, without Relaxed Ordering (R310). -/
theorem hostPost_after (y pasid va : Nat) (bs : List Byte) (s : Dv d0) : ((hostPost y pasid va bs : M d0 Unit) s).2.val =
    if s.val.canMaster y && !bs.isEmpty then applyAct s.val (.out (.hostVWrite (y + 1) pasid va bs)) else s.val := by
  simp only [hostPost, dev_bind_run, ite_run]
  split <;> rfl

/-- A write to a host bus address, likewise. -/
theorem hostBus_after (y a : Nat) (bs : List Byte) (s : Dv d0) : ((hostBus y a bs : M d0 Unit) s).2.val =
    if s.val.canMaster y && !bs.isEmpty then applyAct s.val (.out (.hostWrite (y + 1) a bs)) else s.val := by
  simp only [hostBus, dev_bind_run, ite_run]
  split <;> rfl

/-- A descriptor fetch: what the host answered, and the read it saw, when the yard may master the bus; else none. -/
theorem fetchDesc_run (y a len : Nat) (desc : Option (List Byte)) (s : Dv d0) : (fetchDesc y a len desc : M d0 _) s =
    if s.val.canMaster y then (desc, ⟨applyAct s.val (.out (.hostRead (y + 1) a len)), s.property.act _⟩)
    else (none, s) := by
  simp only [fetchDesc, dev_bind_run, ite_run]
  split <;> rfl

/-- A local read answers the bytes and changes nothing, unless it meets a unit that cannot be read, which it logs. -/
theorem readMem_run (y tier a len : Nat) (s : Dv d0) : (readMem y tier a len : M d0 _) s =
    match s.val.badUnit y tier a len with
    | some u => (none, ((logUc y tier u : M d0 Unit) s).2)
    | none => (some (s.val.mem.read (s.val.addr y tier a) len), s) := by
  simp only [readMem, dev_bind_run]
  cases s.val.badUnit y tier a len <;> rfl

/-- A local write of a tier whose ports are up, when no unit is marked, stores the bytes and nothing else. -/
theorem writeMem_clean (y tier a : Nat) (bs : List Byte) (s : Dv d0) (hu : s.val.mem.uc = [])
    (hp : (tier == 2 && (unitsIn 2 a bs.length).any (fun t => s.val.farDown y t)) = false) (hb : bs ≠ []) :
    ((writeMem y tier a bs : M d0 Bool) s).2.val =
      applyAct (applyAct s.val (.poke (s.val.addr y tier a) bs)) (.uc []) ∧
    ((writeMem y tier a bs : M d0 Bool) s).1 = true := by
  have hl : bs.length ≠ 0 := by simpa [List.length_eq_zero_iff] using hb
  simp only [writeMem, writeMemIn, putMem, dev_bind_run, ite_run, hu, List.find?_nil, List.filter_nil, hl, if_false, hp,
    Bool.false_eq_true, act_bind_run]
  exact ⟨rfl, rfl⟩

end Sys2Proof.Machine
end

