-- ==== Sys2Proof/Laws/Only.lean ====
section
/-! SUPPORT. What a meaning can do, said by the primitive updates it is made of: one lemma per combinator and per shared
operation, so that a frame of a command is a walk over its text. -/

namespace Sys2Proof.Machine

variable {d0 : Dev} {α β : Type} {P Q : Act → Prop}

/-- Every primitive update that `m` makes satisfies `P`. -/
def Only (P : Act → Prop) (m : M d0 α) : Prop :=
  ∀ s : Dv d0, ∃ as : List Act, (∀ a ∈ as, P a) ∧ (m s).2.val = as.foldl applyAct s.val

theorem Only.mono {m : M d0 α} (h : Only P m) (hpq : ∀ a, P a → Q a) : Only Q m := by
  intro s
  obtain ⟨as, h1, h2⟩ := h s
  exact ⟨as, fun a ha => hpq a (h1 a ha), h2⟩

theorem Only.pure (a : α) : Only P (pure a : M d0 α) := fun _ => ⟨[], by simp, rfl⟩

theorem Only.dev : Only P (dev : M d0 Dev) := fun _ => ⟨[], by simp, rfl⟩

theorem Only.act {a : Act} (h : P a) : Only P (act a : M d0 Unit) := fun _ => ⟨[a], by simpa using h, rfl⟩

theorem Only.bind {m : M d0 α} {f : α → M d0 β} (hm : Only P m) (hf : ∀ a, Only P (f a)) : Only P (m >>= f) := by
  intro s
  obtain ⟨as, h1, h2⟩ := hm s
  obtain ⟨bs, h3, h4⟩ := hf (m s).1 (m s).2
  refine ⟨as ++ bs, fun a ha => ?_, ?_⟩
  · rcases List.mem_append.1 ha with ha | ha
    · exact h1 a ha
    · exact h3 a ha
  · rw [bind_run, h4, h2, List.foldl_append]

theorem Only.map {f : α → β} {m : M d0 α} (hm : Only P m) : Only P (f <$> m) := fun s => hm s

theorem Only.ite {c : Prop} [Decidable c] {x y : M d0 α} (hx : Only P x) (hy : Only P y) : Only P (if c then x else y) := by
  split
  · exact hx
  · exact hy

theorem Only.each {xs : List α} {f : α → M d0 Unit} (h : ∀ x, Only P (f x)) : Only P (each xs f) := by
  induction xs with
  | nil => exact Only.pure ()
  | cons x xs ih => exact Only.bind (h x) (fun _ => ih)

theorem Only.eachUntil {xs : List α} {f : α → M d0 Bool} (h : ∀ x, Only P (f x)) : Only P (eachUntil xs f) := by
  induction xs with
  | nil => exact Only.pure ()
  | cons x xs ih => exact Only.bind (h x) (fun _ => Only.ite (Only.pure ()) ih)

theorem Only.upTo {n : Nat} {f : M d0 Bool} (h : Only P f) : Only P (upTo n f) := by
  induction n with
  | zero => exact Only.pure ()
  | succ n ih => exact Only.bind h (fun _ => Only.ite ih (Only.pure ()))

theorem Only.gather {xs : List α} {f : α → M d0 β} (h : ∀ x, Only P (f x)) : Only P (gather xs f) := by
  induction xs with
  | nil => exact Only.pure []
  | cons x xs ih => exact Only.bind (h x) (fun _ => Only.bind ih (fun _ => Only.pure _))

theorem Only.rd (f : Fld) : Only P (rd f : M d0 Nat) := fun _ => ⟨[], by simp, rfl⟩

theorem Only.wr {f : Fld} (v : Nat) (h : ∀ x, P (.reg f.key x)) : Only P (wr f v : M d0 Unit) :=
  Only.bind Only.dev (fun _ => Only.act (h _))

theorem Only.bump {f : Fld} (n : Nat) (h : ∀ x, P (.reg f.key x)) : Only P (bump f n : M d0 Unit) :=
  Only.bind (Only.rd f) (fun _ => Only.wr _ h)

theorem Only.drop {f : Fld} (n : Nat) (h : ∀ x, P (.reg f.key x)) : Only P (drop f n : M d0 Unit) :=
  Only.bind (Only.rd f) (fun _ => Only.wr _ h)

theorem Only.orBits {f : Fld} (v : Nat) (h : ∀ x, P (.reg f.key x)) : Only P (orBits f v : M d0 Unit) :=
  Only.bind (Only.rd f) (fun _ => Only.wr _ h)

theorem Only.emit {o : Out} (h : P (.out o)) : Only P (emit o : M d0 Unit) := Only.act h

theorem Only.modYard {y : Nat} (f : Yard → Yard) (h : ∀ v, P (.yard y v)) : Only P (modYard y f : M d0 Unit) :=
  Only.bind Only.dev (fun _ => Only.act (h _))

theorem Only.irqFn (fn v : Nat) (h : ∀ o, P (.out o)) (hc : ∀ c, P (.ctl c)) : Only P (irqFn fn v : M d0 Unit) :=
  Only.bind Only.dev (fun _ => Only.ite (Only.emit (h _)) (Only.act (hc _)))

theorem Only.irqPf (en vec : Fld) (h : ∀ o, P (.out o)) (hc : ∀ c, P (.ctl c)) : Only P (irqPf en vec : M d0 Unit) :=
  Only.bind Only.dev (fun _ => Only.ite (Only.irqFn _ _ h hc) (Only.pure ()))

theorem Only.irqYard (y v : Nat) (h : ∀ o, P (.out o)) (hc : ∀ c, P (.ctl c)) : Only P (irqYard y v : M d0 Unit) :=
  Only.bind Only.dev (fun _ => Only.ite (Only.irqFn _ _ h hc) (Only.pure ()))

/-- What every update of a kind keeps, a meaning of only such updates keeps. -/
theorem Only.keeps {m : M d0 α} (h : Only P m) (K : Dev → Dev → Prop) (hr : ∀ d, K d d)
    (ht : ∀ a b c, K a b → K b c → K a c) (ha : ∀ d a, P a → K d (applyAct d a)) (s : Dv d0) : K s.val (m s).2.val := by
  obtain ⟨as, h1, h2⟩ := h s
  rw [h2]
  clear h2
  generalize s.val = d
  induction as generalizing d with
  | nil => exact hr d
  | cons a as ih =>
    exact ht _ _ _ (ha d a (h1 a (List.mem_cons_self ..))) (ih (fun b hb => h1 b (List.mem_cons_of_mem _ hb)) _)

/-- Every meaning is made of primitive updates. -/
theorem Only.any (m : M d0 α) (s : Dv d0) : ∃ as : List Act, (m s).2.val = as.foldl applyAct d0 := (m s).2.property

end Sys2Proof.Machine
end

