-- ==== Sys2Proof/WellFormed.lean ====
section
/-! DEFINITION. Well-formed commands: every operand in the range its rule gives it. A meaning is total all the same: an
operand out of range names a unit that does not exist, and the command has no effect there. -/

namespace Sys2Proof

namespace Wf

/-- `x` is below `n`. -/
def lt (x n : Nat) : Bool := decide (x < n)

/-- A bay number (R26). -/
def bay (x : Nat) : Bool := lt x 12

/-- A 32-bit and a 64-bit value. -/
def word (x : Nat) : Bool := lt x (2 ^ 32)
def dword (x : Nat) : Bool := lt x (2 ^ 64)

/-- An offset in BAR0 (at most 64 MiB, R297), or one in BAR2 as its accesses name it (log 8). -/
def barOff (x : Nat) : Bool := lt x (2 ^ 26) || (decide (2 ^ 32 ≤ x) && lt x (2 ^ 32 + 0x8100))

/-- Exactly, at most `n` bytes. -/
def size (bs : List Byte) (n : Nat) : Bool := bs.length == n
def most (bs : List Byte) (n : Nat) : Bool := decide (bs.length ≤ n)

/-- A descriptor of `n` bytes, when it could be read. -/
def optSize (d : Option (List Byte)) (n : Nat) : Bool :=
  match d with
  | none => true
  | some bs => size bs n

end Wf

open Wf

/-- A master that exists (R20). -/
def Master.wf : Master → Bool
  | .security | .pf | .bmc => true
  | .deviceCore i => lt i 2
  | .bayCore b => bay b
  | .yard y => bay y

/-- A transport that exists (R422). -/
def Transport.wf : Transport → Bool
  | .pfDoe | .mctp => true
  | .yardDoe y => bay y

/-- The field widths of R259. -/
def WrtHdr.wf (h : WrtHdr) : Bool :=
  lt h.conn (2 ^ 24) && lt h.inc 256 && word h.psn && lt h.src 65536 && word h.ts

/-- The WRT header of a ring packet, when it came over a WRT hop. -/
def hopWf (w : Option WrtHdr) : Bool := w.all WrtHdr.wf

/-- The field widths of R143. -/
def LapHdr.wf (h : LapHdr) : Bool :=
  lt h.src 65536 && lt h.ringId 65536 && lt h.attempt 256 && lt h.opseq 65536 && word h.step && lt h.seg 65536 &&
  lt h.substep 65536 && lt h.chunk (2 ^ 40) && lt h.pkt 4096 && lt h.zmask 65536 && word h.crc && hopWf h.wrt

/-- The field widths of R143. -/
def CtlHdr.wf (h : CtlHdr) : Bool :=
  lt h.src 65536 && lt h.nonce (2 ^ 48) && lt h.ringId 65536 && lt h.attempt 256 && lt h.opseq 65536 && word h.step &&
  lt h.code 256 && lt h.origin 4096 && lt h.cause 256 && lt h.verdict 256 && lt h.passed 65536 && hopWf h.wrt

/-- The field widths of R262. -/
def AckExt.wf (e : AckExt) : Bool :=
  lt e.syndrome 256 && lt e.rnrTime 16 && lt e.ecnCount 65536 && word e.nakPsn && word e.tsEcho && word e.rxDelay &&
  e.sack.all (fun j => lt j 256)

/-- The field widths of R364. -/
def TransitHdr.wf (h : TransitHdr) : Bool :=
  lt h.typ 256 && lt h.vc 8 && lt h.flits 128 && lt h.pad 64 && lt h.dst 65536 && lt h.src 65536 && lt h.rank 256 &&
  lt h.hops 256 && lt h.nonce (2 ^ 48) && h.body.length == 32

/-- The field widths of R368. -/
def Hello.wf (h : Hello) : Bool := lt h.addr 65536 && h.buf.length == 8

/-- A frame: its length counts from the destination address through the FCS (R393). -/
def EthFrame.wf (f : EthFrame) : Bool := lt f.dstMac (2 ^ 48) && lt f.etherType 65536 && lt f.dscp 64 && lt f.udpPort 65536

/-- A trailer: FSEQ and ACK are 12 bits (R358, R359), one credit count for each VC. -/
def FrameTrailer.wf (f : FrameTrailer) : Bool := lt f.fseq 4096 && lt f.ack 4096 && f.credit.length == 8

/-- The field widths of R367. -/
def OpenReq.wf (r : OpenReq) : Bool := lt r.buf 65536 && lt r.kind 256 && dword r.length && word r.slots && dword r.slotBytes && dword r.scaleOff

/-- Whether every operand of a command is in its range. -/
def Instr.wf : Instr → Bool
  | .registerWrite m off width value => m.wf && barOff off && (width == 32 || width == 64 || width == 128) && lt value (2 ^ width)
  | .wrongWidthAccess m off logBytes _ => m.wf && barOff off && lt logBytes 7
  | .directSetWrite m off width value => m.wf && barOff off && (width == 32 || width == 64 || width == 128) && lt value (2 ^ width)
  | .fetch => true
  | .layoutFetchDone _ => true
  | .validate => true
  | .layoutCheckDone => true
  | .discard => true
  | .layCommit value => word value
  | .layoutCommitApply => true
  | .laySetCmd value => word value
  | .yrdSetCmd y value => bay y && word value
  | .setApply _ y _ => bay y
  | .panBeat b k _ => bay b && lt k 4
  | .contextReady b k x _ _ => bay b && lt k 4 && lt x 8
  | .panKatCmd y value => bay y && word value
  | .panCvtCmd y value => bay y && word value
  | .panTestDone y _ => bay y
  | .load y => bay y
  | .planLoadDone y _ => bay y
  | .start y => bay y
  | .stop y => bay y
  | .unload y => bay y
  | .planUnloadDone y => bay y
  | .clear y => bay y
  | .iterationStart y => bay y
  | .stepComplete y t => bay y && lt t 12
  | .move y t _ => bay y && lt t 12
  | .reduceLap y t _ => bay y && lt t 12
  | .gatherLap y t _ => bay y && lt t 12
  | .seal y t => bay y && lt t 12
  | .update y t => bay y && lt t 12
  | .select y t _ => bay y && lt t 12
  | .demand y t _ => bay y && lt t 12
  | .stream y t _ => bay y && lt t 12
  | .wait y t => bay y && lt t 12
  | .waitSatisfied y t => bay y && lt t 12
  | .signal y t => bay y && lt t 12
  | .loop y t => bay y && lt t 12
  | .stepWatchdogExpiry y t => bay y && lt t 12
  | .plnEventAdd y value => bay y && word value
  | .lapPacket y h payload _ _ => bay y && h.wf && most payload 4096
  | .sealPacket y h _ => bay y && h.wf
  | .sealReturn y h _ => bay y && h.wf
  | .verdict y h _ => bay y && h.wf
  | .abort y h _ => bay y && h.wf
  | .trnCommResolve y value => bay y && word value
  | .openBuf y src nonce r _ => bay y && lt src 65536 && lt nonce (2 ^ 48) && r.wf
  | .closeBuf y src nonce buf _ => bay y && lt src 65536 && lt nonce (2 ^ 48) && lt buf 65536
  | .closeAck y src buf => bay y && lt src 65536 && lt buf 65536
  | .grant y src nonce buf epoch limit _ => bay y && lt src 65536 && lt nonce (2 ^ 48) && lt buf 65536 && word epoch && dword limit
  | .deliveryEmit y t d _ => bay y && lt t 12 && lt d 12
  | .landAns y src ansId status reason buf _ => bay y && lt src 65536 && word ansId && lt status 256 && lt reason 256 && lt buf 65536
  | .shedSlotFilled y t slot => bay y && lt t 12 && word slot
  | .drvShedFlush y value => bay y && word value
  | .create y conn desc => bay y && lt conn 73728 && optSize desc 128
  | .connect y conn desc => bay y && lt conn 73728 && optSize desc 128
  | .modify y conn desc => bay y && lt conn 73728 && optSize desc 128
  | .rehome y conn desc => bay y && lt conn 73728 && optSize desc 128
  | .disconnect y conn => bay y && lt conn 73728
  | .destroy y conn => bay y && lt conn 73728
  | .query y conn => bay y && lt conn 73728
  | .matchCreate y list desc => bay y && lt list 768 && optSize desc 64
  | .matchDestroy y list => bay y && lt list 768
  | .quarantineExpiry y conn => bay y && lt conn 73728
  | .connDrainDone y conn => bay y && lt conn 73728
  | .send y h msn msgLen msgOff payload _ => bay y && h.wf && word msn && dword msgLen && dword msgOff && most payload 4096
  | .sendImm y h msn imm msgLen msgOff payload _ => bay y && h.wf && word msn && word imm && dword msgLen && dword msgOff && most payload 4096
  | .tsend y h msn msgLen msgOff tag payload _ => bay y && h.wf && word msn && dword msgLen && dword msgOff && dword tag && most payload 4096
  | .rts y h msn handle msgLen tag => bay y && h.wf && word msn && word handle && dword msgLen && dword tag
  | .write y h msn msgLen off wkey payload _ => bay y && h.wf && word msn && dword msgLen && dword off && word wkey && most payload 4096
  | .writeImm y h msn imm msgLen off wkey payload _ => bay y && h.wf && word msn && word imm && dword msgLen && dword off && word wkey && most payload 4096
  | .readReq y h msn handle readLen off wkey _ => bay y && h.wf && word msn && word handle && dword readLen && dword off && word wkey
  | .readRsp y h msn readLen off payload => bay y && h.wf && word msn && dword readLen && dword off && most payload 4096
  | .fadd y h msn wkey off operand _ => bay y && h.wf && word msn && word wkey && dword off && dword operand
  | .cswap y h msn wkey off operand compare _ => bay y && h.wf && word msn && word wkey && dword off && dword operand && dword compare
  | .atomicRsp y h msn original => bay y && h.wf && word msn && dword original
  | .addwFp32 y h msn msgLen off wkey payload _ => bay y && h.wf && word msn && dword msgLen && dword off && word wkey && most payload 4096
  | .addwBf16 y h msn msgLen off wkey payload _ => bay y && h.wf && word msn && dword msgLen && dword off && word wkey && most payload 4096
  | .flushRead y h msn off wkey _ => bay y && h.wf && word msn && dword off && word wkey
  | .rndvFin y h msn handle delivered code => bay y && h.wf && word msn && word handle && dword delivered && lt code 256
  | .ack y h e => bay y && h.wf && e.wf
  | .nak y h e => bay y && h.wf && e.wf
  | .retransmitTimerExpiry y conn => bay y && lt conn 73728
  | .ackTimerExpiry y conn => bay y && lt conn 73728
  | .increaseTimer y conn => bay y && lt conn 73728
  | .rnrWaitEnd y conn => bay y && lt conn 73728
  | .bind y conn desc => bay y && lt conn 73728 && optSize desc 64
  | .unbind y conn => bay y && lt conn 73728
  | .ringQuery y conn => bay y && lt conn 73728
  | .doorbell y r _ _ _ => bay y && lt r 73728
  | .push y r off bytes _ _ => bay y && lt r 73728 && lt off 256 && size bytes 64
  | .nopEntry y r => bay y && lt r 73728
  | .sendEntry y r _ => bay y && lt r 73728
  | .sendImmEntry y r _ => bay y && lt r 73728
  | .tsendEntry y r _ => bay y && lt r 73728
  | .writeEntry y r _ => bay y && lt r 73728
  | .writeImmEntry y r _ => bay y && lt r 73728
  | .read y r _ => bay y && lt r 73728
  | .faddEntry y r _ => bay y && lt r 73728
  | .cswapEntry y r _ => bay y && lt r 73728
  | .addwFp32Entry y r _ => bay y && lt r 73728
  | .addwBf16Entry y r _ => bay y && lt r 73728
  | .flushReadEntry y r => bay y && lt r 73728
  | .recv y r => bay y && lt r 73728
  | .trecv y r _ => bay y && lt r 73728
  | .enable b => bay b
  | .release b => bay b
  | .yrdRelease y value => bay y && word value
  | .rakeDrainEnd y => bay y
  | .rakeComplete y => bay y
  | .yrdHostResume y value => bay y && word value
  | .configRequest fn _ w => lt fn 13 && match w with
    | some (.allocation n) => word n
    | _ => true
  | .msixUnmask fn v => lt fn 13 && lt v 2048
  | .hostReset _ => true
  | .perstDeassert => true
  | .pcieRetrain => true
  | .lgqAqSqTail y value _ => bay y && word value
  | .createCq y => bay y
  | .deleteCq y => bay y
  | .createSq y => bay y
  | .deleteSq y => bay y
  | .createRq y => bay y
  | .deleteRq y => bay y
  | .tailDoorbell y r _ value _ _ => bay y && lt r 73728 && word value
  | .lgqCqHead y c value => bay y && lt c 2048 && word value
  | .ctxCreate y desc => bay y && optSize desc 64
  | .ctxDestroy y desc => bay y && optSize desc 64
  | .segSet y desc => bay y && optSize desc 64
  | .segClear y desc => bay y && optSize desc 64
  | .winCreate y desc => bay y && optSize desc 64
  | .winRevoke y desc => bay y && optSize desc 64
  | .revokeComplete y idx => bay y && lt idx 1572864
  | .winQuery y desc => bay y && optSize desc 64
  | .faultReset y => bay y
  | .xltLoftClear y value => bay y && word value
  | .batchTimeExpiry y => bay y
  | .pageResponse y pasid page _ => bay y && lt pasid (2 ^ 20) && lt page (2 ^ 52)
  | .faultTimeout y pasid page => bay y && lt pasid (2 ^ 20) && lt page (2 ^ 52)
  | .atsInvalidate y pasid page tag => bay y && lt pasid (2 ^ 20) && lt page (2 ^ 52) && dword tag
  | .invalidateCompletion y tag => bay y && dword tag
  | .atsTranslationDone b _ _ => bay b
  | .patrolScrub dev block _ => lt dev 24 && lt block 16252928
  | .cxlLinkDown q => lt q 16
  | .cxlLinkUp q cap => lt q 16 && lt cap 1024
  | .frameReceived l f => lt l 48 && f.wf
  | .replayTimerExpiry l => lt l 48
  | .linkTrained l _ => lt l 48
  | .hello l h => lt l 48 && h.wf
  | .downNotice l => lt l 48
  | .fecLockLost l => lt l 48
  | .downTimeout l => lt l 48
  | .revive l => lt l 48
  | .retrain l => lt l 48
  | .transitPacket l h _ => lt l 48 && h.wf
  | .signalPacket b src nonce event add _ => bay b && lt src 65536 && lt nonce (2 ^ 48) && lt event 64 && word add
  | .loadShadow => true
  | .shadowLoadDone _ => true
  | .drain => true
  | .drainCountZero => true
  | .swap => true
  | .tblRelease => true
  | .dumpActive => true
  | .loadGroups _ => true
  | .dumpGroups => true
  | .sluicePeriod b => bay b
  | .ethFrameReceived u f => lt u 16 && f.wf
  | .transmitPick u => lt u 16
  | .shaperRefill b c => lt b 13 && lt c 8
  | .gateEntryEnd u => lt u 16
  | .configChange u => lt u 16
  | .gclChangeTime u => lt u 16
  | .lpiEntry u => lt u 16
  | .lpiWake u => lt u 16
  | .ethMgmtTxTail value _ => word value
  | .ethTimeAdj value => word value
  | .subportLinkChange u _ => lt u 16
  | .tamper => true
  | .getMeasurements tr index nonce _ => tr.wf && lt index 256 && size nonce 32
  | .keyExchange tr _ => tr.wf
  | .respondIfReady tr token => tr.wf && lt token 256
  | .getReport tr index nonce => tr.wf && lt index 256 && size nonce 32
  | .setKeys tr session lowest keySetId jms mig => tr.wf && word session && bay lowest && dword keySetId && size jms 48 && size mig 32
  | .getPqSig tr cmd => tr.wf && lt cmd 256 && (cmd == 3 || cmd == 0 || decide (6 ≤ cmd))
  | .operatorKey tr _ slot _ _ _ => tr.wf && lt slot 8
  | .setLifecycle tr target _ => tr.wf && lt target 256
  | .getTdispVersion y => bay y
  | .getTdispCapabilities y => bay y
  | .lockInterfaceRequest y k => bay y && lt k 5
  | .getDeviceInterfaceReport y => bay y
  | .getDeviceInterfaceState y => bay y
  | .startInterfaceRequest y => bay y
  | .stopInterfaceRequest y => bay y
  | .ideKm session streamId _ => word session && lt streamId 5
  | .stage => true
  | .fwStageDone _ _ => true
  | .activate => true
  | .fwDiscard => true
  | .trace target => lt target 256
  | .halt target => lt target 256
  | .secDebugEnd value => word value
  | .scan => true
  | .idcode => true
  | .bypass => true
  | .samplePreload => true
  | .extest => true
  | .extestPulse => true
  | .extestTrain => true
  | .sealObject y key _ => bay y && lt key 2
  | .unseal y key _ => bay y && lt key 2
  | .sealDone y => bay y
  | .coreWatchdogExpiry c => lt c 14
  | .deviceFatal source => lt source 256
  | .go id c len => lt id 256 && lt c 16 && lt len 32
  | .take id c => lt id 256 && lt c 16
  | .mbxBellMask id value => lt id 256 && word value
  | .ping id c => lt id 256 && lt c 16
  | .getInfo id c => lt id 256 && lt c 16
  | .getErr id c => lt id 256 && lt c 16
  | .mirrorUpdate => true
  | .panCheckFail b k => bay b && lt k 4
  | .spareSubstitution b k => bay b && lt k 4
  | .coldReset addr _ failed core badSlots => lt badSlots 16 && lt addr 4 && lt failed (2 ^ 52) && (core.isNone || core == some 12 || core == some 13 || core == some 14)
  | .railFault => true
  | .warmReset => true
  | .crpResetCmd value => word value
  | .bmcWarmReset value => word value
  | .warmResetDone => true
  | .functionLevelReset y => bay y
  | .crpBayReset value => word value
  | .yardResetDone y => bay y
  | .crpPstateReq value => word value
  | .bmcPstateReq value => word value
  | .pstateChangeDone => true
  | .linkQuiet l => lt l 48
  | .thermalThrottle temp => lt temp 256
  | .thermtrip temp => lt temp 256
  | .freeze y mode => bay y && lt mode 2
  | .crpFreezeReq value => word value
  | .freezeTakesEffect y => bay y
  | .resume y => bay y
  | .save y => bay y
  | .restore y => bay y
  | .yrdFrzAck y value => bay y && word value
  | .savePart y => bay y
  | .restorePart y _ => bay y
  | .lapCreditReturn y comm n => bay y && lt comm 768 && lt n 65536
  | .frameSchedulerPick l => lt l 48
  | .pacedTransmission y conn _ => bay y && lt conn 73728
  | .lgqAqCqHead y value => bay y && word value
  | .i3cPrivateWrite off value => lt off (2 ^ 24) && word value
  | .setdasa static dynamic => lt static 128 && lt dynamic 128
  | .securityProcessorRestarted _ => true
  | .throttleRaise temp => lt temp 256
  | .tamperNHigh => true
  | .rxLowPowerIdle u _ => lt u 16
  | .getVersion tr => tr.wf
  | .getCapabilities tr => tr.wf
  | .negotiateAlgorithms tr => tr.wf
  | .getDigests tr => tr.wf
  | .getCertificate tr slot => tr.wf && lt slot 8
  | .challenge tr nonce => tr.wf && size nonce 32
  | .finish tr session => tr.wf && word session
  | .heartbeat tr session => tr.wf && word session
  | .keyUpdate tr session => tr.wf && word session
  | .endSession tr session => tr.wf && word session
  | .chunkSend tr handle seq _ _ => tr.wf && word handle && word seq
  | .chunkGet tr handle seq => tr.wf && word handle && word seq

end Sys2Proof
end

