-- ==== Sys2Proof/Tests/Slice0.lean ====
section
/-! SUPPORT. Tests: well-formedness refuses an ill-formed term for each of its checks; examples of the spec; for each
statement a concrete state and operands that meet its hypotheses. -/

set_option Elab.async false

namespace Sys2Proof.Test

open Sys2Proof.Machine

/-- A device with a register field written. -/
def put (d : Dev) (f : Fld) (v : Nat) : Dev :=
  { d with regs := Tab.setNum d.regs f.key (putBits (Tab.num d.regs f.key) f.lsb f.w v) }

/-- A device with the record of a yard changed. -/
def setY (d : Dev) (y : Nat) (f : Yard → Yard) : Dev := { d with yards := Tab.put d.yards y (f (d.yard y)) }

/-- A device with the control section changed. -/
def setC (d : Dev) (f : Ctl → Ctl) : Dev := { d with ctl := f d.ctl }

/-- The device after a cold reset, the registers of the fabric and the Ethernet block 0: few registers, so that the kernel
reads them fast. -/
def wBase : Dev := { Dev.reset with regs := resetRegs0.take 52 }
/-- One yard of twelve bays, its function ENABLED, its bays ASSIGNED. -/
def wYard : Dev := put (put { wBase with lay := { Lay.reset with cur := { Layout.none with n := 1, enable := 1, addr := (List.range 12).map (fun b => 0x100 + b) } } }
  (R.BAY_FN_STATE_STATE 0) 2) (R.LAY_BAY_STATE.sub 0 24) 0x555555
/-- The same yard with its bays RAKING and its function DRAINING. -/
def wRake : Dev := put (put wYard (R.BAY_FN_STATE_STATE 0) 3) (R.LAY_BAY_STATE.sub 0 24) 0xAAAAAA
def wChan : Dev := put wBase (R.MBX_BIND 0) 0x4001
def wReq (cmd : Nat) : Dev := { wChan with ctl := { wChan.ctl with chans := wChan.ctl.chans.set 0 { ab := { MsgBlk.reset with data := cmd :: List.replicate 15 0, len := 8, go := true }, ba := MsgBlk.reset } } }
def wRun : Dev := { wYard with pans := wYard.pans.set 0 { Pan.reset with ctxs := Pan.reset.ctxs.set 0 { Ctx.empty with st := .ready } } }
/-- A step record of a type, with its type-specific bytes. -/
def mkStep (type : Nat) (spec : List Byte) : Machine.Step :=
  { type := type, flags := 0, wd := 0, prog := 0xFFFF, comm := 0xFFFF, seed := 0xFF, stream := 0, baseLevel := 0xFF, period := 0, count := 0, base := 0, in0 := ⟨0xFFFF, 0xFF, 0, 0, 0⟩, in1 := ⟨0xFFFF, 0xFF, 0, 0, 0⟩, in2 := ⟨0xFFFF, 0xFF, 0, 0, 0⟩, out := ⟨0xFFFF, 0xFF, 0, 0, 0⟩, pans := 1, spec := spec ++ List.replicate (24 - spec.length) 0 }
/-- A plan of one thread with the given steps, communicators and buffers. -/
def mkPlan (steps : List Machine.Step) (comms : List CommDecl) (bufs : List Buf) : Plan :=
  { image := [], member := 0, watchdog := 0, threads := [(0, steps.length)], panMask := 1, contexts := 1, seedMask := 0, conns := 0, loft := 0, near := 0, far := 0, slots := 0, eventMask := 0, bufs := bufs, comms := comms, progs := [], steps := steps, tables := [] }
/-- The yard RUNNING a plan whose thread 0 stands before its first step. -/
def wPlan (p : Plan) : Dev := setY (put wYard (R.PLN_STATUS_STATE 0) 3) 0 (fun r => { r with plan := some p, running := true, endless := true, thrs := [{ pc := 0, stop := p.steps.length, loops := [], active := none, waiting := false }] })
/-- The same with the first step active. -/
def wActive (p : Plan) (a : Active → Active) : Dev := setY (wPlan p) 0 (fun r => { r with thrs := [{ pc := 0, stop := p.steps.length, loops := [], waiting := false, active := some (a { step := 0, env := [0, 0, 0, 0], code := none, runs := [], live := false, lap := none, stream := none, origin := none }) }] })
/-- A communicator of two members, this one at position `pos`, over W-links. -/
def mkDecl (pos : Nat) : CommDecl :=
  { ringId := 9, n := 2, pos := pos, predHop := 0, succHop := 0, predAddr := 0x200, succAddr := 0x200, predConn := 0, succConn := 0, slots := 4, landGroup := 0xFFFF, landBuf := 0, weight := 8 }
/-- A ring step of communicator 0 over 1,024 elements. -/
def ringStep (type prog : Nat) : Machine.Step := { mkStep type [] with comm := 0, count := 1024, prog := prog, in0 := ⟨0, 0xFF, 0, 0, 0⟩ }
/-- A plan of one ring step, with a program of one stream of FP32 elements. -/
def ringPlan (st : Machine.Step) (pos : Nat) : Plan :=
  { mkPlan [st] [mkDecl pos] [{ kind := 0, tier := 0, seg := 0, pasid := 0, off := 0, len := 65536, addr := 0 }] with progs := [{ id := 1, lanes := 32, inFmts := [.fp32], outFmt := some .fp32, usesSr := false, code := [] }] }
/-- The yard RUNNING a ring plan, with a key set and its communicator in state `cs`. -/
def wRing (p : Plan) (cs : Nat) (f : Comm → Comm) : Dev :=
  put { setY (wPlan p) 0 (fun r => { r with keys := some { id := [], jms := [], mig := [] } }) with comms := [(yk 0 0, f (Comm.loaded (mkDecl 0)))] } ((R.TRN_COMM_STATE 0 0).sub 0 3) cs
/-- The same with its step active. -/
def wRingOn (p : Plan) (cs : Nat) : Dev :=
  { wActive p id with comms := (wRing p cs id).comms, regs := (wRing p cs id).regs }
def wLapHdr : LapHdr :=
  { gather := false, last := true, zero := true, scale := false, src := 0x200, ringId := 9, attempt := 0, opseq := 0, step := 0, seg := 1, substep := 0, chunk := 0, pkt := 0, zmask := 0, crc := 0 }
def wCtl : CtlHdr :=
  { back := false, src := 0x200, nonce := 5, ringId := 9, attempt := 0, opseq := 0, step := 0, check := true, code := 0, origin := 0, originValid := false, cause := 0, verdict := 1, passed := 2 }
/-- A device whose link 5 is in state `st`, with a change of its dynamic state. -/
def wLink (st : Nat) (f : Link → Link) : Dev :=
  put { wYard with fab := { wYard.fab with links := wYard.fab.links.set 5 (f Link.reset) } } (R.FAB_PORT_STATE_STATE 5) st
/-- A device with route-table state `st`. -/
def wTbl (st : Nat) : Dev := put wBase R.FAB_RT_STATUS_STATE st
/-- A device whose subport 0 exists and is up. -/
def wSub (f : SubPort → SubPort) : Dev :=
  put { wYard with lay := { wYard.lay with cur := { wYard.lay.cur with eth := [1, 0, 0, 0] } }, eth := { wYard.eth with subs := wYard.eth.subs.set 0 (f SubPort.reset) } } (R.ETH_SUB_STATE_LINK 0) 2
/-- A plan-owned buffer of a tier. -/
def mkBuf (tier addr len : Nat) : Buf := { kind := 0, tier := tier, seg := 0, pasid := 0, off := 0, len := len, addr := addr }
/-- A yard with a key set, RUNNING a plan. -/
def wKeyed (d : Dev) : Dev := setY d 0 (fun r => { r with keys := some { id := [], jms := [], mig := [] } })
def demStep : Machine.Step :=
  { mkStep 0x07 [2, 0, 2, 0, 1, 0, 0, 0, 0, 0, 0, 0] with count := 2, in0 := ⟨0, 0xFF, 0, 0, 0⟩, out := ⟨1, 0xFF, 0, 0, 0⟩ }
def demPlan : Plan := { mkPlan [demStep] [] [mkBuf 0 0 4096, mkBuf 0 4096 4096] with tables := [1, 0, 0, 0, 4, 0, 0, 0, 1, 0, 0, 0, 0, 0, 0, 0] }
def selStep : Machine.Step :=
  { mkStep 0x06 [0, 0, 0, 0x80, 2, 0, 3, 0] with count := 64, in0 := ⟨0, 0xFF, 0, 0, 0⟩, out := ⟨1, 0xFF, 0, 0, 0⟩ }
def selPlan : Plan := mkPlan [selStep] [] [mkBuf 1 0 4096, mkBuf 1 4096 4096, mkBuf 1 8192 512, mkBuf 1 12288 524288]
/-- A STREAM of one tile of 64 bytes to every destination, without demand; `shed` the index of its shed, or 0xFFFF. -/
def strStep (shed : Nat) : Machine.Step :=
  { mkStep 0x08 ([0, 0, 0, 0] ++ leBytes 2 shed ++ [0, 0xFF]) with count := 1, in0 := ⟨0, 0xFF, 0, 0, 0⟩ }
def strPlan (shed : Nat) : Plan :=
  { mkPlan [strStep shed] [] [mkBuf 0 0 4096, mkBuf 1 0 8192] with
    tables := leBytes 4 1 ++ leBytes 2 0xFFFF ++ [0, 0] ++ zeros 12 ++ [1, 0, 1, 0] ++ zeros 8 ++ leBytes 8 64 ++ zeros 24 ++
      leBytes 2 0x300 ++ leBytes 2 7 ++ zeros 60 ++ zeros 8 ++ leBytes 4 (2 ^ 31) ++ zeros 4 }
/-- The same with a demand reference to buffer 0 and one entry whose bitmap stands at byte 64. -/
def strPlanD : Plan :=
  { strPlan 0xFFFF with
    tables := leBytes 4 1 ++ leBytes 2 0 ++ [0xFF, 0] ++ zeros 12 ++ [1, 0, 1, 0] ++ zeros 8 ++ leBytes 8 64 ++
      zeros 24 ++ leBytes 2 0x300 ++ leBytes 2 7 ++ zeros 60 ++ zeros 8 ++ leBytes 4 64 ++ zeros 4 }
def mkEntry (data : Option (List Byte)) : EntrySt :=
  { i := 0, drover := 0, tile := .mem 0 0, begun := false, slot := none, fill := none, score := 1, data := data, dests := [{ accel := 0, seq := 0, sent := 0, answered := 0, waited := false }] }
def mkStream (es : List EntrySt) (fills : List (Nat × Nat × Nat)) : StreamSt :=
  { entries := es, table := 0, shed := some 0, hot := false, age := 0, fills := fills }
def mkLand (src buf : Nat) : LandBuf :=
  { src := src, buf := buf, kind := 1, length := 64, slots := 1, slotBytes := 64, scaleOff := 0, closing := false, out := 0, seq := 0, limit := 1, ready := 0, landed := [] }
def wStream (p : Plan) (z : StreamSt) : Dev := wKeyed (wActive p (fun a => { a with stream := some z }))
/-- Connection 3 CONNECTED to accelerator 0x200 over the W-link fabric, with a change. -/
def mkConn : Conn := { Conn.free with st := 2, inc := 1, lastInc := 1, peerAddr := 0x200, window := 16, mtu := 1024 }
def wHdr : WrtHdr :=
  { conn := 3, inc := 1, psn := 0, src := 0x200, ackreq := true, first := true, last := true, solicit := false, ts := 0, ce := false, tagOk := true, ip := 0 }
def mkWin : Win :=
  { pasid := 1, kind := 0, seg := 0, rights := 15, base := 0, len := 4096, conn := 0xFFFFFF, gen := 1, state := 1, inflight := 0, accepted := 0, aborted := false, desc := 0, raw := [] }
/-- A receive entry of 4,096 bytes in segment 0 of context 1. -/
def mkRecv (op : Nat) : REntry :=
  { n := 0, bytes := [1] ++ leBytes 1 op ++ zeros 14 ++ leBytes 8 4096 ++ zeros 8 ++ leBytes 8 0 ++ leBytes 4 0x800001 ++ zeros 20, started := true, out := none }
def mkRing : Ring := { Ring.unbound with rq := { Half.unbound with bound := true, live := [mkRecv 0x20] }, sq := { Half.unbound with bound := true } }
def mkList : MatchList := { maxPosted := 8, pasid := 1, sg := 0, off := 0, len := 32896, posted := [], unexp := [] }
def mkPost : Posted := { tag := 7, mask := 0, src := 0xFFFFFF, ring := 3, n := 0, loc := .seg 1 0 0, len := 4096 }
/-- A keyed yard with a context, a window, a match list, a receive ring and a connection. -/
def wConn (f : Conn → Conn) : Dev :=
  put (put { wKeyed wYard with
    conns := [(yk 0 3, f mkConn)], ctxs := [(yk 0 1, { host := true, segs := [(0, { tier := 0, yaddr := 0, len := 65536 })] })], wins := [(yk 0 5, mkWin)], lists := [(yk 0 1, mkList)], rings := [(yk 0 3, mkRing)] }
    (R.TRN_PLAN_CONN_BASE 0) 100) (R.MEM_FAR_PORT_LINK_UP 0) 1
def mkOp (opc len : Nat) (loc : Loc) : SendOp := { SendOp.mk' opc len loc 0 0 0 none with started := true, npsn := 2, msn := 0, psn := 0 }
def mkTx (psn : Nat) : TxPkt :=
  { psn := psn, span := 1, msn := 0, off := 0, len := 0, first := true, last := true, ackreq := true, solicit := false, sent := true, due := false, marked := false, lastTx := 0, retx := false, body := [], payload := [] }
def mkRsp : RspPkt := { opc := 0x0B, psn := 0, msn := 0, a := 5, off := 0, src := .bytes [], len := 0, win := none, flush := false }
def setWk (d : Dev) (w : Win) : Dev := { d with wins := Tab.put d.wins (yk 0 5) w }
/-- A send entry with an inline payload of 4 bytes. -/
def mkSend (op : Nat) : REntry :=
  { n := 0, bytes := [5] ++ leBytes 1 op ++ [4, 0] ++ zeros 60, started := false, out := none }
/-- A send entry of `len` bytes in segment 0 of context 1. -/
def mkSendSeg (op len : Nat) : REntry :=
  { n := 0, bytes := [1] ++ leBytes 1 op ++ zeros 14 ++ leBytes 8 len ++ zeros 16 ++ leBytes 4 0x800001 ++ zeros 20, started := false, out := none }
def wSq (e : REntry) : Dev := { wConn id with rings := [(yk 0 3, { mkRing with sq := { mkRing.sq with live := [e] } })] }
def mkRecvNew (op : Nat) : REntry := { mkRecv op with started := false }
def wRq (f : Conn → Conn) (e : REntry) : Dev := { wConn f with rings := [(yk 0 3, { mkRing with rq := { mkRing.rq with live := [e] } })] }
/-- A legacy yard with one administrative command waiting. -/
def mkAdm (op id : Nat) (tail : List Byte) : List Byte := leBytes 2 op ++ leBytes 2 id ++ zeros 4 ++ tail ++ zeros 64
def wAdm (f : Conn → Conn) (e : List Byte) : Dev := put (setY (wConn f) 0 (fun r => { r with adm := { r.adm with waiting := [e] } })) (R.YRD_MODE 0) 1
def mkLcq : LCq := { base := 4096, log := 4, vector := 3, head := 0, count := 2 }
def mkLegacy : Ring := { mkRing with sq := { mkRing.sq with cq := some 6 }, rq := { mkRing.rq with cq := some 6, live := [] } }
def mkBind : List Byte := zeros 16 ++ [4, 4, 0, 0] ++ leBytes 4 1 ++ [0, 0] ++ leBytes 2 1 ++ leBytes 2 0xFFFF ++ zeros 34
/-- A TRECV entry for any source. -/
def mkAny : REntry := { mkRecvNew 0x21 with bytes := [1, 0x21, 0, 0, 0xFF, 0xFF, 0xFF] ++ zeros 9 ++ leBytes 8 4096 ++ zeros 16 ++ leBytes 4 0x800001 ++ zeros 20 }
def mkSegHalf : Half := { Half.unbound with bound := true, inSeg := true, sg := 0, pasid := 1, addr := 4096 }
/-- A send ring of 256-byte entries with `k` parts of a push. -/
def mkBigHalf (k : Nat) : Half := { Half.unbound with bound := true, big := true, parts := ([[1] ++ zeros 63, zeros 64, zeros 64] : List (List Byte)).take k }
def mkUn (rts : Option Nat) : Unexp := { conn := 3, msn := 0, tag := 0, len := 8, slot := 0, rts := rts, whole := true, solicit := false, order := 0 }
def mkUx (rts : Option Nat) : MatchList := { mkList with unexp := [mkUn rts] }
def wUx (rts : Option Nat) : Dev := { wRq (fun c => { c with tagged := true, matchList := 1 }) mkAny with lists := [(yk 0 1, mkUx rts)] }
def setS (d : Dev) (f : Sec → Sec) : Dev := { d with sec := f d.sec }
/-- A device whose PF DOE connection is negotiated up to `st`, with a change of its state, and a session. -/
def wSpdm (st : Nat) (f : SpdmSt → SpdmSt) (fin : Bool) : Dev :=
  setS wYard (fun x => { x with
    spdm := [f { tr := .pfDoe, stage := st, lastSig := none, ready := none, chunksIn := none, chunksOut := none }], sessions := [{ id := 4, tr := .pfDoe, finished := fin }] })
def mkAuth : Auth := { slot := 4, serial := 0, count := 0, body := [], rsa := [], slh := [] }
def wTdi (t : Nat) : Dev := setY wYard 0 (fun r => { r with tdi := t })
def wFw (st : Nat) : Dev := put wBase R.SEC_FW_STATUS_STATE st
/-- A keyed yard whose seal source and destination lie in segment 0 of context 1, LEN 64. -/
def wSeal : Dev := put (put (put (wConn id) (R.YRD_SEAL_CTX 0) 0x8800001) (R.YRD_SEAL_LEN 0) 64) (R.YRD_SEAL_DST 0) 8192

/-- The yard whose LOAD waits for its image. -/
def wLoading : Dev := setY (put wYard (R.PLN_STATUS_STATE 0) 1) 0 (fun r => { r with loadSnap := some (0x1000, 64) })

/-! ### Well-formedness -/

def okLap : LapHdr :=
  { gather := false, last := false, zero := false, scale := false, src := 0, ringId := 0, attempt := 0, opseq := 0, step := 0,
    seg := 0, substep := 0, chunk := 0, pkt := 0, zmask := 0, crc := 0 }
def okCtl : CtlHdr :=
  { back := false, src := 0, nonce := 0, ringId := 0, attempt := 0, opseq := 0, step := 0, check := false, code := 0,
    origin := 0, originValid := false, cause := 0, verdict := 0, passed := 0 }
def okAck : AckExt := { syndrome := 0, rnrTime := 0, ecnCount := 0, nakPsn := 0, tsEcho := 0, rxDelay := 0, sack := [] }
def okOpen : OpenReq := { buf := 0, kind := 0, length := 0, slots := 0, slotBytes := 0, scaleOff := 0 }
def okTrl : FrameTrailer := { fseq := 0, ack := 0, nak := false, good := true, credit := List.replicate 8 0, flits := 1 }
def okHello : Hello := { device := 0, addr := 0, buf := List.replicate 8 0, role := 0 }
def okTrn : TransitHdr :=
  { typ := 0, ce := false, tag := false, vc := 0, flits := 1, pad := 0, dst := 0, src := 0, rank := 0, hops := 0, nonce := 0,
    body := zeros 32 }
def okEth : EthFrame :=
  { len := 64, dstMac := 0, etherType := 0, isIp := false, dscp := 0, dstIp := 0, ip6 := false, udpPort := 0,
    ndSolicit := false, bad := false, runt := false, codeErr := false, bytes := [] }
def okAuth : Auth := { slot := 4, serial := 0, count := 0, body := [], rsa := [], slh := [] }

/-- Well-formed commands, part 0. -/
def wellFormed0 : List Instr :=
  [.registerWrite .pf 0 32 0, .wrongWidthAccess .pf 0 0 false, .layCommit 0, .yrdSetCmd 0 0, .panBeat 0 0 false,
   .contextReady 0 0 0 [] none, .stepComplete 0 0,
   .lapPacket 0 okLap [] false { xl := .hit, data := [], bad := false }, .sealPacket 0 okCtl false,
   .openBuf 0 0 0 okOpen false, .closeBuf 0 0 0 0 false, .grant 0 0 0 0 0 0 false,
   .deliveryEmit 0 0 0 { xl := .hit, data := [], bad := false }, .landAns 0 0 0 0 0 0 false, .shedSlotFilled 0 0 0,
   .create 0 0 none, .matchCreate 0 0 none, .send 0 wHdr 0 0 0 [] { xl := .hit, data := [], bad := false },
   .sendImm 0 wHdr 0 0 0 0 [] { xl := .hit, data := [], bad := false },
   .tsend 0 wHdr 0 0 0 0 [] { xl := .hit, data := [], bad := false }, .rts 0 wHdr 0 0 0 0,
   .write 0 wHdr 0 0 0 0 [] { xl := .hit, data := [], bad := false },
   .readReq 0 wHdr 0 0 0 0 0 { xl := .hit, data := [], bad := false },
   .fadd 0 wHdr 0 0 0 0 { xl := .hit, data := [], bad := false },
   .cswap 0 wHdr 0 0 0 0 0 { xl := .hit, data := [], bad := false }, .atomicRsp 0 wHdr 0 0, .rndvFin 0 wHdr 0 0 0 0,
   .ack 0 wHdr okAck, .doorbell 0 0 false [] .hit, .push 0 0 0 (zeros 64) [] .hit]

/-- Well-formed commands, part 1. -/
def wellFormed1 : List Instr :=
  [.configRequest 0 false none, .msixUnmask 0 0, .lgqCqHead 0 0 0, .revokeComplete 0 0, .pageResponse 0 0 0 .failure,
   .patrolScrub 0 0 .good, .cxlLinkDown 0, .cxlLinkUp 0 0, .frameReceived 0 okTrl, .hello 0 okHello,
   .transitPacket 0 okTrn [], .signalPacket 0 0 0 0 0 false, .ethFrameReceived 0 okEth, .shaperRefill 0 0,
   .getMeasurements .pfDoe 0 (zeros 32) false, .respondIfReady .pfDoe 0, .setKeys .pfDoe 0 0 0 (zeros 48) (zeros 32),
   .getPqSig .pfDoe 3, .operatorKey .pfDoe false 0 [] [] okAuth, .setLifecycle .pfDoe 0 okAuth,
   .lockInterfaceRequest 0 0, .ideKm 0 0 [], .sealObject 0 0 { xl := .hit, data := [], bad := false },
   .coreWatchdogExpiry 0, .deviceFatal 0, .go 0 0 0, .coldReset 0 false 0 none 0, .thermalThrottle 0, .freeze 0 0,
   .lapCreditReturn 0 0 0]

/-- Well-formed commands, part 2. -/
def wellFormed2 : List Instr :=
  [.i3cPrivateWrite 0 0, .setdasa 0 0, .chunkSend .pfDoe 0 0 false [],
   .configRequest 12 true (some (.allocation 512)), .lapPacket 0 { okLap with wrt := some wHdr } [] true]

/-- Well-formed commands. -/
def wellFormed : List Instr := wellFormed0 ++ wellFormed1 ++ wellFormed2

/-- Commands with one operand out of its range, part 0. -/
def illFormed0 : List Instr :=
  [.registerWrite (.deviceCore 2) 0 32 0, .registerWrite .pf (2 ^ 26) 32 0, .registerWrite .pf 0 16 0,
   .registerWrite .pf 0 32 (2 ^ 32), .wrongWidthAccess .pf 0 7 false, .layCommit (2 ^ 32), .yrdSetCmd 12 0,
   .panBeat 12 0 false, .panBeat 0 4 false, .contextReady 0 0 8 [] none, .stepComplete 0 12,
   .lapPacket 0 { okLap with pkt := 4096 } [] false { xl := .hit, data := [], bad := false },
   .lapPacket 0 okLap (zeros 4097) false { xl := .hit, data := [], bad := false },
   .sealPacket 0 { okCtl with nonce := 2 ^ 48 } false, .openBuf 0 65536 0 okOpen false,
   .openBuf 0 0 (2 ^ 48) okOpen false, .openBuf 0 0 0 { okOpen with buf := 65536 } false,
   .closeBuf 0 0 0 65536 false, .grant 0 0 0 0 (2 ^ 32) 0 false, .grant 0 0 0 0 0 (2 ^ 64) false,
   .deliveryEmit 0 0 12 { xl := .hit, data := [], bad := false }, .landAns 0 0 (2 ^ 32) 0 0 0 false,
   .landAns 0 0 0 256 0 0 false, .landAns 0 0 0 0 256 0 false, .shedSlotFilled 0 0 (2 ^ 32), .create 0 73728 none,
   .create 0 0 (some []), .matchCreate 0 768 none, .matchCreate 0 0 (some []),
   .send 0 { wHdr with conn := 2 ^ 24 } 0 0 0 [] { xl := .hit, data := [], bad := false }]

/-- Commands with one operand out of its range, part 1. -/
def illFormed1 : List Instr :=
  [.send 0 wHdr (2 ^ 32) 0 0 [] { xl := .hit, data := [], bad := false },
   .send 0 wHdr 0 (2 ^ 64) 0 [] { xl := .hit, data := [], bad := false },
   .send 0 wHdr 0 0 (2 ^ 64) [] { xl := .hit, data := [], bad := false },
   .sendImm 0 wHdr 0 (2 ^ 32) 0 0 [] { xl := .hit, data := [], bad := false },
   .tsend 0 wHdr 0 0 0 (2 ^ 64) [] { xl := .hit, data := [], bad := false }, .rts 0 wHdr 0 (2 ^ 32) 0 0,
   .write 0 wHdr 0 0 (2 ^ 64) 0 [] { xl := .hit, data := [], bad := false },
   .write 0 wHdr 0 0 0 (2 ^ 32) [] { xl := .hit, data := [], bad := false },
   .readReq 0 wHdr 0 0 (2 ^ 64) 0 0 { xl := .hit, data := [], bad := false },
   .fadd 0 wHdr 0 0 0 (2 ^ 64) { xl := .hit, data := [], bad := false },
   .cswap 0 wHdr 0 0 0 0 (2 ^ 64) { xl := .hit, data := [], bad := false }, .atomicRsp 0 wHdr 0 (2 ^ 64),
   .rndvFin 0 wHdr 0 0 (2 ^ 64) 0, .rndvFin 0 wHdr 0 0 0 256, .ack 0 wHdr { okAck with sack := [256] },
   .doorbell 0 73728 false [] .hit, .push 0 0 256 (zeros 64) [] .hit, .push 0 0 0 [] [] .hit,
   .configRequest 13 false none, .msixUnmask 0 2048, .lgqCqHead 0 2048 0, .revokeComplete 0 1572864,
   .pageResponse 0 (2 ^ 20) 0 .failure, .pageResponse 0 0 (2 ^ 52) .failure, .patrolScrub 24 0 .good,
   .patrolScrub 0 16252928 .good, .cxlLinkDown 16, .cxlLinkUp 0 1024, .frameReceived 48 okTrl,
   .frameReceived 0 { okTrl with fseq := 4096 }]

/-- Commands with one operand out of its range, part 2. -/
def illFormed2 : List Instr :=
  [.hello 0 { okHello with buf := [] }, .transitPacket 0 { okTrn with body := [] } [],
   .signalPacket 0 0 0 64 0 false, .signalPacket 0 0 0 0 (2 ^ 32) false, .ethFrameReceived 16 okEth,
   .ethFrameReceived 0 { okEth with dscp := 64 }, .shaperRefill 13 0, .shaperRefill 0 8,
   .getMeasurements (.yardDoe 12) 0 (zeros 32) false, .getMeasurements .pfDoe 256 (zeros 32) false,
   .getMeasurements .pfDoe 0 [] false, .respondIfReady .pfDoe 256,
   .setKeys .pfDoe (2 ^ 32) 0 0 (zeros 48) (zeros 32), .setKeys .pfDoe 0 12 0 (zeros 48) (zeros 32),
   .setKeys .pfDoe 0 0 (2 ^ 64) (zeros 48) (zeros 32), .setKeys .pfDoe 0 0 0 [] (zeros 32),
   .setKeys .pfDoe 0 0 0 (zeros 48) [], .getPqSig .pfDoe 256, .getPqSig .pfDoe 1,
   .operatorKey .pfDoe false 8 [] [] okAuth, .setLifecycle .pfDoe 256 okAuth, .lockInterfaceRequest 0 5,
   .ideKm 0 5 [], .sealObject 0 2 { xl := .hit, data := [], bad := false }, .coreWatchdogExpiry 14, .deviceFatal 256,
   .go 256 0 0, .go 0 16 0, .go 0 0 32, .coldReset 0 false 0 none 16]

/-- Commands with one operand out of its range, part 3. -/
def illFormed3 : List Instr :=
  [.coldReset 4 false 0 none 0, .coldReset 0 false (2 ^ 52) none 0, .coldReset 0 false 0 (some 5) 0,
   .thermalThrottle 256, .freeze 0 2, .lapCreditReturn 0 768 0, .lapCreditReturn 0 0 65536,
   .i3cPrivateWrite (2 ^ 24) 0, .setdasa 128 0, .setdasa 0 128, .chunkSend .pfDoe 0 (2 ^ 32) false [],
   .configRequest 0 false (some (.allocation (2 ^ 32))),
   .lapPacket 0 { okLap with wrt := some { wHdr with psn := 2 ^ 32 } } [] false,
   .sealPacket 0 { okCtl with wrt := some { wHdr with ts := 2 ^ 32 } } false]

/-- Commands with one operand out of its range. -/
def illFormed : List Instr := illFormed0 ++ illFormed1 ++ illFormed2 ++ illFormed3

/-- Every well-formed command of the list is accepted. -/
theorem test_wf_accepts : wellFormed.all Instr.wf = true := by decide +kernel

/-- Every ill-formed command of the list is refused: one for each check. -/
theorem test_wf_refuses : illFormed.all (fun i => !i.wf) = true := by decide +kernel

/-! ### Examples of the spec -/

/-- The instruction MOVI W2 with 0.9 (R182). -/
theorem test_movi_encoding :
    (let i := PInstr.decode 0x0C0040003F666666; (i.opc, i.dst, i.imm)) = (3, 2, 0x3F666666) := by decide +kernel

/-- The instruction FMA W4 from W0, W3 and W4 (R182). -/
theorem test_fma_encoding :
    (let i := PInstr.decode 0x2C00806800000000; (i.opc, i.dst, i.sa, i.sb, i.sc)) = (11, 4, 0, 3, 4) := by decide +kernel

/-- The target count of the worked selection of 07: 12,500,000 blocks at a density of 1 in 100. -/
theorem test_select_target : selectTarget 42949672 12500000 = 125000 := by decide +kernel

/-- The key 0x75A3 of the worked selection: exponent field 0x75, upper mantissa bits 0xA3. -/
theorem test_score_key : scoreKey (0x75 * 2 ^ 23 + 0xA3 * 2 ^ 15 + 77) = 0x75A3 := by decide +kernel

/-- The published check value of CRC-32C, over the digits 1 to 9. -/
theorem test_crc32c : crc32c ("123456789".toList.map (fun c => BitVec.ofNat 8 c.toNat)) = 0xE3069283 := by decide +kernel

/-- The near example of 11: block 2,097,152 of a device stands at 554,189,312 and its check bytes at 554,196,752 (R327). -/
theorem test_near_group : (nearData 2097152, nearCheck 2097152) = (554189312, 554196752) := by decide +kernel

/-! ### Single steps -/

/-- What a command makes of a device. -/
def after (i : Instr) (d : Dev) : Dev :=
  match exec i { dev := d, pending := [] } with
  | .next t => t.dev
  | _ => d

/-- LOAD on an EMPTY sequencer starts the fetch; a second LOAD is refused with CMD_ERR (R121). -/
theorem test_load : (let d := after (.load 0) wYard; let e := after (.load 0) d
    (d.plnState 0, d.fld (R.PLN_STATUS_CMD_ERR 0), e.plnState 0, e.fld (R.PLN_STATUS_CMD_ERR 0))) = (1, 0, 1, 1) := by
  decide +kernel

/-- An event counter wraps at 24 bits of ADD and keeps its 64 bits (R108): 5 is added to event 9. -/
theorem test_event_add : (after (.plnEventAdd 0 (9 + 2 ^ 8 * 5)) (wPlan (mkPlan [] [] []))).fld (R.PLN_EVENT 0 9) = 5 := by
  decide +kernel

/-- A CREATE whose descriptor cannot be read answers LOCAL_PROTECTION, 0x02 (R253, R309). -/
theorem test_create_unreadable : (after (.create 0 8 none) (wConn id)).fld (R.TRN_CMD_STATUS_RESULT 0) = 2 := by
  decide +kernel

/-- A CXL port that loses its link shows it, and PORT_DOWN is set (R334). -/
theorem test_cxl_down : (let d := after (.cxlLinkDown 3) (put Dev.reset (R.MEM_FAR_PORT_LINK_UP 3) 1)
    (d.fld (R.MEM_FAR_PORT_LINK_UP 3), d.fld R.MEM_STATUS_PORT_DOWN)) = (0, 1) := by
  decide +kernel

/-- A zero written to storage is not listed, so equal contents are equal data. -/
theorem test_memory_canonical :
    (({ cells := [(3, 5)], opened := [], veils := [], uc := [] } : Memory).write 3 [0]).cells = [] := by decide +kernel

/-! ### The hypotheses of the statements are met -/

/-- The hypotheses of StepKeepsSound are met. -/
theorem meets_StepKeepsSound : (sound State.reset.dev && true) = true := by decide +kernel

/-- The hypotheses of EveryStepAnswers are met. -/
theorem meets_EveryStepAnswers : (sound State.reset.dev && State.reset.pending == []) = true := by decide +kernel

/-- The hypotheses of MemoryLaws are met. -/
theorem meets_MemoryLaws : (({ cells := [(3, 5)], opened := [], veils := [], uc := [] } : Memory).wf) = true := by decide +kernel

/-- The hypotheses of YardsAreIsolated are met. -/
theorem meets_YardsAreIsolated : (oneYard (.load 0) == some 0) = true := by decide +kernel

/-- The hypotheses of PartsFrame are met. -/
theorem meets_PartsFrame : (alters (.quarantineExpiry 0 0) == some [.conns]) = true := by decide +kernel

/-- The hypotheses of RegistersFrame are met. -/
theorem meets_RegistersFrame : (writesRegs (.stop 3) == some [(R.PLN_STATUS 3).key]) = true := by decide +kernel

/-- The hypotheses of RefusedPlanChangesNothing are met. -/
theorem meets_RefusedPlanChangesNothing : (let d : Dev := wLoading; sound d && d.present 0 && d.plnState 0 == 1 && !d.frozen 0 && (d.yard 0).plan.isNone && planRefused d 0 none && planRefused d 0 (some (zeros 64))) = true := by decide +kernel

/-- The hypotheses of StorageMapsApart are met. -/
theorem meets_StorageMapsApart : (let d : Dev := wYard; d.isYard 0 && decide (d.lay.cur.granule ≤ 11) && decide (5 < d.capacity 0 0) && decide (d.place 0 0 5 = d.place 0 0 5)) = true := by decide +kernel

/-- The hypotheses of ScoreKeys are met. -/
theorem meets_ScoreKeys : ([0, 0x7FC00000, 0x3F800000].all (fun c => decide (c < 2 ^ 32)) && (List.replicate 32 5).length == 32 && decide (bits 0x7FC00000 23 8 = 255 ∧ bits 0x7FC00000 0 23 ≠ 0)) = true := by decide +kernel

/-- The hypotheses of every clause of LayoutStagingCommands are met, clause by clause. -/
theorem meets_LayoutStagingCommands :
    ((let s : State := { dev := wBase, pending := [] };
      decide (sound s.dev = true) && decide (s.dev.pfOk = true) &&
      decide (s.dev.fld R.LAY_STATUS_STAGE ∈ [0, 2, 4, 5])) : Bool) = true ∧
    ((let s : State := { dev := (put wBase R.LAY_STATUS_STAGE 1), pending := [] };
      decide (sound s.dev = true) && decide (s.dev.fld R.LAY_STATUS_STAGE = 1) &&
      decide (s.dev.lay.discarding = false) && decide (s.dev.ctl.hostUp = true)) : Bool) = true ∧
    ((let s : State := { dev := (put wBase R.LAY_STATUS_STAGE 2), pending := [] };
      decide (sound s.dev = true) && decide (s.dev.pfOk = true) && decide (s.dev.fld R.LAY_STATUS_STAGE ∈ [2, 4,
        5])) : Bool) = true ∧
    ((let s : State := { dev := (put wBase R.LAY_STATUS_STAGE 3), pending := [] };
      decide (sound s.dev = true) && decide (s.dev.fld R.LAY_STATUS_STAGE = 3)) : Bool) = true ∧
    ((let s : State := { dev := (put wBase R.LAY_STATUS_STAGE 4), pending := [] };
      decide (sound s.dev = true) && decide (s.dev.pfOk = true) && decide (s.dev.fld R.LAY_STATUS_STAGE ∈ [2, 4,
        5])) : Bool) = true ∧
    ((let s : State := { dev := (put wBase R.LAY_STATUS_STAGE 4), pending := [] };
      decide (sound s.dev = true) && decide (s.dev.pfOk = true) &&
      decide (s.dev.on (R.DEV_STATUS.sub 0 1) = false) && decide (s.dev.fld R.LAY_STATUS_STAGE = 4)) : Bool) = true ∧
    ((let s : State := { dev := (put wBase R.LAY_STATUS_STAGE 2), pending := [] };
      decide (sound s.dev = true) && decide (s.dev.pfOk = true) &&
      decide (s.dev.on (R.DEV_STATUS.sub 0 1) = false) &&
        decide (s.dev.fld R.LAY_STATUS_STAGE = 2)) : Bool) = true := by
  refine ⟨?_, ?_, ?_, ?_, ?_, ?_, ?_⟩ <;> decide +kernel

/-- The hypotheses of every clause of LayoutCommitApplies are met, clause by clause. -/
theorem meets_LayoutCommitApplies :
    ((let s : State := { dev := (put wBase R.LAY_STATUS_STAGE 6), pending := [] };
      decide (sound s.dev = true) && decide (s.dev.fld R.LAY_STATUS_STAGE = 6) &&
      decide (check12 s.dev s.dev.lay.staged = none)) : Bool) = true ∧
    ((let s : State := { dev := (put wYard R.LAY_STATUS_STAGE 6), pending := [] }; let r : Refuse := ⟨0x12, 0, 0,
      0xFFF⟩;
      decide (sound s.dev = true) && decide (s.dev.fld R.LAY_STATUS_STAGE = 6) &&
      decide (check12 s.dev s.dev.lay.staged = some r)) : Bool) = true := by
  refine ⟨?_, ?_⟩ <;> decide +kernel

/-- The hypotheses of every clause of RegisterWrites are met, clause by clause. -/
theorem meets_RegisterWrites :
    ((let s : State := { dev := wBase, pending := [] }; let r : RRow := ⟨0x10008, [], 64, [⟨0, 64, .rw, 0,
      18446744073709551615, false⟩], 0⟩; let off : Nat := 0x10008;
      decide (sound s.dev = true) && decide (s.dev.pfOk = true) && decide (off < 0x1000000) &&
      decide (s.dev.regAt none off = some (r, off)) && decide (ramArea none off = false) &&
      decide (mbxArea none off = none) && decide (isSetting none off = false) && decide (off ≠ 0x820) &&
      decide (off ≠ 0x50048) && decide (off ≠ 0x100020) && decide (off < 0x100408 ∨ 0x100700 ≤ off ∨
        off % 16 ≠ 8)) : Bool) = true ∧
    ((let s : State := { dev := wYard, pending := [] }; let y : Nat := 0; let r : RRow := ⟨0x200, [], 64, [⟨0, 64,
      .rw, 0, 18446744073709551615, false⟩], 0⟩; let off : Nat := 0x200;
      decide (sound s.dev = true) && decide (y < 12) && decide (s.dev.yfOk y = true) &&
      decide (s.dev.regAt (some y) off = some (r, off)) && decide (off < bar2) &&
      decide (mbxArea (some y) off = none) && decide (isSetting (some y) off = false) &&
      decide (off ∉ [0x308, 0x310, 0x314, 0x40010])) : Bool) = true ∧
    ((let s : State := { dev := wBase, pending := [] }; let r : RRow := ⟨0x10008, [], 64, [⟨0, 64, .rw, 0,
      18446744073709551615, false⟩], 0⟩; let off : Nat := 0x10008;
      decide (sound s.dev = true) && decide (s.dev.pfOk = true) && decide (off < 0x1000000) &&
      decide (s.dev.regAt none off = some (r, off)) && decide (r.w = 64) && decide (ramArea none off = false) &&
      decide (mbxArea none off = none)) : Bool) = true ∧
    ((let s : State := { dev := wBase, pending := [] }; let r : RRow := ⟨0x10008, [], 64, [⟨0, 64, .rw, 0,
      18446744073709551615, false⟩], 0⟩; let off : Nat := 0x10008; let v : Nat := 5;
      decide (sound s.dev = true) && decide (s.dev.pfOk = true) && decide (off + 4 < 0x1000000) &&
      decide (s.dev.regAt none (off + 4) = some (r, off)) && decide (r.w = 64) && decide (v < 2 ^ 32) &&
      decide (ramArea none (off + 4) = false) && decide (mbxArea none (off + 4) = none) &&
      decide (isSetting none off = false) && decide (off ≠ 0x820) && decide (off ≠ 0x50048)) : Bool) = true ∧
    ((let s : State := { dev := wBase, pending := [] }; let off : Nat := 0x10008; let k : Nat := 1;
      decide (sound s.dev = true) && decide (s.dev.pfOk = true) &&
      decide (s.dev.wrongWidth .pf none off (8 * 2 ^ k) = true)) : Bool) = true ∧
    ((let s : State := { dev := wYard, pending := [] }; let y : Nat := 0; let off : Nat := 0x10008; let k : Nat := 1;
      decide (sound s.dev = true) && decide (y < 12) && decide (s.dev.yfOk y = true) &&
      decide (s.dev.wrongWidth (.yard y) (some y) off (8 * 2 ^ k) = true)) : Bool) = true ∧
    ((let s : State := { dev := wYard, pending := [] }; let y : Nat := 0; let r : RRow := ⟨0x1001c, [], 32, [⟨0, 32,
      .rw, 0, 4294967295, false⟩], 0⟩; let x : FRow := ⟨0, 32, .rw, 0, 4294967295, false⟩; let off : Nat := 0x1001c;
      let v : Nat := 9;
      decide (sound s.dev = true) && decide (y < 12) && decide (s.dev.yfOk y = true) &&
      decide (s.dev.setBar (some y) = 0) && decide (s.dev.regAt (some y) off = some (r, off)) &&
      decide (r.fields = [x]) && decide (x.acc = .rw) && decide (x.lsb + x.w ≤ 128) && decide (off < 0x100000) &&
      decide (isSetting (some y) off = true) && decide (off ≠ 0x8) && decide ((s.dev.yard y).setSnap = none) &&
      decide (mbxArea (some y) off = none) && decide (off < 0x300 ∨ 0x330 ≤ off) &&
      decide (setRuleYard s.dev { s.dev with regs := withFields (some y) s.dev.regs [⟨off, x, clampTo off x (bits v x.lsb x.w)⟩] } y = none)) : Bool) = true ∧
    ((let s : State := { dev := wBase, pending := [] }; let r : RRow := ⟨0x20034, [], 32, [⟨0, 8, .rw, 70, 105,
      false⟩], 4294967040⟩; let x : FRow := ⟨0, 8, .rw, 70, 105, false⟩; let off : Nat := 0x20034; let v : Nat := 200;
      decide (sound s.dev = true) && decide (s.dev.pfOk = true) && decide (s.dev.setBar none = 0) &&
      decide (s.dev.regAt none off = some (r, off)) && decide (r.fields = [x]) && decide (x.acc = .rw) &&
      decide (x.lsb + x.w ≤ 128) && decide (off < 0x1000000) && decide (isSetting none off = true) &&
      decide (off ≠ 0x20018) && decide (ramArea none off = false) && decide (mbxArea none off = none) &&
      decide (setRuleDev s.dev { s.dev with regs := withFields none s.dev.regs [⟨off, x, clampTo off x (bits v x.lsb x.w)⟩] } [⟨off, x, clampTo off x (bits v x.lsb x.w)⟩] = none)) : Bool) = true := by
  refine ⟨?_, ?_, ?_, ?_, ?_, ?_, ?_, ?_⟩ <;> decide +kernel

/-- The hypotheses of every clause of SettingSetCommands are met, clause by clause. -/
theorem meets_SettingSetCommands :
    ((let s : State := { dev := (put wBase R.LAY_SET_COUNT 2), pending := [] }; let v : Nat := 1;
      decide (sound s.dev = true) && decide (s.dev.pfOk = true) && decide (bit v 0 = true) &&
      decide (s.dev.lay.setSnap = none) && decide (s.dev.setBar none = 0) &&
      decide (1 ≤ bits (s.dev.fld R.LAY_SET_COUNT) 0 10) &&
        decide (bits (s.dev.fld R.LAY_SET_COUNT) 0 10 ≤ 512)) : Bool) = true ∧
    ((let s : State := { dev := (put wYard (R.YRD_SET_COUNT 0) 2), pending := [] }; let y : Nat := 0;
      let v : Nat := 1;
      decide (sound s.dev = true) && decide (y < 12) && decide (s.dev.yfOk y = true) && decide (bit v 0 = true) &&
      decide ((s.dev.yard y).setSnap = none) && decide (s.dev.setBar (some y) = 0) &&
      decide (1 ≤ bits (s.dev.fld (R.YRD_SET_COUNT y)) 0 10) &&
      decide (bits (s.dev.fld (R.YRD_SET_COUNT y)) 0 10 ≤ 512)) : Bool) = true ∧
    ((let s : State := { dev := (setY wYard 0 (fun r => { r with setSnap := some (0x1000, 1, 0) })), pending := [] };
      let y : Nat := 0; let bs : List Byte := [0x1c, 0, 1, 0, 0, 0, 0, 0, 9, 0, 0, 0, 0, 0, 0, 0];
      let e : SetEnt := ⟨0x1001c, ⟨0, 32, .rw, 0, 4294967295, false⟩, 9⟩; let a : Nat := 0x1000; let n : Nat := 1;
      let p : Nat := 0;
      decide (sound s.dev = true) && decide (y < 12) && decide (s.dev.ctl.warm = false) &&
      decide (s.dev.ctl.tripped = false) && decide ((s.dev.yard y).resetting = false) &&
      decide ((s.dev.yard y).setSnap = some (a, n, p)) && decide (s.dev.setBar (some y) = 0) &&
      decide (s.dev.canMaster y = true) && decide (s.dev.setEnts (some y) n bs = some [e]) && decide (e.off ≠ 0x8) &&
      decide (e.f.lsb + e.f.w ≤ 128) &&
      decide (setRuleYard { s.dev with yards := Tab.put s.dev.yards y { s.dev.yard y with setSnap := none } } { s.dev with yards := Tab.put s.dev.yards y { s.dev.yard y with setSnap := none }, regs := withFields (some y) s.dev.regs [{ e with value := clampTo e.off e.f e.value }] } y = none)) : Bool) = true := by
  refine ⟨?_, ?_, ?_⟩ <;> decide +kernel

/-- The hypotheses of every clause of MailboxCommands are met, clause by clause. -/
theorem meets_MailboxCommands :
    ((let s : State := { dev := wChan, pending := [] }; let id : Nat := 1; let c : Nat := 0; let n : Nat := 8;
      let a : Bool := true;
      decide (sound s.dev = true) && decide (s.dev.ctl.chans.length = 16) && decide (s.dev.idActs id = true) &&
      decide (s.dev.endOf id c = some a) && decide ((s.dev.txBlk c a).go = false) && decide (8 ≤ n) &&
        decide (n ≤ 16)) : Bool) = true ∧
    ((let s : State := { dev := wReq 1, pending := [] }; let id : Nat := 0x40; let c : Nat := 0;
      let a : Bool := false;
      decide (sound s.dev = true) && decide (s.dev.ctl.chans.length = 16) && decide (s.dev.idActs id = true) &&
      decide (s.dev.endOf id c = some a) && decide ((s.dev.rxBlk c a).go = true) &&
        decide (s.dev.ctl.replies = [])) : Bool) = true ∧
    ((let s : State := { dev := wBase, pending := [] }; let id : Nat := 1;
      decide (sound s.dev = true) && decide (Tab.wfNum s.dev.ctl.unmask = true) &&
        decide (s.dev.idActs id = true)) : Bool) = true ∧
    ((let s : State := { dev := wReq 1, pending := [] }; let id : Nat := 0x40; let c : Nat := 0;
      let a : Bool := false; let w : Nat := 1; let b : MsgBlk := (wReq 1).rxBlk 0 false;
      decide (sound s.dev = true) && decide (s.dev.ctl.chans.length = 16) &&
      decide (s.dev.request id c = some (a, w, b)) && decide (s.dev.ctl.replies = []) &&
      decide ((s.dev.txBlk c a).go = false) && decide (bits w 25 7 = 0) && decide (bits w 0 8 = 1) &&
      decide (b.data.length = 16)) : Bool) = true ∧
    ((let s : State := { dev := wReq 2, pending := [] }; let id : Nat := 0x40; let c : Nat := 0;
      let a : Bool := false; let w : Nat := 2; let b : MsgBlk := (wReq 2).rxBlk 0 false;
      decide (sound s.dev = true) && decide (s.dev.ctl.chans.length = 16) &&
      decide (s.dev.request id c = some (a, w, b)) && decide (s.dev.ctl.replies = []) &&
      decide ((s.dev.txBlk c a).go = false) && decide (bits w 25 7 = 0) && decide (bits w 0 8 = 2)) : Bool) = true ∧
    ((let s : State := { dev := wReq 3, pending := [] }; let id : Nat := 0x40; let c : Nat := 0;
      let a : Bool := false; let w : Nat := 3; let b : MsgBlk := (wReq 3).rxBlk 0 false;
      decide (sound s.dev = true) && decide (s.dev.ctl.chans.length = 16) &&
      decide (s.dev.request id c = some (a, w, b)) && decide (s.dev.ctl.replies = []) &&
      decide ((s.dev.txBlk c a).go = false) && decide (bits w 25 7 = 0) && decide (bits w 0 8 = 3)) : Bool) = true ∧
    ((let s : State := { dev := (put wBase R.LAY_SEQ 5), pending := [] };
      decide (sound s.dev = true) && decide (Tab.wfNum s.dev.ctl.ram = true) && decide (s.dev.idActs 0x30 = true) &&
      decide (∃ e ∈ s.dev.mirror, Tab.num s.dev.ctl.ram e.1 ≠ e.2)) : Bool) = true ∧
    ((let s : State := { dev := wBase, pending := [] }; let off : Nat := 0x20;
      decide (sound s.dev = true) && decide (Tab.wfNum s.dev.ctl.ram = true) && decide (s.dev.idActs 0x50 = true) &&
      decide (off % 4 = 0) && decide (off < 0xF000)) : Bool) = true ∧
    ((let s : State := { dev := (setC wBase (fun c => { c with recB := 3 })), pending := [] };
      decide (sound s.dev = true) && decide (s.dev.idActs 0x50 = true)) : Bool) = true ∧
    ((let s : State := { dev := (put wBase (R.MBX_BIND 0) 0x5001), pending := [] }; let c : Nat := 0;
      let w : Nat := 3; let a : Bool := false;
      decide (sound s.dev = true) && decide (s.dev.ctl.chans.length = 16) && decide (s.dev.idActs 0x50 = true) &&
      decide (w < 16) && decide (s.dev.endOf 0x50 c = some a) && decide ((s.dev.txBlk c a).go = false) &&
      decide ((s.dev.txBlk c a).data.length = 16)) : Bool) = true ∧
    ((let s : State := { dev := wBase, pending := [] }; let v : Nat := 1;
      decide (sound s.dev = true) && decide (s.dev.ctl.warm = false) && decide (s.dev.ctl.tripped = false) &&
      decide (s.dev.ctl.pend = none) && decide (s.dev.fld R.CRP_PSTATE_STATUS_STATE ≠ 3 ∨ bits v 0 2 = 0) &&
      decide (bits v 0 2 < 2)) : Bool) = true ∧
    ((let s : State := { dev := wBase, pending := [] };
      decide (sound s.dev = true) && decide (s.dev.ctl.tripped = false)) : Bool) = true ∧
    ((let s : State := { dev := wBase, pending := [] }; let st : Nat := 0x30;
      decide (sound s.dev = true) && decide (st = 0x30 + s.dev.ctl.straps ∨
        st = 0x38 + s.dev.ctl.straps)) : Bool) = true := by
  refine ⟨?_, ?_, ?_, ?_, ?_, ?_, ?_, ?_, ?_, ?_, ?_, ?_, ?_⟩ <;> decide +kernel

/-- The hypotheses of every clause of ErrorClassCommands are met, clause by clause. -/
theorem meets_ErrorClassCommands :
    ((let s : State := { dev := wBase, pending := [] }; let c : Nat := 2;
      decide (sound s.dev = true) && decide (c < 12) && decide (s.dev.ctl.tripped = false) &&
      decide (s.dev.fld ((R.DEV_CORE_STATE c).sub 0 2) = 1)) : Bool) = true ∧
    ((let s : State := { dev := wBase, pending := [] }; let c : Nat := 12;
      decide (sound s.dev = true) && decide (c = 12 ∨ c = 13) && decide (s.dev.ctl.tripped = false) &&
      decide (s.dev.fld ((R.DEV_CORE_STATE c).sub 0 2) = 1)) : Bool) = true ∧
    ((let s : State := { dev := wBase, pending := [] };
      decide (sound s.dev = true) && decide (s.dev.ctl.tripped = false)) : Bool) = true ∧
    ((let s : State := { dev := wRun, pending := [] }; let b : Nat := 0; let k : Nat := 0; let y : Nat := 0;
      let x : Nat := 0;
      decide (sound s.dev = true) && decide (s.dev.yardOf b = some y) && decide (s.dev.live y = true) &&
      decide (s.dev.panWorks (4 * b + k) = true) && decide ((s.dev.pan (4 * b + k)).choose = some x) &&
      decide (s.dev.panPhys (4 * b + k) < 64)) : Bool) = true ∧
    ((let s : State := { dev := (put wBase (R.DEV_PAN_FAILED.sub 0 1) 1), pending := [] }; let b : Nat := 0;
      let k : Nat := 0;
      decide (sound s.dev = true) && decide (b < 12) && decide (k < 4) &&
      decide (s.dev.panPhys (4 * b + k) ≠ 0xFF) && decide (s.dev.panWorks (4 * b + k) = false) &&
      decide (s.dev.idActs 0x31 = true) && decide (bit (s.dev.fld R.DEV_SPARE_USE) (8 * (b / 3) + 7) = false) &&
      decide (bit (s.dev.fld R.DEV_PAN_FAILED) (48 + b / 3) = false)) : Bool) = true ∧
    ((let s : State := { dev := (put (put wBase (R.DEV_PAN_FAILED.sub 0 1) 1) (R.DEV_SPARE_USE.sub 0 8) 0x85), pending := [] }; let b : Nat := 0; let k : Nat := 0;
      decide (sound s.dev = true) && decide (b < 12) && decide (k < 4) &&
      decide (s.dev.panPhys (4 * b + k) ≠ 0xFF) && decide (s.dev.panWorks (4 * b + k) = false) &&
      decide (s.dev.idActs 0x31 = true) &&
      decide (bit (s.dev.fld R.DEV_SPARE_USE) (8 * (b / 3) + 7) = true ∨
        bit (s.dev.fld R.DEV_PAN_FAILED) (48 + b / 3) = true)) : Bool) = true := by
  refine ⟨?_, ?_, ?_, ?_, ?_, ?_⟩ <;> decide +kernel

/-- The hypotheses of every clause of PowerRequests are met, clause by clause. -/
theorem meets_PowerRequests :
    ((let s : State := { dev := wBase, pending := [] }; let v : Nat := 1;
      decide (sound s.dev = true) && decide (s.dev.pfOk = true) && decide (s.dev.ctl.pend = none) &&
      decide ((bits v 0 2 = 2 → (List.range 12).all (fun b => !bit (s.dev.fld R.CRP_PARK) b || s.dev.bayClean b) = true)) &&
      decide ((bits v 0 2 = 3 → (List.range 12).all s.dev.bayClean = true))) : Bool) = true ∧
    ((let s : State := { dev := wYard, pending := [] }; let v : Nat := 3; let b : Nat := 0;
      decide (sound s.dev = true) && decide (s.dev.pfOk = true) && decide (s.dev.ctl.pend = none) &&
      decide (bits v 0 2 = 3) && decide (b < 12) && decide (s.dev.bayClean b = false)) : Bool) = true ∧
    ((let s : State := { dev := wBase, pending := [] }; let v : Nat := 2;
      decide (sound s.dev = true) && decide (s.dev.ctl.warm = false) && decide (s.dev.ctl.tripped = false) &&
      decide (s.dev.ctl.pend = none) &&
      decide (s.dev.fld R.CRP_PSTATE_STATUS_STATE ≠ 3 ∨ bits v 0 2 = 0 ∨ bits v 0 2 = 3) &&
      decide ((bits v 0 2 = 2 → (List.range 12).all (fun b => !bit (s.dev.fld R.CRP_PARK) b || s.dev.bayClean b) = true)) &&
      decide ((bits v 0 2 = 3 → (List.range 12).all s.dev.bayClean = true))) : Bool) = true ∧
    ((let s : State := { dev := wBase, pending := [] }; let temp : Nat := 110;
      decide (sound s.dev = true) && decide (s.dev.ctl.tripped = false) &&
      decide (s.dev.fld (R.CRP_THERM_LIMIT.sub 0 8) < temp)) : Bool) = true ∧
    ((let s : State := { dev := (setC wBase (fun c => { c with rate16 := 9 })), pending := [] }; let temp : Nat := 50;
      decide (sound s.dev = true) && decide (s.dev.ctl.tripped = false) &&
      decide (temp + 5 ≤ s.dev.fld (R.CRP_THERM_LIMIT.sub 0 8))) : Bool) = true ∧
    ((let s : State := { dev := (put (put wBase R.CRP_PSTATE_STATUS_STATE 1) (R.FAB_PORT_STATE_STATE 5) 3), pending := [] }; let l : Nat := 5;
      decide (sound s.dev = true) && decide (l < 48) &&
      decide (s.dev.fld R.CRP_PSTATE_STATUS_STATE = 1 ∨ s.dev.fld R.CRP_PSTATE_STATUS_STATE = 2) &&
      decide (s.dev.linkState l = 3) && decide ((s.dev.link l).queue = []) &&
        decide ((s.dev.link l).unacked = [])) : Bool) = true ∧
    ((let s : State := { dev := (setC wBase (fun c => { c with perst := true, hostUp := false })), pending := [] };
      decide (sound s.dev = true) && decide (s.dev.ctl.perst = true) &&
      decide (s.dev.fld R.CRP_PSTATE_STATUS_STATE ≠ 3)) : Bool) = true ∧
    ((let s : State := { dev := (setY wYard 0 (fun r => { r with resetting := true })), pending := [] };
      let y : Nat := 0;
      decide (sound s.dev = true) && decide (s.dev.isYard y = true) && decide ((s.dev.yard y).resetting = true) &&
      decide (s.dev.ctl.warm = false)) : Bool) = true ∧
    ((let s : State := { dev := (setC wBase (fun c => { c with pend := some 3 })), pending := [] }; let p : Nat := 3;
      decide (sound s.dev = true) && decide (s.dev.ctl.warm = false) && decide (s.dev.ctl.tripped = false) &&
      decide (s.dev.ctl.pend = some p) && decide (p < 4) && decide (s.dev.fld R.CRP_PSTATE_STATUS_STATE ≠ 3 ∨
        p = 3)) : Bool) = true ∧
    ((let s : State := { dev := wBase, pending := [] }; let temp : Nat := 120;
      decide (sound s.dev = true) && decide (115 ≤ temp) && decide (s.dev.ctl.tripped = false)) : Bool) = true := by
  refine ⟨?_, ?_, ?_, ?_, ?_, ?_, ?_, ?_, ?_, ?_⟩ <;> decide +kernel

/-- The hypotheses of every clause of WarmResets are met, clause by clause. -/
theorem meets_WarmResets :
    ((let s : State := { dev := wBase, pending := [] };
      decide (sound s.dev = true) && decide (s.dev.ctl.tripped = false) &&
      decide (s.dev.fld R.CRP_PSTATE_STATUS_STATE ≠ 3)) : Bool) = true ∧
    ((let s : State := { dev := wBase, pending := [] };
      decide (sound s.dev = true) && decide (s.dev.pfOk = true)) : Bool) = true ∧
    ((let s : State := { dev := wBase, pending := [] };
      decide (sound s.dev = true) && decide (s.dev.ctl.tripped = false)) : Bool) = true ∧
    ((let s : State := { dev := (setC wBase (fun c => { c with warm := true })), pending := [] };
      decide (sound s.dev = true) && decide (s.dev.ctl.warm = true) &&
        decide (s.dev.ctl.tripped = false)) : Bool) = true := by
  refine ⟨?_, ?_, ?_, ?_⟩ <;> decide +kernel

/-- The hypotheses of every clause of YardResets are met, clause by clause. -/
theorem meets_YardResets :
    ((let s : State := { dev := wYard, pending := [] }; let y : Nat := 0;
      decide (sound s.dev = true) && decide (s.dev.present y = true) && decide (s.dev.bayState y ≠ 2) &&
      decide (s.dev.ctl.hostUp = true) && decide (s.dev.ctl.warm = false)) : Bool) = true ∧
    ((let s : State := { dev := wYard, pending := [] }; let v : Nat := 1; let y : Nat := 0;
      decide (sound s.dev = true) && decide (s.dev.pfOk = true) && decide (s.dev.isYard y = true) &&
      decide (s.dev.bayState y ≠ 2) && decide (bit v y = true) && decide (s.dev.fnState y = 2)) : Bool) = true := by
  refine ⟨?_, ?_⟩ <;> decide +kernel

/-- The hypotheses of every clause of EnableReleaseRake are met, clause by clause. -/
theorem meets_EnableReleaseRake :
    ((let s : State := { dev := (put wYard (R.BAY_FN_STATE_STATE 0) 1), pending := [] }; let b : Nat := 0;
      decide (sound s.dev = true) && decide (s.dev.pfOk = true) && decide (s.dev.ctl.pend = none) &&
      decide (s.dev.isYard b = true) && decide (s.dev.fnState b = 1) &&
        decide (s.dev.enableBarred b = false)) : Bool) = true ∧
    ((let s : State := { dev := wYard, pending := [] }; let b : Nat := 0;
      decide (sound s.dev = true) && decide (s.dev.pfOk = true) && decide (s.dev.isYard b = true) &&
      decide (s.dev.fnState b = 2)) : Bool) = true ∧
    ((let s : State := { dev := wYard, pending := [] }; let y : Nat := 0;
      decide (sound s.dev = true) && decide (s.dev.yfOk y = true)) : Bool) = true ∧
    ((let s : State := { dev := wRake, pending := [] }; let y : Nat := 0; let a : Nat := 5; let b : Nat := 5;
      decide (sound s.dev = true) && decide (s.dev.isYard y = true) && decide (s.dev.bayState y = 2) &&
      decide ((s.dev.yard y).drained = false) && decide (s.dev.ctl.tripped = false) &&
      decide (a < s.dev.capacity y 0) && decide (b < s.dev.capacity y 1)) : Bool) = true ∧
    ((let s : State := { dev := (setY wRake 0 (fun r => { r with drained := true })), pending := [] };
      let y : Nat := 0;
      decide (sound s.dev = true) && decide (s.dev.isYard y = true) && decide (s.dev.fnState y = 3) &&
      decide (s.dev.bayState y = 2) && decide ((s.dev.yard y).drained = true) &&
        decide (s.dev.ctl.tripped = false)) : Bool) = true := by
  refine ⟨?_, ?_, ?_, ?_, ?_⟩ <;> decide +kernel

/-- The hypotheses of every clause of HostLinkCommands are met, clause by clause. -/
theorem meets_HostLinkCommands :
    ((let s : State := { dev := wYard, pending := [] }; let y : Nat := 0;
      decide (sound s.dev = true) && decide (y < 12) && decide (s.dev.ctl.hostUp = true) &&
      decide (s.dev.ctl.tripped = false) && decide (s.dev.on (R.CRP_STATUS.sub 0 1) = true) &&
      decide (s.dev.present y = true)) : Bool) = true ∧
    ((let s : State := { dev := wYard, pending := [] }; let y : Nat := 0;
      decide (sound s.dev = true) && decide (y < 12) && decide (s.dev.ctl.hostUp = true) &&
      decide (s.dev.ctl.tripped = false) && decide (s.dev.on (R.CRP_STATUS.sub 0 1) = true) &&
      decide (s.dev.present y = true)) : Bool) = true ∧
    ((let s : State := { dev := wYard, pending := [] }; let y : Nat := 0;
      decide (sound s.dev = true) && decide (y < 12) && decide (s.dev.ctl.hostUp = true) &&
      decide (s.dev.ctl.tripped = false) && decide (s.dev.on (R.CRP_STATUS.sub 0 1) = true) &&
      decide (s.dev.present y = true)) : Bool) = true ∧
    ((let s : State := { dev := wYard, pending := [] };
      decide (sound s.dev = true) && decide (s.dev.ctl.hostUp = true) && decide (s.dev.ctl.tripped = false) &&
      decide (s.dev.on (R.CRP_STATUS.sub 0 1) = true)) : Bool) = true ∧
    ((let s : State := { dev := (put wYard (R.CRP_STATUS.sub 0 1) 0), pending := [] };
      decide (sound s.dev = true) && decide (s.dev.ctl.hostUp = true) && decide (s.dev.ctl.tripped = false) &&
      decide (s.dev.ctl.warm = false) && decide (s.dev.on (R.CRP_STATUS.sub 0 1) = false)) : Bool) = true ∧
    ((let s : State := { dev := wYard, pending := [] }; let y : Nat := 1;
      decide (sound s.dev = true) && decide (s.dev.ctl.hostUp = true) && decide (s.dev.ctl.tripped = false) &&
      decide (s.dev.on (R.CRP_STATUS.sub 0 1) = true) && decide (s.dev.isYard y = false)) : Bool) = true ∧
    ((let s : State := { dev := wYard, pending := [] };
      decide (sound s.dev = true) && decide (s.dev.ctl.tripped = false)) : Bool) = true := by
  refine ⟨?_, ?_, ?_, ?_, ?_, ?_, ?_⟩ <;> decide +kernel

/-- The hypotheses of every clause of FreezeCommands are met, clause by clause. -/
theorem meets_FreezeCommands :
    ((let s : State := { dev := wYard, pending := [] }; let y : Nat := 0; let mode : Nat := 1;
      decide (sound s.dev = true) && decide (s.dev.yfOk y = true) &&
      decide (s.dev.fld (R.YRD_FRZ_STATUS_STATE y) = 0) && decide (mode % 2 = 1 ∨ s.dev.plnState y ∉ [3,
        4])) : Bool) = true ∧
    ((let s : State := { dev := (wPlan (mkPlan [] [] [])), pending := [] }; let y : Nat := 0; let mode : Nat := 0;
      decide (sound s.dev = true) && decide (s.dev.yfOk y = true) &&
      decide (s.dev.fld (R.YRD_FRZ_STATUS_STATE y) = 0) && decide (mode % 2 = 0) && decide (s.dev.plnState y ∈ [3,
        4])) : Bool) = true ∧
    ((let s : State := { dev := wYard, pending := [] }; let y : Nat := 0; let v : Nat := 1;
      decide (sound s.dev = true) && decide (s.dev.pfOk = true) && decide (s.dev.isYard y = true) &&
      decide (bit v y = true) && decide (s.dev.yfOk y = true) && decide (s.dev.fld (R.YRD_FRZ_STATUS_STATE y) = 0) &&
      decide (bit v 12 = true ∨ s.dev.plnState y ∉ [3, 4])) : Bool) = true ∧
    ((let s : State := { dev := (setY (put (wPlan (mkPlan [] [] [])) (R.YRD_FRZ_STATUS_STATE 0) 1) 0 (fun r => { r with failed := true, frz := some { prior := 3, mode := 0, byOp := false, stream := [] } })), pending := [] }; let y : Nat := 0; let f : Frz := { prior := 3, mode := 0, byOp := false, stream := [] };
      decide (sound s.dev = true) && decide (s.dev.live y = true) &&
      decide (s.dev.fld (R.YRD_FRZ_STATUS_STATE y) = 1) && decide ((s.dev.yard y).frz = some f) &&
      decide ((s.dev.yard y).thrs.all (fun h => h.active.isNone) = true) &&
      decide ((s.dev.yard y).failed = true ∨
        (List.range (s.dev.yard y).thrs.length).all (fun t => !((s.dev.yard y).plan.map (fun p => s.dev.opOpen y t p)).getD false) = true)) : Bool) = true ∧
    ((let s : State := { dev := wYard, pending := [] }; let y : Nat := 0;
      decide (sound s.dev = true) && decide (s.dev.yfOk y = true)) : Bool) = true := by
  refine ⟨?_, ?_, ?_, ?_, ?_⟩ <;> decide +kernel

/-- The hypotheses of every clause of SaveAndRestoreCommands are met, clause by clause. -/
theorem meets_SaveAndRestoreCommands :
    ((let s : State := { dev := (setY (put wYard (R.YRD_FRZ_STATUS_STATE 0) 2) 0 (fun r => { r with frz := some { prior := 0, mode := 0, byOp := false, stream := [] }, keys := some { id := [], jms := [], mig := [] }  })), pending := [] }; let y : Nat := 0; let f : Frz := { prior := 0, mode := 0, byOp := false, stream := [] };
      decide (sound s.dev = true) && decide (s.dev.yfOk y = true) &&
      decide (s.dev.fld (R.YRD_FRZ_STATUS_STATE y) = 2) && decide ((s.dev.yard y).frz = some f)) : Bool) = true ∧
    ((let s : State := { dev := (setY (put wYard (R.YRD_FRZ_STATUS_STATE 0) 2) 0 (fun r => { r with frz := some { prior := 0, mode := 0, byOp := false, stream := [] }, keys := some { id := [], jms := [], mig := [] }  })), pending := [] }; let y : Nat := 0; let f : Frz := { prior := 0, mode := 0, byOp := false, stream := [] }; let ks : KeySet := { id := [], jms := [], mig := [] };
      decide (sound s.dev = true) && decide (s.dev.yfOk y = true) &&
      decide (s.dev.fld (R.YRD_FRZ_STATUS_STATE y) = 2) && decide ((s.dev.yard y).frz = some f) &&
      decide ((s.dev.yard y).keys = some ks) && decide (s.dev.mem.uc = []) &&
      decide (s.dev.farPorts.all (fun q => s.dev.on (R.MEM_FAR_PORT_LINK_UP q)) = true)) : Bool) = true ∧
    ((let s : State := { dev := (put (setY (put wYard (R.YRD_FRZ_STATUS_STATE 0) 3) 0 (fun r => { r with frz := some { prior := 0, mode := 0, byOp := false, stream := [] }, keys := some { id := [], jms := [], mig := [] }  })) (R.YRD_FRZ_PARTS 0) 4), pending := [] }; let y : Nat := 0; let f : Frz := { prior := 0, mode := 0, byOp := false, stream := [] }; let ks : KeySet := { id := [], jms := [], mig := [] }; let k : Nat := 0;
      decide (sound s.dev = true) && decide (s.dev.fld (R.YRD_FRZ_STATUS_STATE y) = 3) &&
      decide ((s.dev.yard y).frz = some f) && decide ((s.dev.yard y).keys = some ks) &&
      decide (s.dev.partsMove y = true) && decide (s.dev.keyed y = true) &&
      decide (s.dev.fld (R.YRD_FRZ_DONE y) = k) && decide (k + 1 < s.dev.fld (R.YRD_FRZ_PARTS y)) &&
      decide (k < s.dev.fld (R.YRD_FRZ_ACK y) + 2)) : Bool) = true ∧
    ((let s : State := { dev := (setY (put wYard (R.YRD_FRZ_STATUS_STATE 0) 2) 0 (fun r => { r with frz := some { prior := 0, mode := 0, byOp := false, stream := [] }, keys := some { id := [], jms := [], mig := [] }  })), pending := [] }; let y : Nat := 0; let f : Frz := { prior := 0, mode := 0, byOp := false, stream := [] }; let ks : KeySet := { id := [], jms := [], mig := [] };
      decide (sound s.dev = true) && decide (s.dev.yfOk y = true) &&
      decide (s.dev.fld (R.YRD_FRZ_STATUS_STATE y) = 2) && decide ((s.dev.yard y).frz = some f) &&
      decide ((s.dev.yard y).keys = some ks) && decide (f.prior = 0) &&
      decide ((ofYard s.dev.conns y).all (fun e => e.2.st == 0) = true) &&
        decide (s.dev.ctxCount y = 0)) : Bool) = true ∧
    ((let s : State := { dev := (put (setY (put wYard (R.YRD_FRZ_STATUS_STATE 0) 4) 0 (fun r => { r with frz := some { prior := 0, mode := 0, byOp := false, stream := [] }, keys := some { id := [], jms := [], mig := [] }  })) (R.YRD_FRZ_ACK 0) 2), pending := [] }; let y : Nat := 0; let f : Frz := { prior := 0, mode := 0, byOp := false, stream := [] }; let ks : KeySet := { id := [], jms := [], mig := [] }; let k : Nat := 0;
      decide (sound s.dev = true) && decide (s.dev.fld (R.YRD_FRZ_STATUS_STATE y) = 4) &&
      decide ((s.dev.yard y).frz = some f) && decide ((s.dev.yard y).keys = some ks) &&
      decide (s.dev.partsMove y = true) && decide (s.dev.fld (R.YRD_FRZ_DONE y) = k) &&
      decide (k < s.dev.fld (R.YRD_FRZ_ACK y))) : Bool) = true := by
  refine ⟨?_, ?_, ?_, ?_, ?_⟩ <;> decide +kernel

/-- The hypotheses of every clause of PageFaultCommands are met, clause by clause. -/
theorem meets_PageFaultCommands :
    ((let s : State := { dev := (put (setY wYard 0 (fun r => { r with faults := [{ bay := 0, pasid := 3, page := 7, write := false, grp := 1, waiters := [.inbound], replays := 0, limit := 2 }] })) (R.XLT_FAULT_PENDING 0) 1), pending := [] }; let y : Nat := 0; let pasid : Nat := 3; let page : Nat := 7; let f : FaultEnt := { bay := 0, pasid := 3, page := 7, write := false, grp := 1, waiters := [.inbound], replays := 0, limit := 2 };
      decide (sound s.dev = true) && decide (y < 12) && decide (s.dev.sentFault y pasid page = some f) &&
      decide (f.waiters.all (fun w => match w with | .ring _ => false | _ => true) = true) &&
      decide ((List.range (s.dev.yard y).thrs.length).all (fun t => ((s.dev.lapCtx y t).bind (fun z => z.L.stall)).isNone) = true)) : Bool) = true ∧
    ((let s : State := { dev := (put (setY wYard 0 (fun r => { r with faults := [{ bay := 0, pasid := 3, page := 7, write := false, grp := 1, waiters := [.inbound], replays := 0, limit := 2 }] })) (R.XLT_FAULT_PENDING 0) 1), pending := [] }; let y : Nat := 0; let pasid : Nat := 3; let page : Nat := 7; let f : FaultEnt := { bay := 0, pasid := 3, page := 7, write := false, grp := 1, waiters := [.inbound], replays := 0, limit := 2 };
      decide (sound s.dev = true) && decide (y < 12) && decide (s.dev.sentFault y pasid page = some f) &&
      decide (f.hasLocal = false)) : Bool) = true ∧
    ((let s : State := { dev := (put (setY wYard 0 (fun r => { r with faults := [{ bay := 0, pasid := 3, page := 7, write := false, grp := 1, waiters := [.seal], replays := 0, limit := 2 }] })) (R.XLT_FAULT_PENDING 0) 1), pending := [] }; let y : Nat := 0; let pasid : Nat := 3; let page : Nat := 7; let f : FaultEnt := { bay := 0, pasid := 3, page := 7, write := false, grp := 1, waiters := [.seal], replays := 0, limit := 2 };
      decide (sound s.dev = true) && decide (y < 12) && decide (s.dev.sentFault y pasid page = some f) &&
      decide (f.hasLocal = true) && decide (f.replays < f.limit)) : Bool) = true ∧
    ((let s : State := { dev := (put (setY wYard 0 (fun r => { r with faults := [{ bay := 0, pasid := 3, page := 7, write := false, grp := 1, waiters := [.inbound], replays := 0, limit := 2 }] })) (R.XLT_FAULT_PENDING 0) 1), pending := [] }; let y : Nat := 0; let pasid : Nat := 3; let page : Nat := 7; let f : FaultEnt := { bay := 0, pasid := 3, page := 7, write := false, grp := 1, waiters := [.inbound], replays := 0, limit := 2 };
      decide (sound s.dev = true) && decide (y < 12) && decide (s.dev.sentFault y pasid page = some f) &&
      decide ((s.dev.yard y).faults.all (fun g => !g.hasLocal) = true)) : Bool) = true ∧
    ((let s : State := { dev := (put (setY wYard 0 (fun r => { r with faults := [{ bay := 0, pasid := 3, page := 7, write := false, grp := 1, waiters := [.inbound], replays := 0, limit := 2 }] })) (R.XLT_FAULT_PENDING 0) 1), pending := [] }; let y : Nat := 0; let pasid : Nat := 3; let page : Nat := 7; let f : FaultEnt := { bay := 0, pasid := 3, page := 7, write := false, grp := 1, waiters := [.inbound], replays := 0, limit := 2 };
      decide (sound s.dev = true) && decide (y < 12) && decide (s.dev.sentFault y pasid page = some f) &&
      decide (f.hasLocal = false)) : Bool) = true ∧
    ((let s : State := { dev := (put (setY wYard 0 (fun r => { r with faults := [{ bay := 0, pasid := 3, page := 7, write := false, grp := 1, waiters := [.inbound], replays := 0, limit := 2 }] })) (R.XLT_FAULT_PENDING 0) 1), pending := [] }; let y : Nat := 0; let pasid : Nat := 3; let page : Nat := 7; let f : FaultEnt := { bay := 0, pasid := 3, page := 7, write := false, grp := 1, waiters := [.inbound], replays := 0, limit := 2 };
      decide (sound s.dev = true) && decide (y < 12) && decide (s.dev.sentFault y pasid page = some f) &&
      decide (f.hasLocal = false)) : Bool) = true ∧
    ((let s : State := { dev := (setY wYard 0 (fun r => { r with faults := [{ bay := 0, pasid := 3, page := 7, write := true, grp := 0, waiters := [], replays := 0, limit := 2 }] })), pending := [] }; let y : Nat := 0; let f : FaultEnt := { bay := 0, pasid := 3, page := 7, write := true, grp := 0, waiters := [], replays := 0, limit := 2 };
      decide (sound s.dev = true) && decide ((s.dev.yard y).faults = [f]) && decide (f.grp = 0) &&
      decide ((s.dev.yard y).alloc ≠ 0) && decide (s.dev.canMaster y = true)) : Bool) = true ∧
    ((let s : State := { dev := wYard, pending := [] }; let y : Nat := 0;
      decide (sound s.dev = true) && decide (s.dev.present y = true)) : Bool) = true ∧
    ((let s : State := { dev := (setY wYard 0 (fun r => { r with inval := [(3, 7, 1)] })), pending := [] };
      let y : Nat := 0; let tag : Nat := 1; let x : Nat × Nat × Nat := (3, 7, 1);
      decide (sound s.dev = true) && decide ((s.dev.yard y).inval.find? (fun x => x.2.2 == tag) = some x)) : Bool) = true := by
  refine ⟨?_, ?_, ?_, ?_, ?_, ?_, ?_, ?_, ?_⟩ <;> decide +kernel

/-- The hypotheses of every clause of AddressContextCommands are met, clause by clause. -/
theorem meets_AddressContextCommands :
    ((let s : State := { dev := (put wYard (R.XLT_CTX_COUNT 0) 4), pending := [] }; let y : Nat := 0;
      let bs : List Byte := [3, 0, 0, 0, 1, 0, 0, 0, 0, 0, 0, 0, 0, 0, 0, 0, 0, 0, 0, 0, 0, 0, 0, 0, 0, 0, 0, 0, 0,
      0, 0, 0, 0, 0, 0, 0, 0, 0, 0, 0, 0, 0, 0, 0, 0, 0, 0, 0, 0, 0, 0, 0, 0, 0, 0, 0, 0, 0, 0, 0, 0, 0, 0, 0];
      decide (sound s.dev = true) && decide (s.dev.yfOk y = true) && decide ((s.dev.yard y).fatal = false) &&
      decide (s.dev.frozen y = false) && decide (s.dev.canMaster y = true) && decide (le bs 0 4 < 2 ^ 20) &&
      decide (le bs 4 1 < 2) && decide (zeroAt bs 5 59 = true) &&
      decide (Tab.find s.dev.ctxs (yk y (le bs 0 4)) = none) &&
      decide (s.dev.ctxCount y < s.dev.fld (R.XLT_CTX_COUNT y)) &&
        decide ((s.dev.yard y).setSnap = none)) : Bool) = true ∧
    ((let s : State := { dev := { wYard with ctxs := [(yk 0 3, { host := true, segs := [] })], lay := { wYard.lay with cur := { wYard.lay.cur with share := 1 } } }, pending := [] }; let y : Nat := 0; let bs : List Byte := [3, 0, 0, 0, 2, 1, 0, 0, 0, 16, 0, 0, 0, 0, 0, 0, 0, 32, 0, 0, 0, 0, 0, 0, 0, 0, 0, 0, 0, 0, 0, 0, 0, 0, 0, 0, 0, 0, 0, 0, 0, 0, 0, 0, 0, 0, 0, 0, 0, 0, 0, 0, 0, 0, 0, 0, 0, 0, 0, 0, 0, 0, 0, 0]; let c : AddrCtx := { host := true, segs := [] };
      decide (sound s.dev = true) && decide (s.dev.yfOk y = true) && decide ((s.dev.yard y).fatal = false) &&
      decide (s.dev.frozen y = false) && decide (s.dev.canMaster y = true) && decide (le bs 0 4 < 2 ^ 20) &&
      decide (le bs 4 1 < 8) && decide (le bs 5 1 < 3) && decide (le bs 8 8 % 4096 = 0) &&
      decide (le bs 0x10 8 % 4096 = 0) && decide (le bs 0x10 8 ≠ 0) && decide (zeroAt bs 6 2 = true) &&
      decide (zeroAt bs 0x18 40 = true) && decide (Tab.find s.dev.ctxs (yk y (le bs 0 4)) = some c) &&
      decide (Tab.find c.segs (le bs 4 1) = none) &&
      decide (le bs 8 8 + le bs 0x10 8 ≤ s.dev.capacity y (le bs 5 1)) &&
      decide ((s.dev.poolRanges y (le bs 5 1)).all (fun r => !(decide (le bs 8 8 < r.2) &&
        decide (r.1 < le bs 8 8 + le bs 0x10 8))) = true) &&
      decide ((s.dev.yard y).setSnap = none)) : Bool) = true ∧
    ((let s : State := { dev := { wYard with ctxs := [(yk 0 3, { host := false, segs := [(2, { tier := 1, yaddr := 4096, len := 8192 })] })] }, pending := [] }; let y : Nat := 0; let bs : List Byte := [3, 0, 0, 0, 2, 0, 0, 0, 0, 0, 0, 0, 0, 0, 0, 0, 0, 0, 0, 0, 0, 0, 0, 0, 0, 0, 0, 0, 0, 0, 0, 0, 0, 0, 0, 0, 0, 0, 0, 0, 0, 0, 0, 0, 0, 0, 0, 0, 0, 0, 0, 0, 0, 0, 0, 0, 0, 0, 0, 0, 0, 0, 0, 0]; let c : AddrCtx := { host := false, segs := [(2, { tier := 1, yaddr := 4096, len := 8192 })] }; let g : Seg := { tier := 1, yaddr := 4096, len := 8192 };
      decide (sound s.dev = true) && decide (s.dev.yfOk y = true) && decide ((s.dev.yard y).fatal = false) &&
      decide (s.dev.frozen y = false) && decide (s.dev.canMaster y = true) && decide (le bs 0 4 < 2 ^ 20) &&
      decide (le bs 4 1 < 8) && decide (zeroAt bs 5 59 = true) &&
      decide (Tab.find s.dev.ctxs (yk y (le bs 0 4)) = some c) && decide (Tab.wf c.segs = true) &&
      decide (Tab.find c.segs (le bs 4 1) = some g) && decide (s.dev.segHeld y (le bs 0 4) (le bs 4 1) = false) &&
      decide ((s.dev.yard y).setSnap = none)) : Bool) = true ∧
    ((let s : State := { dev := { wYard with ctxs := [(yk 0 3, { host := false, segs := [(2, { tier := 1, yaddr := 4096, len := 8192 })] })] }, pending := [] }; let y : Nat := 0; let bs : List Byte := [3, 0, 0, 0, 0, 0, 0, 0, 0, 0, 0, 0, 0, 0, 0, 0, 0, 0, 0, 0, 0, 0, 0, 0, 0, 0, 0, 0, 0, 0, 0, 0, 0, 0, 0, 0, 0, 0, 0, 0, 0, 0, 0, 0, 0, 0, 0, 0, 0, 0, 0, 0, 0, 0, 0, 0, 0, 0, 0, 0, 0, 0, 0, 0]; let c : AddrCtx := { host := false, segs := [(2, { tier := 1, yaddr := 4096, len := 8192 })] };
      decide (sound s.dev = true) && decide (s.dev.yfOk y = true) && decide ((s.dev.yard y).fatal = false) &&
      decide (s.dev.frozen y = false) && decide (s.dev.canMaster y = true) && decide (le bs 0 4 < 2 ^ 20) &&
      decide (zeroAt bs 4 60 = true) && decide (Tab.find s.dev.ctxs (yk y (le bs 0 4)) = some c) &&
      decide ((ofYard s.dev.rings y).all (fun r => !r.2.sq.bound && !r.2.rq.bound) = true) &&
      decide ((List.range 8).all (fun g => !s.dev.segHeld y (le bs 0 4) g) = true) &&
      decide ((s.dev.yard y).setSnap = none)) : Bool) = true := by
  refine ⟨?_, ?_, ?_, ?_⟩ <;> decide +kernel

/-- The hypotheses of every clause of WindowCommands are met, clause by clause. -/
theorem meets_WindowCommands :
    ((let s : State := { dev := { wYard with ctxs := [(yk 0 3, { host := true, segs := [] })], lay := { wYard.lay with cur := { wYard.lay.cur with share := 1 } } }, pending := [] }; let y : Nat := 0; let bs : List Byte := [3, 0, 0, 0, 1, 0, 3, 0, 0, 0, 0, 0, 0, 0, 0, 0, 0, 16, 0, 0, 0, 0, 0, 0, 255, 255, 255, 0, 0, 0, 0, 0, 0, 0, 0, 0, 0, 0, 0, 0, 0, 0, 0, 0, 0, 0, 0, 0, 0, 0, 0, 0, 0, 0, 0, 0, 0, 0, 0, 0, 0, 0, 0, 0]; let c : AddrCtx := { host := true, segs := [] };
      decide (sound s.dev = true) && decide (s.dev.yfOk y = true) && decide ((s.dev.yard y).fatal = false) &&
      decide (s.dev.frozen y = false) && decide (s.dev.canMaster y = true) && decide (le bs 0 4 < 2 ^ 20) &&
      decide (le bs 4 1 < 2) && decide (le bs 4 1 = 1 ∨ le bs 5 1 < 8) && decide (le bs 6 1 < 16) &&
      decide (zeroAt bs 7 1 = true) && decide (le bs 8 8 % 64 = 0) && decide (le bs 0x10 8 % 64 = 0) &&
      decide (64 ≤ le bs 0x10 8) && decide (le bs 0x10 8 ≤ 2 ^ 63) &&
      decide (le bs 0x18 4 = 0xFFFFFF ∨ le bs 0x18 4 < s.dev.connCount y) && decide (zeroAt bs 0x1C 36 = true) &&
      decide (Tab.find s.dev.ctxs (yk y (le bs 0 4)) = some c) &&
      decide (le bs 4 1 = 0 ∨ (c.host = true ∧ le bs 8 8 + le bs 0x10 8 ≤ 2 ^ 64)) &&
      decide (le bs 4 1 = 1 ∨ (s.dev.segAt y (le bs 0 4) (le bs 5 1) (le bs 8 8) (le bs 0x10 8)).isSome = true) &&
      decide ((s.dev.yard y).winFresh < s.dev.winCount y) && decide ((s.dev.yard y).setSnap = none)) : Bool) = true ∧
    ((let s : State := { dev := { wYard with wins := [(yk 0 0, { Win.blank with state := 1, gen := 1, len := 64 })] }, pending := [] }; let y : Nat := 0; let bs : List Byte := [1, 0, 0, 0, 0, 0, 0, 0, 0, 0, 0, 0, 0, 0, 0, 0, 0, 0, 0, 0, 0, 0, 0, 0, 0, 0, 0, 0, 0, 0, 0, 0, 0, 0, 0, 0, 0, 0, 0, 0, 0, 0, 0, 0, 0, 0, 0, 0, 0, 0, 0, 0, 0, 0, 0, 0, 0, 0, 0, 0, 0, 0, 0, 0];
      decide (sound s.dev = true) && decide (s.dev.yfOk y = true) && decide ((s.dev.yard y).fatal = false) &&
      decide (s.dev.frozen y = false) && decide (s.dev.canMaster y = true) && decide (zeroAt bs 4 60 = true) &&
      decide (le bs 1 3 < s.dev.winCount y) && decide ((s.dev.win y (le bs 1 3)).gen = le bs 0 1) &&
      decide ((s.dev.win y (le bs 1 3)).state = 1) && decide ((s.dev.yard y).setSnap = none)) : Bool) = true ∧
    ((let s : State := { dev := { wYard with wins := [(yk 0 0, { Win.blank with state := 2, gen := 1, len := 64 })] }, pending := [] }; let y : Nat := 0; let i : Nat := 0;
      decide (sound s.dev = true) && decide ((s.dev.win y i).state = 2) &&
        decide ((s.dev.win y i).inflight = 0)) : Bool) = true ∧
    ((let s : State := { dev := { wYard with wins := [(yk 0 0, { Win.blank with state := 1, gen := 1, len := 64 })] }, pending := [] }; let y : Nat := 0; let bs : List Byte := [1, 0, 0, 0, 0, 0, 0, 0, 0, 0, 0, 0, 0, 0, 0, 0, 0, 0, 0, 0, 0, 0, 0, 0, 0, 0, 0, 0, 0, 0, 0, 0, 0, 0, 0, 0, 0, 0, 0, 0, 0, 0, 0, 0, 0, 0, 0, 0, 0, 0, 0, 0, 0, 0, 0, 0, 0, 0, 0, 0, 0, 0, 0, 0];
      decide (sound s.dev = true) && decide (s.dev.yfOk y = true) && decide ((s.dev.yard y).fatal = false) &&
      decide (s.dev.frozen y = false) && decide (s.dev.canMaster y = true) &&
      decide (le bs 1 3 < s.dev.winCount y) && decide ((s.dev.yard y).setSnap = none)) : Bool) = true ∧
    ((let s : State := { dev := (put wYard (R.XLT_STATUS_PRI_FAILED 0) 1), pending := [] }; let y : Nat := 0;
      decide (sound s.dev = true) && decide (s.dev.yfOk y = true) && decide ((s.dev.yard y).fatal = false) &&
      decide (s.dev.frozen y = false) && decide ((s.dev.yard y).setSnap = none)) : Bool) = true ∧
    ((let s : State := { dev := wYard, pending := [] }; let y : Nat := 0; let v : Nat := 1; let k : Nat := 2;
      let m : Nat := 3;
      decide (sound s.dev = true) && decide (s.dev.yfOk y = true) && decide (bit v 0 = true) && decide (k < 12) &&
      decide (m < 10)) : Bool) = true := by
  refine ⟨?_, ?_, ?_, ?_, ?_, ?_⟩ <;> decide +kernel

/-- The hypotheses of every clause of MemoryTierEvents are met, clause by clause. -/
theorem meets_MemoryTierEvents :
    ((let s : State := { dev := (put wYard (R.MEM_SCRUB_CTRL) 1), pending := [] }; let dv : Nat := 0;
      let block : Nat := 2; let y : Nat := 0; let a : Nat := 12288;
      decide (sound s.dev = true) && decide (bit s.dev.ctl.scrub 0 = true) &&
      decide (bit (s.dev.fld R.MEM_SCRUB_CTRL) 0 = true) && decide (dv < 24) &&
      decide (s.dev.nearBlock dv block = some (y, a))) : Bool) = true ∧
    ((let s : State := { dev := wYard, pending := [] }; let dv : Nat := 0;
      decide (sound s.dev = true) && decide (bit s.dev.ctl.scrub 0 = true) && decide (dv < 24)) : Bool) = true ∧
    ((let s : State := { dev := (put wYard (R.MEM_SCRUB_CTRL) 1), pending := [] }; let dv : Nat := 0;
      decide (sound s.dev = true) && decide (bit s.dev.ctl.scrub 0 = true) &&
      decide (bit (s.dev.fld R.MEM_SCRUB_CTRL) 0 = true) && decide (dv < 24)) : Bool) = true ∧
    ((let s : State := { dev := (put wBase (R.MEM_FAR_PORT_LINK_UP 4) 1), pending := [] }; let q : Nat := 4;
      decide (sound s.dev = true) && decide (q < 16) &&
        decide (s.dev.on (R.MEM_FAR_PORT_LINK_UP q) = true)) : Bool) = true ∧
    ((let s : State := { dev := wBase, pending := [] }; let q : Nat := 4;
      decide (sound s.dev = true) && decide (q < 16) && decide (s.dev.ctl.tripped = false) &&
      decide (s.dev.fld R.CRP_PSTATE_STATUS_STATE ≠ 3)) : Bool) = true := by
  refine ⟨?_, ?_, ?_, ?_, ?_⟩ <;> decide +kernel

/-- The hypotheses of every clause of PlanCommands are met, clause by clause. -/
theorem meets_PlanCommands :
    ((let s : State := { dev := wYard, pending := [] }; let y : Nat := 0;
      decide (sound s.dev = true) && decide (s.dev.yfOk y = true) && decide ((s.dev.yard y).fatal = false) &&
      decide (s.dev.plnState y = 0) && decide ((s.dev.yard y).setSnap = none)) : Bool) = true ∧
    ((let s : State := { dev := (put wYard (R.PLN_STATUS_STATE 0) 1), pending := [] }; let y : Nat := 0;
      decide (sound s.dev = true) && decide (s.dev.present y = true) && decide (s.dev.plnState y = 1) &&
      decide (s.dev.frozen y = false)) : Bool) = true ∧
    ((let s : State := { dev := (setY (put wYard (R.PLN_STATUS_STATE 0) 1) 0 (fun r => { r with loadSnap := some (0x1000, 64) })), pending := [] }; let y : Nat := 0; let a : Nat := 0x1000; let n : Nat := 64;
      decide (sound s.dev = true) && decide (s.dev.present y = true) && decide (s.dev.plnState y = 1) &&
      decide (s.dev.frozen y = false) && decide (s.dev.canMaster y = true) &&
      decide ((s.dev.yard y).loadSnap = some (a, n))) : Bool) = true ∧
    ((let s : State := { dev := (put wYard (R.PLN_STATUS_STATE 0) 2), pending := [] }; let y : Nat := 0;
      decide (sound s.dev = true) && decide (s.dev.yfOk y = true) && decide ((s.dev.yard y).fatal = false) &&
      decide (s.dev.plnState y = 2) && decide ((s.dev.yard y).setSnap = none)) : Bool) = true ∧
    ((let s : State := { dev := (put wYard (R.PLN_STATUS_STATE 0) 3), pending := [] }; let y : Nat := 0;
      decide (sound s.dev = true) && decide (s.dev.yfOk y = true) && decide ((s.dev.yard y).fatal = false) &&
      decide (s.dev.plnState y = 3) && decide ((s.dev.yard y).setSnap = none)) : Bool) = true ∧
    ((let s : State := { dev := (put wYard (R.PLN_STATUS_STATE 0) 5), pending := [] }; let y : Nat := 0;
      decide (sound s.dev = true) && decide (s.dev.yfOk y = true) && decide ((s.dev.yard y).fatal = false) &&
      decide (s.dev.plnState y ∈ [2, 5]) && decide ((s.dev.yard y).setSnap = none)) : Bool) = true ∧
    ((let s : State := { dev := (setY (put wYard (R.PLN_STATUS_STATE 0) 7) 0 (fun r => { r with plan := some (mkPlan [] [] []) })), pending := [] }; let y : Nat := 0;
      decide (sound s.dev = true) && decide (s.dev.present y = true) &&
        decide (s.dev.plnState y = 7)) : Bool) = true ∧
    ((let s : State := { dev := (put wYard (R.PLN_STATUS_STATE 0) 5), pending := [] }; let y : Nat := 0;
      decide (sound s.dev = true) && decide (s.dev.yfOk y = true) && decide ((s.dev.yard y).fatal = false) &&
      decide (s.dev.plnState y = 5) && decide ((s.dev.yard y).setSnap = none)) : Bool) = true := by
  refine ⟨?_, ?_, ?_, ?_, ?_, ?_, ?_, ?_⟩ <;> decide +kernel

/-- The hypotheses of every clause of SequencerCommands are met, clause by clause. -/
theorem meets_SequencerCommands :
    ((let s : State := { dev := (setY (wPlan (mkPlan [(mkStep 0x09 [5, 0xFF])] [] [])) 0 (fun r => { r with running := false, thrs := [] })), pending := [] }; let y : Nat := 0; let p : Plan := (mkPlan [(mkStep 0x09 [5, 0xFF])] [] []); let e : Nat := 3;
      decide (sound s.dev = true) && decide ((s.dev.yard y).plan = some p) && decide (s.dev.live y = true) &&
      decide ((s.dev.yard y).fatal = false) && decide ((s.dev.yard y).running = false) &&
      decide (s.dev.plnState y = 3) && decide (s.dev.fld (R.YRD_FRZ_STATUS_STATE y) ≠ 1) &&
        decide (e < 64)) : Bool) = true ∧
    ((let s : State := { dev := (wPlan (mkPlan [(mkStep 0x09 [5, 0xFF])] [] [])), pending := [] }; let y : Nat := 0;
      let t : Nat := 0; let p : Plan := (mkPlan [(mkStep 0x09 [5, 0xFF])] [] []);
      let h : Thr := { pc := 0, stop := 1, loops := [], active := none, waiting := false };
      let st : Machine.Step := (mkStep 0x09 [5, 0xFF]);
      decide (sound s.dev = true) && decide ((s.dev.yard y).plan = some p) &&
      decide ((s.dev.yard y).thrs[t]? = some h) && decide (p.steps[h.pc]? = some st) &&
      decide ((s.dev.issue y t tWait).isSome = true) && decide (st.isLocal 3 = false)) : Bool) = true ∧
    ((let s : State := { dev := (wActive (mkPlan [(mkStep 0x09 [5, 0xFF]), (mkStep 0x09 [5, 0xFF])] [] []) id), pending := [] }; let y : Nat := 0; let t : Nat := 0; let p : Plan := (mkPlan [(mkStep 0x09 [5, 0xFF]), (mkStep 0x09 [5, 0xFF])] [] []); let h : Thr := { pc := 0, stop := 2, loops := [], waiting := false, active := some { step := 0, env := [0, 0, 0, 0], code := none, runs := [], live := false, lap := none, stream := none, origin := none } }; let st : Machine.Step := (mkStep 0x09 [5, 0xFF]); let a : Active := { step := 0, env := [0, 0, 0, 0], code := none, runs := [], live := false, lap := none, stream := none, origin := none };
      decide (sound s.dev = true) && decide (s.dev.live y = true) && decide ((s.dev.yard y).thrs[t]? = some h) &&
      decide (s.dev.activeStep y t = some (p, st, a)) && decide (st.type = tWait) &&
      decide (st.waitSum a.env ≤ (s.dev.fld (R.PLN_EVENT y (st.sp 0x68 1)) : Int)) &&
      decide ((s.dev.yard y).failed = false)) : Bool) = true ∧
    ((let s : State := { dev := (wPlan (mkPlan [(mkStep 0x0A [0, 3, 0, 0, 7])] [] [])), pending := [] };
      let y : Nat := 0; let t : Nat := 0; let p : Plan := (mkPlan [(mkStep 0x0A [0, 3, 0, 0, 7])] [] []);
      let h : Thr := { pc := 0, stop := 1, loops := [], active := none, waiting := false };
      let st : Machine.Step := (mkStep 0x0A [0, 3, 0, 0, 7]);
      decide (sound s.dev = true) && decide ((s.dev.yard y).plan = some p) &&
      decide ((s.dev.yard y).thrs[t]? = some h) && decide (p.steps[h.pc]? = some st) &&
      decide ((s.dev.issue y t tSignal).isSome = true) && decide (st.sp 0x68 1 = 0) && decide (st.sp 0x69 1 < 64) &&
      decide (st.isLocal 3 = false)) : Bool) = true ∧
    ((let s : State := { dev := (setC (wPlan (mkPlan [(mkStep 0x0A [2, 3, 9, 0, 7])] [] [])) (fun c => { c with msixOpen := [(mk 1 9, 1)] })), pending := [] }; let y : Nat := 0; let t : Nat := 0; let p : Plan := (mkPlan [(mkStep 0x0A [2, 3, 9, 0, 7])] [] []); let h : Thr := { pc := 0, stop := 1, loops := [], active := none, waiting := false }; let st : Machine.Step := (mkStep 0x0A [2, 3, 9, 0, 7]);
      decide (sound s.dev = true) && decide ((s.dev.yard y).plan = some p) &&
      decide ((s.dev.yard y).thrs[t]? = some h) && decide (p.steps[h.pc]? = some st) &&
      decide ((s.dev.issue y t tSignal).isSome = true) && decide (st.sp 0x68 1 = 2) &&
      decide (st.isLocal 3 = false) && decide (Tab.num s.dev.ctl.msixOpen (mk (y + 1) (st.sp 0x6A 2)) ≠ 0) &&
      decide (s.dev.canMaster y = true)) : Bool) = true ∧
    ((let s : State := { dev := (setY (wPlan (mkPlan [(mkStep 0x0A [1, 3, 0, 0, 7, 0, 0, 0, 1, 1])] [] [])) 0 (fun r => { r with keys := some { id := [], jms := [], mig := [] } })), pending := [] }; let y : Nat := 0; let t : Nat := 0; let p : Plan := (mkPlan [(mkStep 0x0A [1, 3, 0, 0, 7, 0, 0, 0, 1, 1])] [] []); let h : Thr := { pc := 0, stop := 1, loops := [], active := none, waiting := false }; let st : Machine.Step := (mkStep 0x0A [1, 3, 0, 0, 7, 0, 0, 0, 1, 1]); let kk : KeySet := { id := [], jms := [], mig := [] }; let b : Nat := 1;
      decide (sound s.dev = true) && decide ((s.dev.yard y).plan = some p) &&
      decide ((s.dev.yard y).thrs[t]? = some h) && decide (p.steps[h.pc]? = some st) &&
      decide ((s.dev.issue y t tSignal).isSome = true) && decide (st.sp 0x68 1 = 1) &&
      decide (st.isLocal 3 = false) && decide ((s.dev.yard y).keys = some kk) && decide (s.dev.keyed y = true) &&
      decide (s.dev.group (st.sp 0x70 2) = none) && decide (s.dev.fab.draining = false) &&
      decide (s.dev.bayAt (st.sp 0x70 2) = some b) && decide (s.dev.takes b = true)) : Bool) = true ∧
    ((let s : State := { dev := (wPlan (mkPlan [(mkStep 0x0A [1, 3, 0, 0, 7, 0, 0, 0, 1, 1])] [] [])), pending := [] }; let y : Nat := 0; let t : Nat := 0; let p : Plan := (mkPlan [(mkStep 0x0A [1, 3, 0, 0, 7, 0, 0, 0, 1, 1])] [] []); let h : Thr := { pc := 0, stop := 1, loops := [], active := none, waiting := false }; let st : Machine.Step := (mkStep 0x0A [1, 3, 0, 0, 7, 0, 0, 0, 1, 1]);
      decide (sound s.dev = true) && decide ((s.dev.yard y).plan = some p) &&
      decide ((s.dev.yard y).thrs[t]? = some h) && decide (p.steps[h.pc]? = some st) &&
      decide ((s.dev.issue y t tSignal).isSome = true) && decide (st.sp 0x68 1 = 1) &&
      decide (st.isLocal 3 = false) && decide (s.dev.group (st.sp 0x70 2) = none) &&
        decide (s.dev.keyed y = false)) : Bool) = true ∧
    ((let s : State := { dev := (wPlan (mkPlan [{ mkStep 0x0B [0, 0, 2, 0] with count := 3 }] [] [])), pending := [] }; let y : Nat := 0; let t : Nat := 0; let p : Plan := (mkPlan [{ mkStep 0x0B [0, 0, 2, 0] with count := 3 }] [] []); let h : Thr := { pc := 0, stop := 1, loops := [], active := none, waiting := false }; let st : Machine.Step := { mkStep 0x0B [0, 0, 2, 0] with count := 3 };
      decide (sound s.dev = true) && decide ((s.dev.yard y).plan = some p) &&
      decide ((s.dev.yard y).thrs[t]? = some h) && decide (p.steps[h.pc]? = some st) &&
      decide ((s.dev.issue y t tLoop).isSome = true) && decide (st.sp 0x68 2 = 0)) : Bool) = true ∧
    ((let s : State := { dev := (wPlan (mkPlan [{ mkStep 0x0B [1, 0, 2, 0] with count := 3 }, (mkStep 0x09 [5, 0xFF])] [] [])), pending := [] }; let y : Nat := 0; let t : Nat := 0; let p : Plan := (mkPlan [{ mkStep 0x0B [1, 0, 2, 0] with count := 3 }, (mkStep 0x09 [5, 0xFF])] [] []); let h : Thr := { pc := 0, stop := 2, loops := [], active := none, waiting := false }; let st : Machine.Step := { mkStep 0x0B [1, 0, 2, 0] with count := 3 };
      decide (sound s.dev = true) && decide ((s.dev.yard y).plan = some p) &&
      decide ((s.dev.yard y).thrs[t]? = some h) && decide (p.steps[h.pc]? = some st) &&
      decide ((s.dev.issue y t tLoop).isSome = true) && decide (st.sp 0x68 2 ≠ 0)) : Bool) = true ∧
    ((let s : State := { dev := (wPlan (mkPlan [{ mkStep 0x01 [] with count := 4, in0 := ⟨0, 0xFF, 0, 0, 0⟩, out := ⟨1, 0xFF, 0, 0, 0⟩ }] [] [{ kind := 0, tier := 0, seg := 0, pasid := 0, off := 0, len := 64, addr := 0 }, { kind := 0, tier := 1, seg := 0, pasid := 0, off := 0, len := 64, addr := 0 }])), pending := [] }; let y : Nat := 0; let t : Nat := 0; let p : Plan := (mkPlan [{ mkStep 0x01 [] with count := 4, in0 := ⟨0, 0xFF, 0, 0, 0⟩, out := ⟨1, 0xFF, 0, 0, 0⟩ }] [] [{ kind := 0, tier := 0, seg := 0, pasid := 0, off := 0, len := 64, addr := 0 }, { kind := 0, tier := 1, seg := 0, pasid := 0, off := 0, len := 64, addr := 0 }]); let h : Thr := { pc := 0, stop := 1, loops := [], active := none, waiting := false }; let st : Machine.Step := { mkStep 0x01 [] with count := 4, in0 := ⟨0, 0xFF, 0, 0, 0⟩, out := ⟨1, 0xFF, 0, 0, 0⟩ }; let ta : Nat := 0; let a : Nat := 0; let tb : Nat := 1; let b : Nat := 0;
      decide (sound s.dev = true) && decide ((s.dev.yard y).plan = some p) &&
      decide ((s.dev.yard y).thrs[t]? = some h) && decide (p.steps[h.pc]? = some st) &&
      decide ((s.dev.issue y t tMove).isSome = true) && decide (p.prog st = none) && decide (st.isLocal 3 = true) &&
      decide (s.dev.refPlace y p st h.env 0 = some (.mem ta a)) &&
      decide (s.dev.refPlace y p st h.env 3 = some (.mem tb b)) && decide (ta ≠ 2) && decide (tb ≠ 2) &&
      decide (s.dev.mem.uc = [])) : Bool) = true ∧
    ((let s : State := { dev := (wPlan (mkPlan [{ mkStep 0x01 [] with count := 4, in0 := ⟨0, 0xFF, 0, 0, 0⟩, out := ⟨1, 0xFF, 0, 0, 0⟩ }] [] [{ kind := 2, tier := 0, seg := 0, pasid := 0, off := 0x1000, len := 64, addr := 0 }, { kind := 0, tier := 1, seg := 0, pasid := 0, off := 0, len := 64, addr := 0 }])), pending := [] }; let y : Nat := 0; let t : Nat := 0; let p : Plan := (mkPlan [{ mkStep 0x01 [] with count := 4, in0 := ⟨0, 0xFF, 0, 0, 0⟩, out := ⟨1, 0xFF, 0, 0, 0⟩ }] [] [{ kind := 2, tier := 0, seg := 0, pasid := 0, off := 0x1000, len := 64, addr := 0 }, { kind := 0, tier := 1, seg := 0, pasid := 0, off := 0, len := 64, addr := 0 }]); let h : Thr := { pc := 0, stop := 1, loops := [], active := none, waiting := false }; let st : Machine.Step := { mkStep 0x01 [] with count := 4, in0 := ⟨0, 0xFF, 0, 0, 0⟩, out := ⟨1, 0xFF, 0, 0, 0⟩ }; let host : HostSide := { xl := .hit, data := [1, 2, 3], bad := false }; let ps : Nat := 0; let va : Nat := 0x1000; let tb : Nat := 1; let b : Nat := 0;
      decide (sound s.dev = true) && decide ((s.dev.yard y).plan = some p) &&
      decide ((s.dev.yard y).thrs[t]? = some h) && decide (p.steps[h.pc]? = some st) &&
      decide ((s.dev.issue y t tMove).isSome = true) && decide (p.prog st = none) && decide (st.isLocal 3 = true) &&
      decide (s.dev.refPlace y p st h.env 0 = some (.host ps va)) &&
      decide (s.dev.refPlace y p st h.env 3 = some (.mem tb b)) && decide (tb ≠ 2) && decide (s.dev.mem.uc = []) &&
      decide (st.count ≠ 0) && decide (s.dev.canMaster y = true) && decide (host.xl = .hit) &&
      decide ((s.dev.yard y).inval = []) && decide (host.bad = false)) : Bool) = true ∧
    ((let s : State := { dev := (wPlan (mkPlan [{ mkStep 0x01 [] with count := 4, in0 := ⟨0, 0xFF, 0, 0, 0⟩, out := ⟨1, 0xFF, 0, 0, 0⟩ }] [] [{ kind := 0, tier := 0, seg := 0, pasid := 0, off := 0, len := 64, addr := 0 }, { kind := 2, tier := 0, seg := 0, pasid := 0, off := 0x1000, len := 64, addr := 0 }])), pending := [] }; let y : Nat := 0; let t : Nat := 0; let p : Plan := (mkPlan [{ mkStep 0x01 [] with count := 4, in0 := ⟨0, 0xFF, 0, 0, 0⟩, out := ⟨1, 0xFF, 0, 0, 0⟩ }] [] [{ kind := 0, tier := 0, seg := 0, pasid := 0, off := 0, len := 64, addr := 0 }, { kind := 2, tier := 0, seg := 0, pasid := 0, off := 0x1000, len := 64, addr := 0 }]); let h : Thr := { pc := 0, stop := 1, loops := [], active := none, waiting := false }; let st : Machine.Step := { mkStep 0x01 [] with count := 4, in0 := ⟨0, 0xFF, 0, 0, 0⟩, out := ⟨1, 0xFF, 0, 0, 0⟩ }; let host : HostSide := { xl := .hit, data := [1, 2, 3], bad := false }; let ta : Nat := 0; let a : Nat := 0; let ps : Nat := 0; let va : Nat := 0x1000;
      decide (sound s.dev = true) && decide ((s.dev.yard y).plan = some p) &&
      decide ((s.dev.yard y).thrs[t]? = some h) && decide (p.steps[h.pc]? = some st) &&
      decide ((s.dev.issue y t tMove).isSome = true) && decide (p.prog st = none) &&
      decide (s.dev.refPlace y p st h.env 0 = some (.mem ta a)) &&
      decide (s.dev.refPlace y p st h.env 3 = some (.host ps va)) && decide (ta ≠ 2) && decide (s.dev.mem.uc = []) &&
      decide (st.count ≠ 0) && decide (s.dev.canMaster y = true) && decide (host.xl = .hit) &&
      decide ((s.dev.yard y).inval = []) && decide (host.bad = false)) : Bool) = true ∧
    ((let s : State := { dev := (wPlan { mkPlan [{ mkStep 0x01 [] with count := 64, prog := 1, in0 := ⟨0, 0xFF, 0, 0, 0⟩ }] [] [{ kind := 0, tier := 0, seg := 0, pasid := 0, off := 0, len := 64, addr := 0 }] with progs := [{ id := 1, lanes := 32, inFmts := [.fp32], outFmt := none, usesSr := false, code := [] }] }), pending := [] }; let y : Nat := 0; let t : Nat := 0; let p : Plan := { mkPlan [{ mkStep 0x01 [] with count := 64, prog := 1, in0 := ⟨0, 0xFF, 0, 0, 0⟩ }] [] [{ kind := 0, tier := 0, seg := 0, pasid := 0, off := 0, len := 64, addr := 0 }] with progs := [{ id := 1, lanes := 32, inFmts := [.fp32], outFmt := none, usesSr := false, code := [] }] }; let h : Thr := { pc := 0, stop := 1, loops := [], active := none, waiting := false }; let st : Machine.Step := { mkStep 0x01 [] with count := 64, prog := 1, in0 := ⟨0, 0xFF, 0, 0, 0⟩ }; let g : Prog := { id := 1, lanes := 32, inFmts := [.fp32], outFmt := none, usesSr := false, code := [] };
      decide (sound s.dev = true) && decide ((s.dev.yard y).plan = some p) &&
      decide ((s.dev.yard y).thrs[t]? = some h) && decide (p.steps[h.pc]? = some st) &&
      decide ((s.dev.issue y t tMove).isSome = true) && decide (p.prog st = some g) &&
      decide (st.isLocal 3 = false) && decide (g.lanes ≠ 0) && decide (g.lanes ≤ st.count)) : Bool) = true ∧
    ((let s : State := { dev := wYard, pending := [] }; let y : Nat := 0;
      decide (sound s.dev = true) && decide (s.dev.cmdOk y = true)) : Bool) = true := by
  refine ⟨?_, ?_, ?_, ?_, ?_, ?_, ?_, ?_, ?_, ?_, ?_, ?_, ?_, ?_⟩ <;> decide +kernel

/-- The hypotheses of every clause of PanCommands are met, clause by clause. -/
theorem meets_PanCommands :
    ((let s : State := { dev := (put { wYard with pans := wYard.pans.set 1 { Pan.reset with ctxs := Pan.reset.ctxs.set 2 ({ Ctx.empty with st := .ready, spec := some ({ prog := { id := 1, lanes := 32, inFmts := [], outFmt := none, usesSr := false, code := [] }, beats := 4, period := 4, base := 0, pos := 0, elems := [], key := { seed := 0, stepCount := 0, member := 0, stream := 0 }, weight := 8, scalars := [], ins := [], dst := .none, chunk := none }), regs := PanRegs.start 32 }) } } (R.MEM_FAR_PORT_LINK_UP 0) 1), pending := [] }; let b : Nat := 0; let k : Nat := 1; let y : Nat := 0; let x : Nat := 2; let r : RunSpec := { prog := { id := 1, lanes := 32, inFmts := [], outFmt := none, usesSr := false, code := [] }, beats := 4, period := 4, base := 0, pos := 0, elems := [], key := { seed := 0, stepCount := 0, member := 0, stream := 0 }, weight := 8, scalars := [], ins := [], dst := .none, chunk := none };
      decide (sound s.dev = true) && decide (k < 4) && decide (s.dev.yardOf b = some y) &&
      decide (s.dev.live y = true) && decide (s.dev.panWorks (4 * b + k) = true) &&
      decide ((s.dev.pan (4 * b + k)).choose = some x) && decide ((s.dev.ctx (4 * b + k) x).spec = some r) &&
      decide ((s.dev.ctx (4 * b + k) x).beat + 1 < r.beats) && decide (s.dev.mem.uc = []) &&
      decide ((0 :: s.dev.farPorts).all (fun q => s.dev.on (R.MEM_FAR_PORT_LINK_UP q)) = true) &&
      decide (s.dev.canMaster y = true)) : Bool) = true ∧
    ((let s : State := { dev := (put { wYard with pans := wYard.pans.set 1 { Pan.reset with ctxs := Pan.reset.ctxs.set 2 ({ Ctx.empty with st := .ready, spec := some ({ prog := { id := 1, lanes := 32, inFmts := [], outFmt := none, usesSr := false, code := [] }, beats := 1, period := 4, base := 0, pos := 0, elems := [], key := { seed := 0, stepCount := 0, member := 0, stream := 0 }, weight := 8, scalars := [], ins := [], dst := .none, chunk := none }), regs := PanRegs.start 32 }) } } (R.MEM_FAR_PORT_LINK_UP 0) 1), pending := [] }; let b : Nat := 0; let k : Nat := 1; let y : Nat := 0; let x : Nat := 2; let r : RunSpec := { prog := { id := 1, lanes := 32, inFmts := [], outFmt := none, usesSr := false, code := [] }, beats := 1, period := 4, base := 0, pos := 0, elems := [], key := { seed := 0, stepCount := 0, member := 0, stream := 0 }, weight := 8, scalars := [], ins := [], dst := .none, chunk := none };
      decide (sound s.dev = true) && decide (k < 4) && decide (s.dev.yardOf b = some y) &&
      decide (s.dev.live y = true) && decide (s.dev.panWorks (4 * b + k) = true) &&
      decide ((s.dev.pan (4 * b + k)).choose = some x) && decide ((s.dev.ctx (4 * b + k) x).spec = some r) &&
      decide (r.beats ≤ (s.dev.ctx (4 * b + k) x).beat + 1) && decide (s.dev.mem.uc = []) &&
      decide ((0 :: s.dev.farPorts).all (fun q => s.dev.on (R.MEM_FAR_PORT_LINK_UP q)) = true) &&
      decide (s.dev.canMaster y = true) && decide (r.dst ≠ .chunk)) : Bool) = true ∧
    ((let s : State := { dev := (put { wYard with pans := wYard.pans.set 1 { Pan.reset with ctxs := Pan.reset.ctxs.set 2 ({ Ctx.empty with st := .wait, spec := some ({ prog := { id := 1, lanes := 32, inFmts := [], outFmt := none, usesSr := false, code := [] }, beats := 4, period := 4, base := 0, pos := 0, elems := [], key := { seed := 0, stepCount := 0, member := 0, stream := 0 }, weight := 8, scalars := [], ins := [], dst := .none, chunk := none }), regs := PanRegs.start 32 }) } } (R.MEM_FAR_PORT_LINK_UP 0) 1), pending := [] }; let b : Nat := 0; let k : Nat := 1; let x : Nat := 2; let y : Nat := 0; let r : RunSpec := { prog := { id := 1, lanes := 32, inFmts := [], outFmt := none, usesSr := false, code := [] }, beats := 4, period := 4, base := 0, pos := 0, elems := [], key := { seed := 0, stepCount := 0, member := 0, stream := 0 }, weight := 8, scalars := [], ins := [], dst := .none, chunk := none };
      decide (sound s.dev = true) && decide (k < 4) && decide (s.dev.yardOf b = some y) &&
      decide (s.dev.live y = true) && decide ((s.dev.ctx (4 * b + k) x).spec = some r) &&
      decide ((s.dev.ctx (4 * b + k) x).st = .wait) &&
      decide ((List.range r.prog.inFmts.length).all (fun j => match r.opnd j (s.dev.ctx (4 * b + k) x).beat with | .given _ _ => true | .at q _ sq _ => !q.inHost && !sq.inHost) = true) &&
      decide ((match r.dst with | .at q _ => !q.inHost | _ => true) = true) && decide (s.dev.mem.uc = []) &&
      decide ((0 :: s.dev.farPorts).all (fun q => s.dev.on (R.MEM_FAR_PORT_LINK_UP q)) = true)) : Bool) = true ∧
    ((let s : State := { dev := wYard, pending := [] }; let y : Nat := 0; let v : Nat := 1;
      decide (sound s.dev = true) && decide (s.dev.cmdOk y = true) && decide (bit v 0 = true) &&
      decide ((s.dev.yard y).kat = none) && decide ((s.dev.yard y).setSnap = none)) : Bool) = true ∧
    ((let s : State := { dev := wYard, pending := [] }; let y : Nat := 0; let v : Nat := 1;
      let f : Fmt := (Fmt.ofCode 0).getD .fp32; let r : Rnd := (Rnd.ofCode 0).getD .rne;
      decide (sound s.dev = true) && decide (s.dev.cmdOk y = true) && decide (bit v 0 = true) &&
      decide ((s.dev.yard y).cvt = none) && decide (Fmt.ofCode (s.dev.fld (R.PAN_CVT_CTRL_FMT y)) = some f) &&
      decide (f.isMx = false) && decide (Rnd.ofCode (s.dev.fld (R.PAN_CVT_CTRL_RND y)) = some r) &&
      decide ((s.dev.yard y).setSnap = none)) : Bool) = true ∧
    ((let s : State := { dev := (setY wYard 0 (fun r => { r with kat := some [1, 2, 3, 4] })), pending := [] };
      let y : Nat := 0; let w : List Nat := [1, 2, 3, 4];
      decide (sound s.dev = true) && decide (s.dev.present y = true) &&
        decide ((s.dev.yard y).kat = some w)) : Bool) = true ∧
    ((let s : State := { dev := (setY wYard 0 (fun r => { r with cvt := some (5, 1) })), pending := [] };
      let y : Nat := 0; let w : Nat × Nat := (5, 1);
      decide (sound s.dev = true) && decide (s.dev.present y = true) &&
        decide ((s.dev.yard y).cvt = some w)) : Bool) = true := by
  refine ⟨?_, ?_, ?_, ?_, ?_, ?_, ?_⟩ <;> decide +kernel

/-- The hypotheses of every clause of RingStepsStart are met, clause by clause. -/
theorem meets_RingStepsStart :
    ((let s : State := { dev := (wRing (ringPlan (ringStep 2 1) 1) 0 id), pending := [] }; let y : Nat := 0;
      let t : Nat := 0; let p : Plan := (ringPlan (ringStep 2 1) 1);
      let h : Thr := { pc := 0, stop := 1, loops := [], active := none, waiting := false };
      let st : Machine.Step := (ringStep 2 1); let c : Nat := 0; let k : CommDecl := (mkDecl 1);
      let x : Comm := (Comm.loaded (mkDecl 0));
      let g : Prog := { id := 1, lanes := 32, inFmts := [.fp32], outFmt := some .fp32, usesSr := false, code := [] };
      decide (sound s.dev = true) && decide ((s.dev.yard y).plan = some p) &&
      decide ((s.dev.yard y).thrs[t]? = some h) && decide (p.steps[h.pc]? = some st) &&
      decide ((s.dev.issue y t tReduce).isSome = true) && decide (st.comm = c) && decide (p.decl st = some k) &&
      decide (s.dev.comm y c = some x) && decide (x.verdict = none) && decide (s.dev.commSt y c ≤ 1) &&
      decide ((k.n < 2 ∨ s.dev.hopsUp y k = true)) && decide (k.n = p.ringN st) && decide (x.slots = []) &&
      decide (x.txq = []) && decide (st.wireForm = 0) && decide (p.prog st = some g) &&
      decide (p.chunks st (segOf false k.n k.pos 0) ≠ 0)) : Bool) = true ∧
    ((let s : State := { dev := (let w := put (wRing (ringPlan ({ ringStep 2 1 with spec := [0, 1] ++ List.replicate 22 0 }) 1) 0 (fun x => { x with credits := 0 })) (R.MEM_FAR_PORT_LINK_UP 0) 1; { w with mem := { w.mem with cells := [(1, 4)] } }), pending := [] }; let y : Nat := 0; let t : Nat := 0; let p : Plan := (ringPlan ({ ringStep 2 1 with spec := [0, 1] ++ List.replicate 22 0 }) 1); let h : Thr := { pc := 0, stop := 1, loops := [], active := none, waiting := false }; let st : Machine.Step := ({ ringStep 2 1 with spec := [0, 1] ++ List.replicate 22 0 }); let c : Nat := 0; let k : CommDecl := (mkDecl 1); let x : Comm := { Comm.loaded (mkDecl 0) with credits := 0 }; let i : Nat := 0; let tier : Nat := 0; let a : Nat := 0;
      decide (sound s.dev = true) && decide ((s.dev.yard y).plan = some p) &&
      decide ((s.dev.yard y).thrs[t]? = some h) && decide (p.steps[h.pc]? = some st) &&
      decide ((s.dev.issue y t tReduce).isSome = true) && decide (st.comm = c) && decide (p.decl st = some k) &&
      decide (s.dev.comm y c = some x) && decide (x.verdict = none) && decide (s.dev.commSt y c ≤ 1) &&
      decide ((k.n < 2 ∨ s.dev.hopsUp y k = true)) && decide (k.n = p.ringN st) && decide (x.slots = []) &&
      decide (x.credits = 0) && decide (st.wireForm = 1) &&
      decide ((List.range 3).find? (fun j => st.selIn j && (st.ref j).buf != 0xFFFF) = some i) &&
      decide (s.dev.refPlace y p st h.env i = some (.mem tier a)) && decide (s.dev.mem.uc = []) &&
      decide ((0 :: s.dev.farPorts).all (fun q => s.dev.on (R.MEM_FAR_PORT_LINK_UP q)) = true) &&
      decide (shedsStay s.dev y p st h.env = true) &&
      decide (le (s.dev.mem.read (s.dev.addr y tier a) (64 + 64 * ceilDiv st.count 16384)) 0 8 = st.count) &&
      decide (le (s.dev.mem.read (s.dev.addr y tier a) (64 + 64 * ceilDiv st.count 16384)) 0x30 8 = s.dev.fld (R.PLN_STEP_COUNT y))) : Bool) = true ∧
    ((let s : State := { dev := (put (wRing (ringPlan ({ ringStep 2 1 with spec := [0, 2] ++ List.replicate 22 0 }) 1) 0 (fun x => { x with credits := 0 })) (R.MEM_FAR_PORT_LINK_UP 0) 1), pending := [] }; let y : Nat := 0; let t : Nat := 0; let p : Plan := (ringPlan ({ ringStep 2 1 with spec := [0, 2] ++ List.replicate 22 0 }) 1); let h : Thr := { pc := 0, stop := 1, loops := [], active := none, waiting := false }; let st : Machine.Step := ({ ringStep 2 1 with spec := [0, 2] ++ List.replicate 22 0 }); let c : Nat := 0; let k : CommDecl := (mkDecl 1); let x : Comm := { Comm.loaded (mkDecl 0) with credits := 0 }; let tier : Nat := 0; let a : Nat := 0;
      decide (sound s.dev = true) && decide ((s.dev.yard y).plan = some p) &&
      decide ((s.dev.yard y).thrs[t]? = some h) && decide (p.steps[h.pc]? = some st) &&
      decide ((s.dev.issue y t tReduce).isSome = true) && decide (st.comm = c) && decide (p.decl st = some k) &&
      decide (s.dev.comm y c = some x) && decide (x.verdict = none) && decide (s.dev.commSt y c ≤ 1) &&
      decide ((k.n < 2 ∨ s.dev.hopsUp y k = true)) && decide (k.n = p.ringN st) && decide (x.slots = []) &&
      decide (x.credits = 0) && decide (st.wireForm = 2) &&
      decide (s.dev.demandPlace y p (st.sp 0x6C 4) h.env = some (.mem tier a)) && decide (s.dev.mem.uc = []) &&
      decide ((0 :: s.dev.farPorts).all (fun q => s.dev.on (R.MEM_FAR_PORT_LINK_UP q)) = true)) : Bool) = true ∧
    ((let s : State := { dev := (wRing (ringPlan (ringStep 3 1) 1) 0 id), pending := [] }; let y : Nat := 0;
      let t : Nat := 0; let p : Plan := (ringPlan (ringStep 3 1) 1);
      let h : Thr := { pc := 0, stop := 1, loops := [], active := none, waiting := false };
      let st : Machine.Step := (ringStep 3 1); let c : Nat := 0; let k : CommDecl := (mkDecl 1);
      let x : Comm := (Comm.loaded (mkDecl 0));
      let g : Prog := { id := 1, lanes := 32, inFmts := [.fp32], outFmt := some .fp32, usesSr := false, code := [] };
      let q : Place × Place := (.mem 0 0, .mem 0 4096);
      decide (sound s.dev = true) && decide ((s.dev.yard y).plan = some p) &&
      decide ((s.dev.yard y).thrs[t]? = some h) && decide (p.steps[h.pc]? = some st) &&
      decide ((s.dev.issue y t tGather).isSome = true) && decide (st.comm = c) && decide (p.decl st = some k) &&
      decide (s.dev.comm y c = some x) && decide (x.verdict = none) && decide (s.dev.commSt y c ≤ 1) &&
      decide ((k.n < 2 ∨ s.dev.hopsUp y k = true)) && decide (k.n = p.ringN st) && decide (x.slots = []) &&
      decide (x.txq = []) && decide (p.prog st = some g) && decide (s.dev.streamAt y p st h.env 0 = some q) &&
      decide (p.stepSegUnits st k.pos ≠ 0)) : Bool) = true ∧
    ((let s : State := { dev := (put (wRing (ringPlan (ringStep 3 0xFFFF) 1) 0 (fun x => { x with credits := 0 })) (R.MEM_FAR_PORT_LINK_UP 0) 1), pending := [] }; let y : Nat := 0; let t : Nat := 0; let p : Plan := (ringPlan (ringStep 3 0xFFFF) 1); let h : Thr := { pc := 0, stop := 1, loops := [], active := none, waiting := false }; let st : Machine.Step := (ringStep 3 0xFFFF); let c : Nat := 0; let k : CommDecl := (mkDecl 1); let x : Comm := { Comm.loaded (mkDecl 0) with credits := 0 }; let tier : Nat := 0; let a : Nat := 0;
      decide (sound s.dev = true) && decide ((s.dev.yard y).plan = some p) &&
      decide ((s.dev.yard y).thrs[t]? = some h) && decide (p.steps[h.pc]? = some st) &&
      decide ((s.dev.issue y t tGather).isSome = true) && decide (st.comm = c) && decide (p.decl st = some k) &&
      decide (s.dev.comm y c = some x) && decide (x.verdict = none) && decide (s.dev.commSt y c ≤ 1) &&
      decide ((k.n < 2 ∨ s.dev.hopsUp y k = true)) && decide (k.n = p.ringN st) && decide (x.slots = []) &&
      decide (x.credits = 0) && decide (p.prog st = none) && decide (k.landGroup = 0xFFFF) &&
      decide (st.isLocal 3 = false) &&
      decide ((s.dev.streamAt y p st h.env 0).map (fun q => q.1) = some (.mem tier a)) &&
      decide (s.dev.mem.uc = []) &&
      decide ((0 :: s.dev.farPorts).all (fun q => s.dev.on (R.MEM_FAR_PORT_LINK_UP q)) = true)) : Bool) = true ∧
    ((let s : State := { dev := (wRing (ringPlan (ringStep 4 0xFFFF) 1) 0 id), pending := [] }; let y : Nat := 0;
      let t : Nat := 0; let p : Plan := (ringPlan (ringStep 4 0xFFFF) 1);
      let h : Thr := { pc := 0, stop := 1, loops := [], active := none, waiting := false };
      let st : Machine.Step := (ringStep 4 0xFFFF); let c : Nat := 0; let k : CommDecl := (mkDecl 1);
      let x : Comm := (Comm.loaded (mkDecl 0));
      decide (sound s.dev = true) && decide ((s.dev.yard y).plan = some p) &&
      decide ((s.dev.yard y).thrs[t]? = some h) && decide (p.steps[h.pc]? = some st) &&
      decide ((s.dev.issue y t tSeal).isSome = true) && decide (st.comm = c) && decide (p.decl st = some k) &&
      decide (s.dev.comm y c = some x) && decide (x.verdict = none) && decide (s.dev.commSt y c ≤ 1) &&
      decide ((k.n < 2 ∨ s.dev.hopsUp y k = true)) && decide ((∀ q ∈ x.slots, q.h.attempt ≠ s.dev.attempt y c)) &&
      decide (slotsFit s.dev y c x = true) && decide (sealMay s.dev y t st = true) && decide (2 ≤ k.n) &&
      decide (k.pos ≠ 0) && decide (x.held = none)) : Bool) = true ∧
    ((let s : State := { dev := (wRing (ringPlan (ringStep 4 0xFFFF) 1) 0 (fun x => { x with held := some wCtl })), pending := [] }; let y : Nat := 0; let t : Nat := 0; let p : Plan := (ringPlan (ringStep 4 0xFFFF) 1); let h : Thr := { pc := 0, stop := 1, loops := [], active := none, waiting := false }; let st : Machine.Step := (ringStep 4 0xFFFF); let c : Nat := 0; let k : CommDecl := (mkDecl 1); let x : Comm := { Comm.loaded (mkDecl 0) with held := some wCtl }; let hd : CtlHdr := wCtl;
      decide (sound s.dev = true) && decide ((s.dev.yard y).plan = some p) &&
      decide ((s.dev.yard y).thrs[t]? = some h) && decide (p.steps[h.pc]? = some st) &&
      decide ((s.dev.issue y t tSeal).isSome = true) && decide (st.comm = c) && decide (p.decl st = some k) &&
      decide (s.dev.comm y c = some x) && decide (x.verdict = none) && decide (s.dev.commSt y c ≤ 1) &&
      decide ((k.n < 2 ∨ s.dev.hopsUp y k = true)) && decide ((∀ q ∈ x.slots, q.h.attempt ≠ s.dev.attempt y c)) &&
      decide (slotsFit s.dev y c x = true) && decide (sealMay s.dev y t st = true) && decide (2 ≤ k.n) &&
      decide (k.pos ≠ 0) && decide (x.held = some hd) && decide (s.dev.keyed y = true)) : Bool) = true ∧
    ((let s : State := { dev := (wRing (ringPlan (ringStep 4 0xFFFF) 0) 0 id), pending := [] }; let y : Nat := 0;
      let t : Nat := 0; let p : Plan := (ringPlan (ringStep 4 0xFFFF) 0);
      let h : Thr := { pc := 0, stop := 1, loops := [], active := none, waiting := false };
      let st : Machine.Step := (ringStep 4 0xFFFF); let c : Nat := 0; let k : CommDecl := (mkDecl 0);
      let x : Comm := (Comm.loaded (mkDecl 0));
      decide (sound s.dev = true) && decide ((s.dev.yard y).plan = some p) &&
      decide ((s.dev.yard y).thrs[t]? = some h) && decide (p.steps[h.pc]? = some st) &&
      decide ((s.dev.issue y t tSeal).isSome = true) && decide (st.comm = c) && decide (p.decl st = some k) &&
      decide (s.dev.comm y c = some x) && decide (x.verdict = none) && decide (s.dev.commSt y c ≤ 1) &&
      decide ((k.n < 2 ∨ s.dev.hopsUp y k = true)) && decide ((∀ q ∈ x.slots, q.h.attempt ≠ s.dev.attempt y c)) &&
      decide (slotsFit s.dev y c x = true) && decide (sealMay s.dev y t st = true) && decide (2 ≤ k.n) &&
      decide (k.pos = 0) && decide ((k.succHop ≠ 0 ∨ s.dev.group k.succAddr = none)) &&
        decide (s.dev.keyed y = true)) : Bool) = true ∧
    ((let s : State := { dev := (wRing { ringPlan (ringStep 4 0xFFFF) 0 with comms := [{ mkDecl 0 with n := 1 }] } 0 id), pending := [] }; let y : Nat := 0; let t : Nat := 0; let p : Plan := { ringPlan (ringStep 4 0xFFFF) 0 with comms := [{ mkDecl 0 with n := 1 }] }; let h : Thr := { pc := 0, stop := 1, loops := [], active := none, waiting := false }; let st : Machine.Step := (ringStep 4 0xFFFF); let c : Nat := 0; let k : CommDecl := { mkDecl 0 with n := 1 }; let x : Comm := (Comm.loaded (mkDecl 0));
      decide (sound s.dev = true) && decide ((s.dev.yard y).plan = some p) &&
      decide ((s.dev.yard y).thrs[t]? = some h) && decide (p.steps[h.pc]? = some st) &&
      decide ((s.dev.issue y t tSeal).isSome = true) && decide (st.comm = c) && decide (p.decl st = some k) &&
      decide (s.dev.comm y c = some x) && decide (x.verdict = none) && decide (s.dev.commSt y c ≤ 1) &&
      decide ((k.n < 2 ∨ s.dev.hopsUp y k = true)) && decide ((∀ q ∈ x.slots, q.h.attempt ≠ s.dev.attempt y c)) &&
      decide (slotsFit s.dev y c x = true) && decide (sealMay s.dev y t st = true) && decide (k.n < 2) &&
      decide (x.check = true) && decide (s.dev.ringThreads y c = [])) : Bool) = true ∧
    ((let s : State := { dev := (put (wRing (ringPlan (ringStep 5 1) 1) 0 id) (R.MEM_FAR_PORT_LINK_UP 0) 1), pending := [] }; let y : Nat := 0; let t : Nat := 0; let p : Plan := (ringPlan (ringStep 5 1) 1); let h : Thr := { pc := 0, stop := 1, loops := [], active := none, waiting := false }; let st : Machine.Step := (ringStep 5 1); let c : Nat := 0; let k : CommDecl := (mkDecl 1); let x : Comm := (Comm.loaded (mkDecl 0)); let g : Prog := { id := 1, lanes := 32, inFmts := [.fp32], outFmt := some .fp32, usesSr := false, code := [] }; let b : Buf := { kind := 0, tier := 0, seg := 0, pasid := 0, off := 0, len := 65536, addr := 0 }; let tier : Nat := 0; let a : Nat := 0;
      decide (sound s.dev = true) && decide ((s.dev.yard y).plan = some p) &&
      decide ((s.dev.yard y).thrs[t]? = some h) && decide (p.steps[h.pc]? = some st) &&
      decide ((s.dev.issue y t tUpdate).isSome = true) && decide (st.comm = c) && decide (p.decl st = some k) &&
      decide (s.dev.comm y c = some x) && decide (x.verdict = none) && decide (s.dev.commSt y c ≤ 1) &&
      decide ((k.n < 2 ∨ s.dev.hopsUp y k = true)) && decide ((∀ q ∈ x.slots, q.h.attempt ≠ s.dev.attempt y c)) &&
      decide (slotsFit s.dev y c x = true) && decide (shedsStay s.dev y p st h.env = true) &&
      decide (p.prog st = some g) && decide (p.bufs[st.sp 0x68 2]? = some b) &&
      decide (s.dev.bufPlace y b (32 * (s.dev.fld (R.PLN_STEP_COUNT y) % 128)) = some (.mem tier a)) &&
      decide (s.dev.mem.uc = []) &&
      decide ((0 :: s.dev.farPorts).all (fun q => s.dev.on (R.MEM_FAR_PORT_LINK_UP q)) = true) &&
      decide (le (s.dev.mem.read (s.dev.addr y tier a) 32) 0 8 = s.dev.fld (R.PLN_STEP_COUNT y)) &&
      decide (zeroAt (s.dev.mem.read (s.dev.addr y tier a) 32) 0x18 8 = true) &&
      decide (512 * p.stepSegUnits st k.pos / max 1 g.lanes ≠ 0)) : Bool) = true := by
  refine ⟨?_, ?_, ?_, ?_, ?_, ?_, ?_, ?_, ?_, ?_⟩ <;> decide +kernel

/-- The hypotheses of every clause of RingPacketsAndCredits are met, clause by clause. -/
theorem meets_RingPacketsAndCredits :
    ((let s : State := { dev := (wRing (ringPlan (ringStep 2 1) 0) 0 id), pending := [] }; let y : Nat := 0;
      let hd : LapHdr := { wLapHdr with seg := 0 }; let c : Nat := 0; let k : CommDecl := (mkDecl 0);
      let x : Comm := (Comm.loaded (mkDecl 0));
      decide (sound s.dev = true) && decide (s.dev.hears y = true) && decide (s.dev.decl y c = some k) &&
      decide (s.dev.comm y c = some x) && decide (s.dev.commAt y hd.ringId = some c) && decide (hd.wrt = none) &&
      decide (s.dev.keyed y = true) && decide (k.predHop = 0) && decide (x.slotsUsed < k.slots) &&
      decide (s.dev.currentOp y c false hd.src hd.step hd.opseq hd.attempt = true) &&
      decide (s.dev.ringThreads y c = []) && decide (s.dev.fitsLater y c hd = true)) : Bool) = true ∧
    ((let s : State := { dev := (wRing (ringPlan (ringStep 2 1) 0) 0 id), pending := [] }; let y : Nat := 0;
      let hd : LapHdr := { wLapHdr with seg := 0, attempt := 1 }; let c : Nat := 0; let k : CommDecl := (mkDecl 0);
      let x : Comm := (Comm.loaded (mkDecl 0));
      decide (sound s.dev = true) && decide (s.dev.hears y = true) && decide (s.dev.decl y c = some k) &&
      decide (s.dev.comm y c = some x) && decide (s.dev.commAt y hd.ringId = some c) && decide (hd.wrt = none) &&
      decide (s.dev.keyed y = true) && decide (k.predHop = 0) && decide (x.slotsUsed < k.slots) &&
      decide (s.dev.currentOp y c false hd.src hd.step hd.opseq ((hd.attempt + 255) % 256) = true)) : Bool) = true ∧
    ((let s : State := { dev := ({ wKeyed (wActive (ringPlan ({ ringStep 2 1 with count := 8192, spec := [14, 0] ++ List.replicate 22 0 }) 0) (fun _ => { step := 0, env := [0, 0, 0, 0], code := none, runs := [], live := true, lap := some { gather := false, own := 1, ownDone := false, ownElems := [], ownScales := [], rx := [{ c := 0, p := 0, whole := false, map := [], elems := [], scales := [] }], left := 4, sel := [], skip := [], mark := [], baseE := [], baseS := [] }, stream := none, origin := none })) with comms := (wRing (ringPlan ({ ringStep 2 1 with count := 8192, spec := [14, 0] ++ List.replicate 22 0 }) 0) 1 id).comms, regs := (wRing (ringPlan ({ ringStep 2 1 with count := 8192, spec := [14, 0] ++ List.replicate 22 0 }) 0) 1 id).regs }), pending := [] }; let y : Nat := 0; let hd : LapHdr := { wLapHdr with seg := 0, last := false, zmask := 0 }; let payload : List Byte := []; let c : Nat := 0; let k : CommDecl := (mkDecl 0); let x : Comm := (Comm.loaded (mkDecl 0)); let t : Nat := 0; let z : LapCtx := { p := ringPlan ({ ringStep 2 1 with count := 8192, spec := [14, 0] ++ List.replicate 22 0 }) 0, st := { ringStep 2 1 with count := 8192, spec := [14, 0] ++ List.replicate 22 0 }, a := { step := 0, env := [0, 0, 0, 0], code := none, runs := [], live := true, lap := some { gather := false, own := 1, ownDone := false, ownElems := [], ownScales := [], rx := [{ c := 0, p := 0, whole := false, map := [], elems := [], scales := [] }], left := 4, sel := [], skip := [], mark := [], baseE := [], baseS := [] }, stream := none, origin := none }, L := { gather := false, own := 1, ownDone := false, ownElems := [], ownScales := [], rx := [{ c := 0, p := 0, whole := false, map := [], elems := [], scales := [] }], left := 4, sel := [], skip := [], mark := [], baseE := [], baseS := [] }, k := mkDecl 0, x := Comm.loaded (mkDecl 0) }; let w : RxPos := { c := 0, p := 0, whole := false, map := [], elems := [], scales := [] }; let bs : List Byte := zeros 4096;
      decide (sound s.dev = true) && decide (s.dev.hears y = true) && decide (s.dev.decl y c = some k) &&
      decide (s.dev.comm y c = some x) && decide (s.dev.commAt y hd.ringId = some c) && decide (hd.wrt = none) &&
      decide (s.dev.keyed y = true) && decide (s.dev.live y = true) && decide (k.predHop = 0) &&
      decide (x.slotsUsed < k.slots) &&
      decide (s.dev.currentOp y c false hd.src hd.step hd.opseq hd.attempt = true) &&
      decide (s.dev.ringThreads y c = [t]) && decide (s.dev.lapCtx y t = some z) && decide (z.fits hd = true) &&
      decide (z.L.gather = false) && decide (z.L.stall = none) && decide (z.sparse = false) &&
      decide (z.a.live = true) && decide (x.slots = []) && decide (x.txq = []) && decide (x.landq = []) &&
      decide (x.landKeys = []) && decide (z.L.rx[hd.substep]? = some w) && decide (w.whole = false) &&
      decide (w.c = hd.chunk) && decide (w.p = hd.pkt) &&
      decide (4096 * (hd.pkt + 1) < elemBytes z.fmt (512 * z.units (hd.substep + 1) w.c)) &&
      decide (hd.last = false) && decide (hd.scale = false) &&
      decide ((LapPkt.mk hd payload true).content 4096 = some bs)) : Bool) = true ∧
    ((let s : State := { dev := (wRing (ringPlan (ringStep 2 1) 0) 0 (fun x => { x with credits := 1 })), pending := [] }; let y : Nat := 0; let c : Nat := 0; let k : CommDecl := (mkDecl 0); let x : Comm := { Comm.loaded (mkDecl 0) with credits := 1 };
      decide (sound s.dev = true) && decide (s.dev.decl y c = some k) && decide (s.dev.comm y c = some x) &&
      decide (s.dev.ringThreads y c = [])) : Bool) = true ∧
    ((let s : State := { dev := (wRing (ringPlan (ringStep 4 0xFFFF) 1) 1 id), pending := [] }; let y : Nat := 0;
      let hd : CtlHdr := wCtl; let c : Nat := 0; let k : CommDecl := (mkDecl 1);
      let x : Comm := (Comm.loaded (mkDecl 0));
      decide (sound s.dev = true) && decide (s.dev.hears y = true) && decide (s.dev.decl y c = some k) &&
      decide (s.dev.comm y c = some x) && decide (s.dev.commAt y hd.ringId = some c) && decide (hd.wrt = none) &&
      decide (s.dev.keyed y = true) && decide (k.predHop = 0) && decide (hd.back = false) &&
      decide ((((s.dev.yard y).replay.getD 0 []).all (fun e => e.src != hd.src)) = true) &&
      decide (((s.dev.yard y).replay.getD 0 []).length < 2048) &&
      decide (s.dev.currentOp y c hd.back hd.src hd.step hd.opseq hd.attempt = true) && decide (k.pos ≠ 0) &&
      decide (s.dev.undecided y c = true) && decide (s.dev.commSt y c ≤ 1) && decide (x.held = none)) : Bool) = true ∧
    ((let s : State := { dev := (wRing (ringPlan (ringStep 4 0xFFFF) 1) 2 id), pending := [] }; let y : Nat := 0;
      let hd : CtlHdr := wCtl; let c : Nat := 0; let k : CommDecl := (mkDecl 1);
      let x : Comm := (Comm.loaded (mkDecl 0));
      decide (sound s.dev = true) && decide (s.dev.hears y = true) && decide (s.dev.decl y c = some k) &&
      decide (s.dev.comm y c = some x) && decide (s.dev.commAt y hd.ringId = some c) && decide (hd.wrt = none) &&
      decide (s.dev.keyed y = true) && decide (k.predHop = 0) && decide (hd.back = false) &&
      decide ((((s.dev.yard y).replay.getD 0 []).all (fun e => e.src != hd.src)) = true) &&
      decide (((s.dev.yard y).replay.getD 0 []).length < 2048) &&
      decide (s.dev.currentOp y c hd.back hd.src hd.step hd.opseq hd.attempt = true) && decide (k.pos ≠ 0) &&
      decide (s.dev.undecided y c = true) && decide (s.dev.commSt y c = 2)) : Bool) = true ∧
    ((let s : State := { dev := (put (wRing (ringPlan (ringStep 4 0xFFFF) 1) 1 id) (R.YRD_FRZ_STATUS_STATE 0) 2), pending := [] }; let y : Nat := 0; let hd : CtlHdr := wCtl; let c : Nat := 0; let k : CommDecl := (mkDecl 1); let x : Comm := (Comm.loaded (mkDecl 0));
      decide (sound s.dev = true) && decide (s.dev.hears y = true) && decide (s.dev.decl y c = some k) &&
      decide (s.dev.comm y c = some x) && decide (s.dev.commAt y hd.ringId = some c) && decide (hd.wrt = none) &&
      decide (s.dev.keyed y = true) && decide (s.dev.hopIs y k hd.back none = true) &&
      decide ((((s.dev.yard y).replay.getD 0 []).all (fun e => e.src != hd.src)) = true) &&
      decide (((s.dev.yard y).replay.getD 0 []).length < 2048) &&
      decide (s.dev.currentOp y c hd.back hd.src hd.step hd.opseq hd.attempt = true) && decide (k.pos ≠ 0) &&
      decide (s.dev.undecided y c = true) && decide (hd.verdict = 1 ∨ hd.verdict = 2) && decide (x.kept = none) &&
      decide (s.dev.frozen y = true)) : Bool) = true ∧
    ((let s : State := { dev := (wRingOn (ringPlan (ringStep 4 0xFFFF) 1) 4), pending := [] }; let y : Nat := 0;
      let t : Nat := 0; let p : Plan := (ringPlan (ringStep 4 0xFFFF) 1);
      let st : Machine.Step := (ringStep 4 0xFFFF);
      let a : Active := { step := 0, env := [0, 0, 0, 0], code := none, runs := [], live := false, lap := none, stream := none, origin := none };
      decide (sound s.dev = true) && decide (s.dev.live y = true) &&
      decide (s.dev.activeStep y t = some (p, st, a)) && decide (a.code = none) && decide (st.wd ≠ 0xFFFF) &&
      decide (st.isRing = true) && decide (2 ≤ p.ringN st) && decide (s.dev.commSt y st.comm = 4)) : Bool) = true ∧
    ((let s : State := { dev := (wRingOn (ringPlan (ringStep 4 0xFFFF) 1) 1), pending := [] }; let y : Nat := 0;
      let t : Nat := 0; let p : Plan := (ringPlan (ringStep 4 0xFFFF) 1);
      let st : Machine.Step := (ringStep 4 0xFFFF);
      let a : Active := { step := 0, env := [0, 0, 0, 0], code := none, runs := [], live := false, lap := none, stream := none, origin := none }; let k : CommDecl := (mkDecl 1);
      decide (sound s.dev = true) && decide (s.dev.live y = true) &&
      decide (s.dev.activeStep y t = some (p, st, a)) && decide (a.code = none) && decide (st.wd ≠ 0xFFFF) &&
      decide (st.isRing = true) && decide (2 ≤ p.ringN st) && decide (s.dev.decl y st.comm = some k) &&
      decide (2 ≤ k.n) && decide (k.pos ≠ 0) && decide (s.dev.undecided y st.comm = true) &&
      decide (s.dev.commSt y st.comm ≤ 3)) : Bool) = true := by
  refine ⟨?_, ?_, ?_, ?_, ?_, ?_, ?_, ?_, ?_⟩ <;> decide +kernel

/-- The hypotheses of every clause of SealCircuitDecides are met, clause by clause. -/
theorem meets_SealCircuitDecides :
    ((let s : State := { dev := (wRing (ringPlan (ringStep 4 0xFFFF) 0) 2 id), pending := [] }; let y : Nat := 0;
      let hd : CtlHdr := wCtl; let c : Nat := 0; let k : CommDecl := (mkDecl 0);
      let x : Comm := (Comm.loaded (mkDecl 0));
      decide (sound s.dev = true) && decide (s.dev.hears y = true) && decide (s.dev.decl y c = some k) &&
      decide (s.dev.comm y c = some x) && decide (s.dev.commAt y hd.ringId = some c) && decide (hd.wrt = none) &&
      decide (s.dev.keyed y = true) && decide (k.predHop = 0) && decide (hd.back = false) &&
      decide ((((s.dev.yard y).replay.getD 0 []).all (fun e => e.src != hd.src)) = true) &&
      decide (((s.dev.yard y).replay.getD 0 []).length < 2048) &&
      decide (s.dev.currentOp y c hd.back hd.src hd.step hd.opseq hd.attempt = true) && decide (k.pos = 0) &&
      decide (s.dev.commSt y c = 2) && decide (x.kept = none) && decide (hd.check = true) &&
        decide (hd.passed = k.n)) : Bool) = true ∧
    ((let s : State := { dev := (wRing (ringPlan (ringStep 4 0xFFFF) 0) 2 id), pending := [] }; let y : Nat := 0;
      let hd : CtlHdr := { wCtl with check := false, code := 0x32 }; let c : Nat := 0;
      let k : CommDecl := (mkDecl 0); let x : Comm := (Comm.loaded (mkDecl 0));
      decide (sound s.dev = true) && decide (s.dev.hears y = true) && decide (s.dev.decl y c = some k) &&
      decide (s.dev.comm y c = some x) && decide (s.dev.commAt y hd.ringId = some c) && decide (hd.wrt = none) &&
      decide (s.dev.keyed y = true) && decide (k.predHop = 0) && decide (hd.back = false) &&
      decide ((((s.dev.yard y).replay.getD 0 []).all (fun e => e.src != hd.src)) = true) &&
      decide (((s.dev.yard y).replay.getD 0 []).length < 2048) &&
      decide (s.dev.currentOp y c hd.back hd.src hd.step hd.opseq hd.attempt = true) && decide (k.pos = 0) &&
      decide (s.dev.commSt y c = 2) && decide (x.kept = none) && decide (hd.check = false ∨
        hd.passed ≠ k.n)) : Bool) = true ∧
    ((let s : State := { dev := (wRing (ringPlan (ringStep 4 0xFFFF) 1) 2 id), pending := [] }; let y : Nat := 0;
      let hd : CtlHdr := wCtl; let c : Nat := 0; let k : CommDecl := (mkDecl 1);
      let x : Comm := (Comm.loaded (mkDecl 0));
      decide (sound s.dev = true) && decide (s.dev.hears y = true) && decide (s.dev.decl y c = some k) &&
      decide (s.dev.comm y c = some x) && decide (s.dev.commAt y hd.ringId = some c) && decide (hd.wrt = none) &&
      decide (s.dev.keyed y = true) && decide (s.dev.hopIs y k hd.back none = true) &&
      decide ((((s.dev.yard y).replay.getD 0 []).all (fun e => e.src != hd.src)) = true) &&
      decide (((s.dev.yard y).replay.getD 0 []).length < 2048) &&
      decide (s.dev.currentOp y c hd.back hd.src hd.step hd.opseq hd.attempt = true) && decide (k.pos ≠ 0) &&
      decide (s.dev.undecided y c = true) && decide (hd.verdict = 1 ∨ hd.verdict = 2) && decide (x.kept = none) &&
      decide (s.dev.frozen y = false)) : Bool) = true ∧
    ((let s : State := { dev := (wRing (ringPlan (ringStep 4 0xFFFF) 1) 1 id), pending := [] }; let y : Nat := 0;
      let hd : CtlHdr := { wCtl with code := 0x32 }; let c : Nat := 0; let k : CommDecl := (mkDecl 1);
      let x : Comm := (Comm.loaded (mkDecl 0));
      decide (sound s.dev = true) && decide (s.dev.hears y = true) && decide (s.dev.decl y c = some k) &&
      decide (s.dev.comm y c = some x) && decide (s.dev.commAt y hd.ringId = some c) && decide (hd.wrt = none) &&
      decide (s.dev.keyed y = true) && decide (s.dev.hopIs y k hd.back none = true) &&
      decide ((((s.dev.yard y).replay.getD 0 []).all (fun e => e.src != hd.src)) = true) &&
      decide (((s.dev.yard y).replay.getD 0 []).length < 2048) &&
      decide (s.dev.currentOp y c hd.back hd.src hd.step hd.opseq hd.attempt = true) && decide (k.pos ≠ 0) &&
      decide (s.dev.undecided y c = true) && decide ((if hd.back then x.bwdAbort else x.fwdAbort) = false) &&
      decide (s.dev.commSt y c ≠ 4) && decide (s.dev.commSt y c ≠ 5)) : Bool) = true ∧
    ((let s : State := { dev := (wRing (ringPlan (ringStep 4 0xFFFF) 0) 1 id), pending := [] }; let y : Nat := 0;
      let hd : CtlHdr := { wCtl with code := 0x32 }; let c : Nat := 0; let k : CommDecl := (mkDecl 0);
      let x : Comm := (Comm.loaded (mkDecl 0));
      decide (sound s.dev = true) && decide (s.dev.hears y = true) && decide (s.dev.decl y c = some k) &&
      decide (s.dev.comm y c = some x) && decide (s.dev.commAt y hd.ringId = some c) && decide (hd.wrt = none) &&
      decide (s.dev.keyed y = true) && decide (s.dev.hopIs y k hd.back none = true) &&
      decide ((((s.dev.yard y).replay.getD 0 []).all (fun e => e.src != hd.src)) = true) &&
      decide (((s.dev.yard y).replay.getD 0 []).length < 2048) &&
      decide (s.dev.currentOp y c hd.back hd.src hd.step hd.opseq hd.attempt = true) && decide (k.pos = 0) &&
      decide (s.dev.undecided y c = true) && decide (x.kept = none)) : Bool) = true ∧
    ((let s : State := { dev := (wRing (ringPlan (ringStep 4 0xFFFF) 1) 5 id), pending := [] }; let y : Nat := 0;
      let v : Nat := 0x1000; let k : CommDecl := (mkDecl 1); let x : Comm := (Comm.loaded (mkDecl 0));
      decide (sound s.dev = true) && decide (s.dev.cmdOk y = true) && decide (s.dev.decl y (bits v 0 10) = some k) &&
      decide (s.dev.comm y (bits v 0 10) = some x) && decide (s.dev.commSt y (bits v 0 10) = 5) &&
      decide (bits v 12 2 = 1 ∨ bits v 12 2 = 2) && decide (x.kept = none) && decide (s.dev.frozen y = false) &&
      decide ((s.dev.yard y).setSnap = none)) : Bool) = true ∧
    ((let s : State := { dev := (put (wRing (ringPlan (ringStep 4 0xFFFF) 1) 5 id) (R.YRD_FRZ_STATUS_STATE 0) 2), pending := [] }; let y : Nat := 0; let v : Nat := 0x1000; let k : CommDecl := (mkDecl 1); let x : Comm := (Comm.loaded (mkDecl 0));
      decide (sound s.dev = true) && decide (s.dev.cmdOk y = true) && decide (s.dev.decl y (bits v 0 10) = some k) &&
      decide (s.dev.comm y (bits v 0 10) = some x) && decide (s.dev.commSt y (bits v 0 10) = 5) &&
      decide (bits v 12 2 = 1 ∨ bits v 12 2 = 2) && decide (x.kept = none) && decide (s.dev.frozen y = true) &&
      decide ((s.dev.yard y).setSnap = none)) : Bool) = true := by
  refine ⟨?_, ?_, ?_, ?_, ?_, ?_, ?_⟩ <;> decide +kernel

/-- The hypotheses of every clause of StepsComplete are met, clause by clause. -/
theorem meets_StepsComplete :
    ((let s : State := { dev := (wActive (mkPlan [mkStep 1 [], mkStep 1 []] [] []) (fun a => { a with code := some 0 })), pending := [] }; let y : Nat := 0; let t : Nat := 0; let h : Thr := { pc := 0, stop := 2, loops := [], waiting := false, active := some { step := 0, env := [0, 0, 0, 0], code := some 0, runs := [], live := false, lap := none, stream := none, origin := none } }; let p : Plan := (mkPlan [mkStep 1 [], mkStep 1 []] [] []); let st : Machine.Step := (mkStep 1 []); let a : Active := { step := 0, env := [0, 0, 0, 0], code := some 0, runs := [], live := false, lap := none, stream := none, origin := none };
      decide (sound s.dev = true) && decide (s.dev.live y = true) && decide ((s.dev.yard y).thrs[t]? = some h) &&
      decide (s.dev.activeStep y t = some (p, st, a)) && decide (a.code = some 0) && decide (a.live = false) &&
      decide (a.runs = []) && decide ((st.isRing && decide (p.ringN st < 2)) = false)) : Bool) = true ∧
    ((let s : State := { dev := { wActive { ringPlan (ringStep 2 1) 0 with comms := [{ mkDecl 0 with n := 1 }] } (fun a => { a with code := some 0 }) with comms := (wRing { ringPlan (ringStep 2 1) 0 with comms := [{ mkDecl 0 with n := 1 }] } 1 id).comms, regs := (wRing { ringPlan (ringStep 2 1) 0 with comms := [{ mkDecl 0 with n := 1 }] } 1 id).regs }, pending := [] }; let y : Nat := 0; let t : Nat := 0; let h : Thr := { pc := 0, stop := 1, loops := [], waiting := false, active := some { step := 0, env := [0, 0, 0, 0], code := some 0, runs := [], live := false, lap := none, stream := none, origin := none } }; let p : Plan := { ringPlan (ringStep 2 1) 0 with comms := [{ mkDecl 0 with n := 1 }] }; let st : Machine.Step := (ringStep 2 1); let a : Active := { step := 0, env := [0, 0, 0, 0], code := some 0, runs := [], live := false, lap := none, stream := none, origin := none }; let x : Comm := (Comm.loaded (mkDecl 0));
      decide (sound s.dev = true) && decide (s.dev.live y = true) && decide ((s.dev.yard y).thrs[t]? = some h) &&
      decide (s.dev.activeStep y t = some (p, st, a)) && decide (a.code = some 0) && decide (a.live = false) &&
      decide (a.runs = []) && decide (st.isRing = true) && decide (p.ringN st < 2) &&
      decide (s.dev.ringThreads y st.comm = [t]) && decide (s.dev.comm y st.comm = some x) &&
        decide (x.check = true)) : Bool) = true ∧
    ((let s : State := { dev := (wActive (mkPlan [mkStep 1 [], mkStep 1 []] [] []) (fun a => { a with code := some 2 })), pending := [] }; let y : Nat := 0; let t : Nat := 0; let p : Plan := (mkPlan [mkStep 1 [], mkStep 1 []] [] []); let st : Machine.Step := (mkStep 1 []); let a : Active := { step := 0, env := [0, 0, 0, 0], code := some 2, runs := [], live := false, lap := none, stream := none, origin := none }; let code : Nat := 2;
      decide (sound s.dev = true) && decide (s.dev.live y = true) &&
      decide (s.dev.activeStep y t = some (p, st, a)) && decide (a.code = some code) && decide (code ≠ 0) &&
      decide (code < 256) && decide (t < 256) && decide (a.live = false) && decide (a.runs = []) &&
      decide ((st.isRing && decide (p.ringN st < 2)) = false) &&
        decide ((s.dev.yard y).failed = false)) : Bool) = true ∧
    ((let s : State := { dev := (wActive (mkPlan [mkStep 1 [], mkStep 1 []] [] []) id), pending := [] };
      let y : Nat := 0; let t : Nat := 0; let p : Plan := (mkPlan [mkStep 1 [], mkStep 1 []] [] []);
      let st : Machine.Step := (mkStep 1 []);
      let a : Active := { step := 0, env := [0, 0, 0, 0], code := none, runs := [], live := false, lap := none, stream := none, origin := none };
      decide (sound s.dev = true) && decide (s.dev.live y = true) &&
      decide (s.dev.activeStep y t = some (p, st, a)) && decide (a.code = none) && decide (st.wd ≠ 0xFFFF) &&
      decide (st.isRing = false) && decide (t < 256) && decide ((s.dev.yard y).failed = false)) : Bool) = true := by
  refine ⟨?_, ?_, ?_, ?_⟩ <;> decide +kernel

/-- The hypotheses of every clause of LinkStates are met, clause by clause. -/
theorem meets_LinkStates :
    ((let s : State := { dev := (wLink 1 id), pending := [] }; let l : Nat := 5; let rev : Bool := false;
      decide (sound s.dev = true) && decide (l < 48) && decide (s.dev.linkState l = 1) &&
      decide (rev = false ∨ (s.dev.linkCfg l).reversal = true)) : Bool) = true ∧
    ((let s : State := { dev := (wLink 2 id), pending := [] }; let l : Nat := 5;
      let hl : Hello := { addr := 0x300, device := 1, buf := [1, 67, 67, 65, 65, 67, 67, 1], role := 2 };
      decide (sound s.dev = true) && decide (l < 48) && decide (s.dev.linkState l = 2) &&
      decide (helloOk (s.dev.linkCfg l) hl = true)) : Bool) = true ∧
    ((let s : State := { dev := (wLink 2 id), pending := [] }; let l : Nat := 5;
      let hl : Hello := { addr := 0x300, device := 7, buf := [], role := 2 };
      decide (sound s.dev = true) && decide (l < 48) && decide (s.dev.linkState l = 2) &&
      decide (helloOk (s.dev.linkCfg l) hl = false)) : Bool) = true ∧
    ((let s : State := { dev := (wLink 4 id), pending := [] }; let l : Nat := 5; let rev : Bool := false;
      decide (sound s.dev = true) && decide (l < 48) && decide (s.dev.linkState l = 4) &&
      decide (rev = false ∨ (s.dev.linkCfg l).reversal = true)) : Bool) = true ∧
    ((let s : State := { dev := (wLink 5 id), pending := [] }; let l : Nat := 5; let rev : Bool := false;
      decide (sound s.dev = true) && decide (l < 48) && decide (s.dev.linkState l = 5 ∨ s.dev.linkState l = 6) &&
      decide (rev = false ∨ (s.dev.linkCfg l).reversal = true)) : Bool) = true ∧
    ((let s : State := { dev := (wLink 4 (fun k => { k with trained := true, hello := some { addr := 0x300, device := 1, buf := [], role := 2 }, unacked := [{ fseq := 4, pkts := [] }] })), pending := [] }; let l : Nat := 5; let hl : Hello := { addr := 0x300, device := 1, buf := [], role := 2 }; let o : Hello := { addr := 0x300, device := 1, buf := [], role := 2 };
      decide (sound s.dev = true) && decide (l < 48) && decide (s.dev.linkState l = 4) &&
      decide ((s.dev.link l).trained = true) && decide ((s.dev.link l).hello = some o) &&
      decide (o.addr = hl.addr) && decide (o.device = hl.device) && decide (s.dev.fab.held = [])) : Bool) = true ∧
    ((let s : State := { dev := (wLink 3 id), pending := [] }; let l : Nat := 5;
      decide (sound s.dev = true) && decide (l < 48) && decide (s.dev.linkState l = 3 ∨
        s.dev.linkState l = 6)) : Bool) = true ∧
    ((let s : State := { dev := (wLink 3 id), pending := [] }; let l : Nat := 5;
      decide (sound s.dev = true) && decide (l < 48) && decide (s.dev.linkState l = 3)) : Bool) = true ∧
    ((let s : State := { dev := (wLink 3 id), pending := [] }; let l : Nat := 5;
      decide (sound s.dev = true) && decide (l < 48) && decide (s.dev.linkState l = 3)) : Bool) = true ∧
    ((let s : State := { dev := (wLink 4 id), pending := [] }; let l : Nat := 5;
      decide (sound s.dev = true) && decide (l < 48) && decide (s.dev.linkState l = 4)) : Bool) = true ∧
    ((let s : State := { dev := (wLink 5 id), pending := [] }; let l : Nat := 5;
      decide (sound s.dev = true) && decide (l < 48) && decide (s.dev.pfOk = true) &&
      decide (s.dev.linkState l = 5 ∨ s.dev.linkState l = 6)) : Bool) = true ∧
    ((let s : State := { dev := (wLink 3 id), pending := [] }; let l : Nat := 5;
      decide (sound s.dev = true) && decide (l < 48) && decide (s.dev.pfOk = true) &&
        decide (s.dev.linkState l = 3)) : Bool) = true := by
  refine ⟨?_, ?_, ?_, ?_, ?_, ?_, ?_, ?_, ?_, ?_, ?_, ?_⟩ <;> decide +kernel

/-- The hypotheses of every clause of FramesAndPackets are met, clause by clause. -/
theorem meets_FramesAndPackets :
    ((let s : State := { dev := (wLink 3 id), pending := [] }; let l : Nat := 5;
      let f : FrameTrailer := { fseq := 0, ack := 4095, nak := false, credit := [0, 1, 2, 3, 4, 5, 6, 7], good := true, flits := 3 };
      decide (sound s.dev = true) && decide (l < 48) && decide (s.dev.linkState l ∈ [2, 3, 6]) &&
      decide (f.good = true) && decide (f.fseq = (s.dev.link l).rxNext) && decide (f.nak = false)) : Bool) = true ∧
    ((let s : State := { dev := (wLink 3 (fun k => { k with unacked := [{ fseq := 4, pkts := [] }] })), pending := [] }; let l : Nat := 5; let f : FrameTrailer := { fseq := 0, ack := 4095, nak := true, credit := [0, 1, 2, 3, 4, 5, 6, 7], good := true, flits := 3 };
      decide (sound s.dev = true) && decide (l < 48) && decide (s.dev.linkState l ∈ [2, 3, 6]) &&
      decide (f.good = true) && decide (f.fseq = (s.dev.link l).rxNext) && decide (f.nak = true) &&
      decide (f.ack = (s.dev.link l).acked) && decide ((s.dev.link l).unacked ≠ []) &&
      decide ((s.dev.link l).replays < 8)) : Bool) = true ∧
    ((let s : State := { dev := (wLink 3 id), pending := [] }; let l : Nat := 5;
      let f : FrameTrailer := { fseq := 9, ack := 4095, nak := false, credit := [0, 1, 2, 3, 4, 5, 6, 7], good := true, flits := 3 };
      decide (sound s.dev = true) && decide (l < 48) && decide (s.dev.linkState l ∈ [2, 3, 6]) &&
      decide (f.good = false ∨ f.fseq ≠ (s.dev.link l).rxNext) &&
        decide ((s.dev.link l).nakSent = false)) : Bool) = true ∧
    ((let s : State := { dev := (wLink 3 (fun k => { k with unacked := [{ fseq := 4, pkts := [] }] })), pending := [] }; let l : Nat := 5;
      decide (sound s.dev = true) && decide (l < 48) && decide (s.dev.linkState l ∈ [2, 3, 6]) &&
      decide ((s.dev.link l).unacked ≠ []) && decide ((s.dev.link l).replays < 8)) : Bool) = true ∧
    ((let s : State := { dev := (wLink 3 (fun k => { k with replays := 8, unacked := [{ fseq := 4, pkts := [] }] })), pending := [] }; let l : Nat := 5;
      decide (sound s.dev = true) && decide (l < 48) && decide (s.dev.linkState l = 3) &&
      decide ((s.dev.link l).unacked ≠ []) && decide (8 ≤ (s.dev.link l).replays)) : Bool) = true ∧
    ((let s : State := { dev := (wLink 3 id), pending := [] }; let l : Nat := 5;
      let h : TransitHdr := { typ := 0x10, ce := false, tag := false, vc := 1, flits := 1, pad := 0, dst := 0x103, src := 9, rank := 0, hops := 1, nonce := 0, body := [] }; let bytes : List Byte := [1, 1]; let b : Nat := 3;
      decide (sound s.dev = true) && decide (l < 48) && decide (s.dev.linkState l = 3) &&
      decide (s.dev.on R.TEL_CTRL_EN = false) && decide (typeFlitsOk h.typ h.flits = true) &&
      decide (h.typ ≠ 0x10 ∨ wrtOpcode (bytes.getD 1 0).toNat = true) &&
      decide ((s.dev.linkCfg l).role = 2 ∨ s.dev.fab.draining = false) && decide (s.dev.bayAt h.dst = some b) &&
      decide (s.dev.takes b = true)) : Bool) = true ∧
    ((let s : State := { dev := { wLink 3 id with lay := { (wLink 3 id).lay with active := List.replicate 0x80 0 ++ [1, 0xFF, 1, 3, 3, 0, 0, 0], cur := { (wLink 3 id).lay.cur with links := List.replicate 48 { role := 2, reversal := false, peer := 0xFFFF } } } }, pending := [] }; let l : Nat := 5; let h : TransitHdr := { typ := 0x10, ce := false, tag := false, vc := 5, flits := 1, pad := 0, dst := 0, src := 9, rank := 9, hops := 1, nonce := 0, body := [] };
      decide (sound s.dev = true) && decide (l < 48) && decide (s.dev.linkState l = 3) &&
      decide (s.dev.on R.TEL_CTRL_EN = false) && decide (typeFlitsOk h.typ h.flits = true) &&
      decide ((s.dev.linkCfg l).role = 2) && decide (s.dev.bayAt h.dst = none) && decide (h.vc = 5 ∨ h.vc = 6) &&
      decide (bit (ef (routeEntry s.dev.lay.active h.dst) 2) 0 = true) &&
      decide (ef (routeEntry s.dev.lay.active h.dst) (h.vc - 2) < h.rank)) : Bool) = true ∧
    ((let s : State := { dev := { put (wLink 3 id) (R.FAB_PORT_STATE_STATE 1) 3 with lay := { (wLink 3 id).lay with active := List.replicate 0x80 0 ++ [1, 0xFF, 1, 3, 3, 0, 0, 0], cur := { (wLink 3 id).lay.cur with links := List.replicate 48 { role := 2, reversal := false, peer := 0xFFFF } } } }, pending := [] }; let l : Nat := 5; let h : TransitHdr := { typ := 0x10, ce := false, tag := false, vc := 5, flits := 1, pad := 0, dst := 0, src := 9, rank := 2, hops := 1, nonce := 0, body := [] }; let m : Nat := 1;
      decide (sound s.dev = true) && decide (l < 48) && decide (s.dev.linkState l = 3) &&
      decide (s.dev.on R.TEL_CTRL_EN = false) && decide (typeFlitsOk h.typ h.flits = true) &&
      decide ((s.dev.linkCfg l).role = 2) && decide (s.dev.bayAt h.dst = none) && decide (h.vc = 5 ∨ h.vc = 6) &&
      decide (bit (ef (routeEntry s.dev.lay.active h.dst) 2) 0 = true) &&
      decide (ef (routeEntry s.dev.lay.active h.dst) (h.vc - 2) ≠ 0xFF) &&
      decide (h.rank ≤ ef (routeEntry s.dev.lay.active h.dst) (h.vc - 2)) &&
      decide (ef (routeEntry s.dev.lay.active h.dst) 0 = m) &&
      decide (ef (routeEntry s.dev.lay.active h.dst) 1 = 0xFF) && decide (m < 48) &&
        decide (s.dev.upLinks m = [m])) : Bool) = true ∧
    ((let s : State := { dev := (wLink 3 (fun k => { k with peerBuf := List.replicate 8 300, queue := [{ typ := 0x10, ce := false, tag := false, vc := 0, flits := 1, pad := 0, dst := 7, src := 9, rank := 0, hops := 1, nonce := 0, body := [], payload := [], bay := 1, transit := false, inl := 48, inVc := 0 }] })), pending := [] }; let l : Nat := 5; let p : Pkt := { typ := 0x10, ce := false, tag := false, vc := 0, flits := 1, pad := 0, dst := 7, src := 9, rank := 0, hops := 1, nonce := 0, body := [], payload := [], bay := 1, transit := false, inl := 48, inVc := 0 };
      decide (sound s.dev = true) && decide (l < 48) && decide (s.dev.linkState l = 3) &&
      decide (s.dev.bayState (l / 4) ≠ 2) &&
      decide ((headOf (s.dev.link l).queue (fun p => p.vc == 7)).filter (fun p => (s.dev.link l).ready p) = none) &&
      decide ((s.dev.link (4 * (l / 4))).hold = []) &&
      decide ((headOf (s.dev.link l).queue (fun p => p.vc == 0)).filter (fun p => (s.dev.link l).ready p) = some p)) : Bool) = true ∧
    ((let s : State := { dev := { wLink 3 (fun k => { k with peerBuf := List.replicate 8 300, queue := [{ typ := 0x10, ce := false, tag := false, vc := 5, flits := 1, pad := 0, dst := 7, src := 9, rank := 0, hops := 1, nonce := 0, body := [], payload := [], bay := 1, transit := false, inl := 48, inVc := 0 }] }) with lay := { (wLink 3 id).lay with cur := { (wLink 3 id).lay.cur with links := List.replicate 48 { role := 2, reversal := false, peer := 0xFFFF } } } }, pending := [] }; let l : Nat := 5; let p : Pkt := { typ := 0x10, ce := false, tag := false, vc := 5, flits := 1, pad := 0, dst := 7, src := 9, rank := 0, hops := 1, nonce := 0, body := [], payload := [], bay := 1, transit := false, inl := 48, inVc := 0 };
      decide (sound s.dev = true) && decide (l < 48) && decide (s.dev.linkState l = 3) &&
      decide (s.dev.bayState (l / 4) ≠ 2) &&
      decide ((headOf (s.dev.link l).queue (fun p => p.vc == 7)).filter (fun p => (s.dev.link l).ready p) = none) &&
      decide ((s.dev.link (4 * (l / 4))).hold = []) &&
      decide ((headOf (s.dev.link l).queue (fun p => p.vc == 0)).filter (fun p => (s.dev.link l).ready p) = none) &&
      decide ((s.dev.link l).transitNext ((s.dev.linkCfg l).role == 2) = some p) &&
      decide (((s.dev.link l).turn ((s.dev.linkCfg l).role == 2) s.dev.lay.cur.strict).pkt = none) &&
      decide (((s.dev.link l).turn ((s.dev.linkCfg l).role == 2) s.dev.lay.cur.strict).held = 0)) : Bool) = true ∧
    ((let s : State := { dev := { wLink 3 (fun k => { k with peerBuf := List.replicate 8 300, queue := [{ typ := 0x10, ce := false, tag := false, vc := 5, flits := 1, pad := 0, dst := 7, src := 9, rank := 0, hops := 1, nonce := 0, body := [], payload := [], bay := 1, transit := false, inl := 48, inVc := 0 }, { typ := 0x10, ce := false, tag := false, vc := 1, flits := 1, pad := 0, dst := 7, src := 9, rank := 0, hops := 1, nonce := 0, body := [], payload := [], bay := 1, transit := false, inl := 48, inVc := 0 }] }) with lay := { (wLink 3 id).lay with cur := { (wLink 3 id).lay.cur with links := List.replicate 48 { role := 2, reversal := false, peer := 0xFFFF } } } }, pending := [] }; let l : Nat := 5; let t : Pkt := { typ := 0x10, ce := false, tag := false, vc := 5, flits := 1, pad := 0, dst := 7, src := 9, rank := 0, hops := 1, nonce := 0, body := [], payload := [], bay := 1, transit := false, inl := 48, inVc := 0 }; let o : Pkt := { typ := 0x10, ce := false, tag := false, vc := 1, flits := 1, pad := 0, dst := 7, src := 9, rank := 0, hops := 1, nonce := 0, body := [], payload := [], bay := 1, transit := false, inl := 48, inVc := 0 };
      decide (sound s.dev = true) && decide (l < 48) && decide (s.dev.linkState l = 3) &&
      decide (s.dev.bayState (l / 4) ≠ 2) &&
      decide ((headOf (s.dev.link l).queue (fun p => p.vc == 7)).filter (fun p => (s.dev.link l).ready p) = none) &&
      decide ((s.dev.link (4 * (l / 4))).hold = []) &&
      decide ((headOf (s.dev.link l).queue (fun p => p.vc == 0)).filter (fun p => (s.dev.link l).ready p) = none) &&
      decide ((s.dev.link l).transitNext ((s.dev.linkCfg l).role == 2) = some t) &&
      decide (((s.dev.link l).turn ((s.dev.linkCfg l).role == 2) s.dev.lay.cur.strict).pkt = some o)) : Bool) = true ∧
    ((let s : State := { dev := (wLink 3 (fun k => { k with peerBuf := List.replicate 8 300, queue := [{ typ := 0x10, ce := false, tag := false, vc := 1, flits := 1, pad := 0, dst := 7, src := 9, rank := 0, hops := 1, nonce := 0, body := [], payload := [], bay := 1, transit := false, inl := 48, inVc := 0 }] })), pending := [] }; let l : Nat := 5; let p : Pkt := { typ := 0x10, ce := false, tag := false, vc := 1, flits := 1, pad := 0, dst := 7, src := 9, rank := 0, hops := 1, nonce := 0, body := [], payload := [], bay := 1, transit := false, inl := 48, inVc := 0 };
      decide (sound s.dev = true) && decide (l < 48) && decide (s.dev.linkState l = 3) &&
      decide (s.dev.bayState (l / 4) ≠ 2) &&
      decide ((headOf (s.dev.link l).queue (fun p => p.vc == 7)).filter (fun p => (s.dev.link l).ready p) = none) &&
      decide ((s.dev.link (4 * (l / 4))).hold = []) &&
      decide ((headOf (s.dev.link l).queue (fun p => p.vc == 0)).filter (fun p => (s.dev.link l).ready p) = none) &&
      decide ((s.dev.link l).transitNext ((s.dev.linkCfg l).role == 2) = none) &&
      decide (((s.dev.link l).turn ((s.dev.linkCfg l).role == 2) s.dev.lay.cur.strict).pkt = some p)) : Bool) = true ∧
    ((let s : State := { dev := (put (put (wLink 3 id) R.FAB_SLUICE_CTRL_HI 9) R.FAB_SLUICE_CTRL_LO 5), pending := [] }; let b : Nat := 1;
      decide (sound s.dev = true) && decide (b < 12) &&
      decide (s.dev.backlog b ≤ 64 * s.dev.fld R.FAB_SLUICE_CTRL_HI) &&
      decide (s.dev.backlog b < 64 * s.dev.fld R.FAB_SLUICE_CTRL_LO)) : Bool) = true ∧
    ((let s : State := { dev := (put (wLink 3 (fun k => { k with queue := [{ typ := 0x10, ce := false, tag := false, vc := 1, flits := 1, pad := 0, dst := 7, src := 9, rank := 0, hops := 1, nonce := 0, body := [], payload := [], bay := 1, transit := false, inl := 48, inVc := 0 }] })) R.FAB_SLUICE_CTRL_HI 0), pending := [] }; let b : Nat := 1;
      decide (sound s.dev = true) && decide (b < 12) &&
        decide (64 * s.dev.fld R.FAB_SLUICE_CTRL_HI < s.dev.backlog b)) : Bool) = true := by
  refine ⟨?_, ?_, ?_, ?_, ?_, ?_, ?_, ?_, ?_, ?_, ?_, ?_, ?_, ?_⟩ <;> decide +kernel

/-- The hypotheses of every clause of RouteTableCommands are met, clause by clause. -/
theorem meets_RouteTableCommands :
    ((let s : State := { dev := (wTbl 0), pending := [] };
      decide (sound s.dev = true) && decide (s.dev.pfOk = true) && decide (s.dev.tblState ∈ [0, 2,
        3])) : Bool) = true ∧
    ((let s : State := { dev := (wTbl 1), pending := [] };
      decide (sound s.dev = true) && decide (s.dev.tblState = 1) && decide (s.dev.ctl.hostUp = true)) : Bool) = true ∧
    ((let s : State := { dev := (wTbl 1), pending := [] };
      decide (sound s.dev = true) && decide (s.dev.tblState = 1)) : Bool) = true ∧
    ((let s : State := { dev := (wTbl 2), pending := [] };
      decide (sound s.dev = true) && decide (s.dev.pfOk = true) && decide (s.dev.tblState = 2)) : Bool) = true ∧
    ((let s : State := { dev := (wTbl 4), pending := [] };
      decide (sound s.dev = true) && decide (s.dev.tblState = 4) &&
        decide (s.dev.fld R.FAB_DRAIN_COUNT = 0)) : Bool) = true ∧
    ((let s : State := { dev := (wTbl 5), pending := [] };
      decide (sound s.dev = true) && decide (s.dev.pfOk = true) && decide (s.dev.tblState = 5) &&
      decide (s.dev.fld R.FAB_DRAIN_COUNT = 0)) : Bool) = true ∧
    ((let s : State := { dev := (wTbl 6), pending := [] };
      decide (sound s.dev = true) && decide (s.dev.pfOk = true) && decide (s.dev.tblState ≠ 0) &&
      decide (s.dev.tblState ≠ 1)) : Bool) = true ∧
    ((let s : State := { dev := (wTbl 0), pending := [] };
      decide (sound s.dev = true) && decide (s.dev.pfOk = true) && decide (s.dev.ctl.hostUp = true)) : Bool) = true ∧
    ((let s : State := { dev := { wTbl 0 with lay := { (wTbl 0).lay with groups := [1] } }, pending := [] };
      decide (sound s.dev = true) && decide (s.dev.pfOk = true) && decide (s.dev.ctl.hostUp = true)) : Bool) = true ∧
    ((let s : State := { dev := (wTbl 0), pending := [] };
      decide (sound s.dev = true) && decide (s.dev.pfOk = true)) : Bool) = true ∧
    ((let s : State := { dev := (wTbl 0), pending := [] };
      decide (sound s.dev = true) && decide (s.dev.pfOk = true) &&
        decide (s.dev.ctl.hostUp = true)) : Bool) = true := by
  refine ⟨?_, ?_, ?_, ?_, ?_, ?_, ?_, ?_, ?_, ?_, ?_⟩ <;> decide +kernel

/-- The hypotheses of every clause of EthernetFrames are met, clause by clause. -/
theorem meets_EthernetFrames :
    ((let s : State := { dev := (put (put (put (put (put (wSub id) R.ETH_MAX_FRAME 0x2400) (R.ETH_LADDR_CTRL 0 0) 1) (R.ETH_LADDR 0 0) 5) (R.ETH_CLS_RXLIM 0 0) 0x100) (R.TRN_UDP_PORT 0) 4790), pending := [] }; let u : Nat := 0; let f : EthFrame := { bytes := [0, 0, 0, 0, 0, 0, 0, 0, 0, 0, 0, 0, 8, 0, 0x45, 0, 0, 0, 0, 0, 0, 0, 0, 0, 0, 0, 0, 0, 0, 0, 0, 0, 0, 5, 0, 0, 0, 0, 0, 0, 0, 0, 0, 1, 0, 0, 0, 0, 0, 7], len := 80, dstMac := 0xFFFFFFFFFFFF, etherType := 0x0800, isIp := true, ip6 := false, dscp := 0, dstIp := 5, udpPort := 4790, ndSolicit := false, bad := false, runt := false, codeErr := false }; let y : Nat := 0;
      decide (sound s.dev = true) && decide (s.dev.subOk u = true) &&
      decide (s.dev.fld (R.ETH_SUB_STATE_LINK u) = 2) && decide (64 ≤ f.len) && decide (f.bad = false) &&
      decide (f.runt = false) && decide (f.codeErr = false) && decide (f.len ≤ s.dev.fld R.ETH_MAX_FRAME) &&
      decide (f.etherType ∉ [0x8808, 0x88CC, 0x0806]) &&
      decide (f.dstMac ∈ [s.dev.fld (R.ETH_SUB_MAC u) % 2 ^ 48, 0xFFFFFFFFFFFF, 0x0180C200000E] ∨
        f.dstMac / 2 ^ 32 = 0x3333) &&
      decide (s.dev.localYard f.dstIp f.ip6 = some y) && decide (f.ndSolicit = false) && decide (f.isIp = true) &&
      decide (s.dev.bayState y = 1) && decide (f.udpPort = s.dev.fld (R.TRN_UDP_PORT y) ∨ f.udpPort = 4791) &&
      decide ((if (f.udpPort != s.dev.fld (R.TRN_UDP_PORT y)) = true then udpAt f 0 1 != 0x81 else wrtOpcode (udpAt f 1 1)) = true) &&
      decide (s.dev.rxHeld (u / 4) (s.dev.rxBay y (connNoOf f (f.udpPort != s.dev.fld (R.TRN_UDP_PORT y)))) (bits (s.dev.fld (R.ETH_DSCP_MAP (f.dscp / 8))) (4 * (f.dscp % 8)) 3) + f.len ≤ 1024 * s.dev.fld (R.ETH_CLS_RXLIM (s.dev.rxBay y (connNoOf f (f.udpPort != s.dev.fld (R.TRN_UDP_PORT y)))) (bits (s.dev.fld (R.ETH_DSCP_MAP (f.dscp / 8))) (4 * (f.dscp % 8)) 3))) &&
      decide (s.dev.rxPort (u / 4) + f.len ≤ 25165824)) : Bool) = true ∧
    ((let s : State := { dev := (put (put (put (put (put (wSub id) R.ETH_MAX_FRAME 0x2400) (R.ETH_LADDR_CTRL 0 0) 1) (R.ETH_LADDR 0 0) 5) (R.ETH_CLS_RXLIM 0 0) 0x100) (R.TRN_UDP_PORT 0) 4790), pending := [] }; let u : Nat := 0; let f : EthFrame := { bytes := [1, 2], len := 80, dstMac := 0xFFFFFFFFFFFF, etherType := 0x8808, isIp := false, ip6 := false, dscp := 0, dstIp := 5, udpPort := 4791, ndSolicit := false, bad := false, runt := false, codeErr := false };
      decide (sound s.dev = true) && decide (s.dev.subOk u = true) &&
      decide (s.dev.fld (R.ETH_SUB_STATE_LINK u) = 2) && decide (64 ≤ f.len) && decide (f.bad = false) &&
      decide (f.runt = false) && decide (f.codeErr = false) && decide (f.len ≤ s.dev.fld R.ETH_MAX_FRAME) &&
      decide (f.etherType = 0x8808)) : Bool) = true ∧
    ((let s : State := { dev := (let w := put (put (wSub id) R.ETH_MAX_FRAME 0x2400) (R.ETH_CLS_RXLIM 0 7) 0x100; { w with eth := { w.eth with rxOn := true } }), pending := [] }; let u : Nat := 0; let f : EthFrame := { bytes := [1, 2], len := 80, dstMac := 0xFFFFFFFFFFFF, etherType := 0x88F7, isIp := false, ip6 := false, dscp := 0, dstIp := 5, udpPort := 0, ndSolicit := false, bad := false, runt := false, codeErr := false };
      decide (sound s.dev = true) && decide (s.dev.subOk u = true) &&
      decide (s.dev.fld (R.ETH_SUB_STATE_LINK u) = 2) && decide (64 ≤ f.len) && decide (f.bad = false) &&
      decide (f.runt = false) && decide (f.codeErr = false) && decide (f.len ≤ s.dev.fld R.ETH_MAX_FRAME) &&
      decide (f.etherType = 0x88F7) && decide (f.isIp = false) &&
      decide (f.dstMac ∈ [s.dev.fld (R.ETH_SUB_MAC u) % 2 ^ 48, 0xFFFFFFFFFFFF, 0x0180C200000E] ∨
        f.dstMac / 2 ^ 32 = 0x3333) &&
      decide (s.dev.localYard f.dstIp f.ip6 = none) && decide (f.ndSolicit = false) &&
      decide (s.dev.eth.rxOn = true) && decide (s.dev.ctl.hostUp = true) &&
      decide ((s.dev.fld R.ETH_MGMT_RX_HEAD + 2 ^ 32 - s.dev.fld R.ETH_MGMT_RX_TAIL) % 2 ^ 32 ≠ 2 ^ bits (s.dev.fld R.ETH_MGMT_RING_CFG) 0 5) &&
      decide (s.dev.rxHeld (u / 4) 0 7 + f.len ≤ 1024 * s.dev.fld (R.ETH_CLS_RXLIM 0 7)) &&
      decide (s.dev.rxPort (u / 4) + f.len ≤ 25165824)) : Bool) = true ∧
    ((let s : State := { dev := { put (wSub (fun p => { p with queue := [{ bay := 2, cls := 7, len := 64, bytes := [], slot := none, weight := 8, stamp := false }] })) R.ETH_MAX_FRAME 0x2400 with eth := { (wSub (fun p => { p with queue := [{ bay := 2, cls := 7, len := 64, bytes := [], slot := none, weight := 8, stamp := false }] })).eth with tokens := List.replicate 12 (List.replicate 8 100) } }, pending := [] }; let u : Nat := 0; let b : Nat := 2; let f : EthTx := { bay := 2, cls := 7, len := 64, bytes := [], slot := none, weight := 8, stamp := false };
      decide (sound s.dev = true) && decide (s.dev.subOk u = true) &&
      decide (s.dev.fld (R.ETH_SUB_STATE_LINK u) = 2) && decide (s.dev.on (R.ETH_SUB_STATE_LPI_TX u) = false) &&
      decide (firstOf (s.dev.sub u).urgent (fun b => (if b = 12 then ((s.dev.sub u).head 12 7).filter (s.dev.eligible u) else s.dev.ready u b 7).isSome) = some b) &&
      decide ((if b = 12 then ((s.dev.sub u).head 12 7).filter (s.dev.eligible u) else s.dev.ready u b 7) = some f) &&
      decide (f.len ≤ s.dev.fld R.ETH_MAX_FRAME)) : Bool) = true ∧
    ((let s : State := { dev := (put (wSub (fun p => { p with queue := [{ bay := 2, cls := 3, len := 64, bytes := [], slot := none, weight := 8, stamp := false }] })) R.ETH_MAX_FRAME 0x2400), pending := [] }; let u : Nat := 0; let f : EthTx := { bay := 2, cls := 3, len := 64, bytes := [], slot := none, weight := 8, stamp := false };
      decide (sound s.dev = true) && decide (s.dev.subOk u = true) &&
      decide (s.dev.fld (R.ETH_SUB_STATE_LINK u) = 2) && decide (s.dev.on (R.ETH_SUB_STATE_LPI_TX u) = false) &&
      decide ((s.dev.sub u).queue = [f]) && decide (f.bay < 12) && decide (f.cls < 7) &&
      decide (s.dev.eligible u f = true) && decide (f.bay ∈ (s.dev.sub u).bayOrder) &&
      decide (f.cls ∈ (s.dev.sub u).clsOrder.getD f.bay (List.range 7)) &&
        decide (f.len ≤ s.dev.fld R.ETH_MAX_FRAME)) : Bool) = true ∧
    ((let s : State := { dev := (wSub id), pending := [] };
      decide (sound s.dev = true) && decide (s.dev.pfOk = true)) : Bool) = true ∧
    ((let s : State := { dev := (put (wSub id) R.ETH_MAX_FRAME 0x2400), pending := [] }; let v : Nat := 1;
      let bs : List Byte := [14, 0, 0, 0] ++ zeros 28 ++ zeros 14; let u : Nat := 0;
      decide (sound s.dev = true) && decide (s.dev.pfOk = true) &&
      decide ((v + 2 ^ 32 - s.dev.ctl.txNext) % 2 ^ 32 = 1) && decide (u = le bs 3 1 % 16) &&
      decide (s.dev.subOk u = true) && decide (s.dev.fld (R.ETH_SUB_STATE_LINK u) = 2) &&
      decide (max 64 (le bs 0 2 + 4) ≤ s.dev.fld R.ETH_MAX_FRAME)) : Bool) = true := by
  refine ⟨?_, ?_, ?_, ?_, ?_, ?_, ?_⟩ <;> decide +kernel

/-- The hypotheses of every clause of EthernetTimersAndStates are met, clause by clause. -/
theorem meets_EthernetTimersAndStates :
    ((let s : State := { dev := (put (wSub id) (R.ETH_CLS_RATE 2 3) 500), pending := [] }; let b : Nat := 2;
      let c : Nat := 3;
      decide (sound s.dev = true) && decide (b < 12) && decide (c < 8) && decide (b < s.dev.eth.tokens.length) &&
      decide (c < (s.dev.eth.tokens.getD b []).length)) : Bool) = true ∧
    ((let s : State := { dev := (put (wSub id) R.ETH_MGMT_RATE 500), pending := [] };
      decide (sound s.dev = true)) : Bool) = true ∧
    ((let s : State := { dev := (put (wSub (fun p => { p with gates := { entries := [(1, 500), (2, 700)], cycle := 1200, base := 0 } })) (R.ETH_GCL_CTRL 0) 1), pending := [] }; let u : Nat := 0;
      decide (sound s.dev = true) && decide (s.dev.subOk u = true) &&
        decide ((s.dev.sub u).gates.entries ≠ [])) : Bool) = true ∧
    ((let s : State := { dev := (wSub id), pending := [] }; let u : Nat := 0;
      decide (sound s.dev = true) && decide (s.dev.pfOk = true) && decide (s.dev.subOk u = true)) : Bool) = true ∧
    ((let s : State := { dev := (wSub (fun p => { p with pend := some ({ entries := [(1, 500)], cycle := 500, base := 0 }, 9000) })), pending := [] }; let u : Nat := 0; let g : GateList := { entries := [(1, 500)], cycle := 500, base := 0 }; let T : Nat := 9000;
      decide (sound s.dev = true) && decide (u < 16) && decide ((s.dev.sub u).pend = some (g, T))) : Bool) = true ∧
    ((let s : State := { dev := (put (put (put (wSub id) (R.ETH_LPI_CTRL 0) 1) (R.ETH_SUB_STATE_EEE_PEER 0) 1) (R.ETH_LPI_TW 0) 3000), pending := [] }; let u : Nat := 0;
      decide (sound s.dev = true) && decide (s.dev.subOk u = true) &&
      decide (s.dev.fld (R.ETH_SUB_STATE_LINK u) = 2) && decide (bit (s.dev.fld (R.ETH_LPI_CTRL u)) 0 = true) &&
      decide (s.dev.on (R.ETH_SUB_STATE_EEE_PEER u) = true) && decide (s.dev.fld (R.ETH_LPI_TW u) ≠ 0) &&
      decide ((s.dev.sub u).queue = []) && decide (s.dev.gated u = false) &&
      decide (s.dev.on (R.ETH_SUB_STATE_LPI_TX u) = false)) : Bool) = true ∧
    ((let s : State := { dev := (put (wSub id) (R.ETH_SUB_STATE_LPI_TX 0) 1), pending := [] }; let u : Nat := 0;
      decide (sound s.dev = true) && decide (u < 16) &&
        decide (s.dev.on (R.ETH_SUB_STATE_LPI_TX u) = true)) : Bool) = true ∧
    ((let s : State := { dev := (wSub id), pending := [] }; let u : Nat := 0;
      decide (sound s.dev = true) && decide (s.dev.subOk u = true) &&
        decide (s.dev.fld (R.ETH_SUB_STATE_LINK u) = 2)) : Bool) = true ∧
    ((let s : State := { dev := (wSub id), pending := [] };
      decide (sound s.dev = true) && decide (s.dev.pfOk = true)) : Bool) = true ∧
    ((let s : State := { dev := (wSub id), pending := [] }; let u : Nat := 0; let up : Bool := false;
      decide (sound s.dev = true) && decide (s.dev.subOk u = true) &&
      decide (s.dev.fld (R.ETH_SUB_STATE_LINK u) ≠ if up = true then 2 else 1)) : Bool) = true := by
  refine ⟨?_, ?_, ?_, ?_, ?_, ?_, ?_, ?_, ?_, ?_⟩ <;> decide +kernel

/-- The hypotheses of every clause of SelectAndDemand are met, clause by clause. -/
theorem meets_SelectAndDemand :
    ((let s : State := { dev := (put (wPlan selPlan) (R.MEM_FAR_PORT_LINK_UP 0) 1), pending := [] };
      let y : Nat := 0; let t : Nat := 0; let p : Plan := selPlan;
      let h : Thr := { pc := 0, stop := 1, loops := [], active := none, waiting := false };
      let st : Machine.Step := selStep; let host : HostSide := { xl := .hit, data := [], bad := false };
      let q0 : Place := (.mem 1 0); let q1 : Place := (.mem 1 4096); let q2 : Place := (.mem 1 8192);
      let t3 : Nat := 1; let a3 : Nat := 8448; let q4 : Place := (.mem 1 12288); let gs : List Byte := (zeros 256);
      let es : List Byte := (zeros 256);
      decide (sound s.dev = true) && decide ((s.dev.yard y).plan = some p) &&
      decide ((s.dev.yard y).thrs[t]? = some h) && decide (p.steps[h.pc]? = some st) &&
      decide ((s.dev.issue y t tSelect).isSome = true) && decide (s.dev.refPlace y p st h.env 0 = some q0) &&
      decide (s.dev.refPlace y p st h.env 3 = some q1) &&
      decide (s.dev.bufPlace y (p.buf (st.sp 0x6C 2)) ((if s.dev.odd y then (p.buf (st.sp 0x6C 2)).len / 2 else 0) + st.bitternAt h.env) = some q2) &&
      decide (s.dev.bufPlace y (p.buf (st.sp 0x6C 2)) ((if s.dev.odd y then 0 else (p.buf (st.sp 0x6C 2)).len / 2) + st.bitternAt h.env) = some (.mem t3 a3)) &&
      decide (s.dev.bufPlace y (p.buf (st.sp 0x6E 2)) 0 = some q4) &&
      decide (readsAs s.dev y q0 (4 * st.count) host = some gs) &&
      decide (readsAs s.dev y q2 (4 * st.count) { xl := .hit, data := [], bad := false } = some es) &&
      decide (writesTo s.dev y q1 host = true) && decide (writesTo s.dev y (.mem t3 a3) host = true) &&
      decide (writesTo s.dev y q4 { xl := .hit, data := [], bad := false } = true) &&
        decide (p.sheds = [])) : Bool) = true ∧
    ((let s : State := { dev := (put (wPlan demPlan) (R.MEM_FAR_PORT_LINK_UP 0) 1), pending := [] };
      let y : Nat := 0; let t : Nat := 0; let p : Plan := demPlan;
      let h : Thr := { pc := 0, stop := 1, loops := [], active := none, waiting := false };
      let st : Machine.Step := demStep; let host : HostSide := { xl := .hit, data := [], bad := false };
      let q : Place := (.mem 0 0); let tj : Nat := 0; let b : Nat := 4096; let bs : List Byte := (zeros 8);
      decide (sound s.dev = true) && decide ((s.dev.yard y).plan = some p) &&
      decide ((s.dev.yard y).thrs[t]? = some h) && decide (p.steps[h.pc]? = some st) &&
      decide ((s.dev.issue y t tDemand).isSome = true) && decide (s.dev.refPlace y p st h.env 0 = some q) &&
      decide (s.dev.refPlace y p st h.env 3 = some (.mem tj b)) &&
      decide (readsAs s.dev y q (4 * st.count) host = some bs) &&
      decide (writesTo s.dev y (.mem tj b) host = true) && decide (p.sheds = [])) : Bool) = true ∧
    ((let s : State := { dev := (wPlan { demPlan with bufs := [mkBuf 0 0 4096, { mkBuf 0 0 4096 with kind := 2, off := 4096 }] }), pending := [] }; let y : Nat := 0; let t : Nat := 0; let p : Plan := { demPlan with bufs := [mkBuf 0 0 4096, { mkBuf 0 0 4096 with kind := 2, off := 4096 }] }; let h : Thr := { pc := 0, stop := 1, loops := [], active := none, waiting := false }; let st : Machine.Step := demStep; let host : HostSide := { xl := .hit, data := [], bad := false }; let q : Place := (.mem 0 0); let ps : Nat := 0; let va : Nat := 4096; let bs : List Byte := (zeros 8);
      decide (sound s.dev = true) && decide ((s.dev.yard y).plan = some p) &&
      decide ((s.dev.yard y).thrs[t]? = some h) && decide (p.steps[h.pc]? = some st) &&
      decide ((s.dev.issue y t tDemand).isSome = true) && decide (s.dev.refPlace y p st h.env 0 = some q) &&
      decide (s.dev.refPlace y p st h.env 3 = some (.host ps va)) &&
      decide (readsAs s.dev y q (4 * st.count) host = some bs) &&
        decide (writesTo s.dev y (.host ps va) host = true)) : Bool) = true := by
  refine ⟨?_, ?_, ?_⟩ <;> decide +kernel

/-- The hypotheses of every clause of StreamDeliveries are met, clause by clause. -/
theorem meets_StreamDeliveries :
    ((let s : State := { dev := (wPlan (strPlan 0xFFFF)), pending := [] }; let y : Nat := 0; let t : Nat := 0;
      let p : Plan := (strPlan 0xFFFF); let h : Thr := { pc := 0, stop := 1, loops := [], active := none, waiting := false }; let st : Machine.Step := (strStep 0xFFFF); let q : Place := (.mem 0 0);
      decide (sound s.dev = true) && decide ((s.dev.yard y).plan = some p) &&
      decide ((s.dev.yard y).thrs[t]? = some h) && decide (p.steps[h.pc]? = some st) &&
      decide ((s.dev.issue y t tStream).isSome = true) && decide (le p.tables (st.sp 0x68 4 + 4) 2 = 0xFFFF) &&
      decide (s.dev.refPlace y p st h.env 0 = some q) &&
      decide ((if st.isLocal 3 = true then ((s.dev.refPlace y p st h.env 3).map (fun q => !q.inHost)).getD true else true) = true)) : Bool) = true ∧
    ((let s : State := { dev := (let w := put (wPlan strPlanD) (R.MEM_FAR_PORT_LINK_UP 0) 1; { w with mem := { w.mem with cells := [(10, 1), (64, 1)] } }), pending := [] }; let y : Nat := 0; let t : Nat := 0; let p : Plan := strPlanD; let h : Thr := { pc := 0, stop := 1, loops := [], active := none, waiting := false }; let st : Machine.Step := (strStep 0xFFFF); let q : Place := (.mem 0 0); let td : Nat := 0; let ad : Nat := 0;
      decide (sound s.dev = true) && decide ((s.dev.yard y).plan = some p) &&
      decide ((s.dev.yard y).thrs[t]? = some h) && decide (p.steps[h.pc]? = some st) &&
      decide ((s.dev.issue y t tStream).isSome = true) && decide (le p.tables (st.sp 0x68 4 + 4) 2 ≠ 0xFFFF) &&
      decide (s.dev.refPlace y p st h.env 0 = some q) &&
      decide ((if st.isLocal 3 = true then ((s.dev.refPlace y p st h.env 3).map (fun q => !q.inHost)).getD true else true) = true) &&
      decide (shedsStay s.dev y p st h.env = true) &&
      decide (s.dev.demandPlace y p (st.sp 0x68 4) h.env = some (.mem td ad)) && decide (s.dev.mem.uc = []) &&
      decide ((0 :: s.dev.farPorts).all (fun q => s.dev.on (R.MEM_FAR_PORT_LINK_UP q)) = true) &&
      decide (le (s.dev.mem.read (s.dev.addr y td ad) 64) 0 8 = s.dev.fld (R.PLN_STEP_COUNT y)) &&
      decide (le (s.dev.mem.read (s.dev.addr y td ad) 64) 0xA 1 = le p.tables (st.sp 0x68 4 + 0x14) 1)) : Bool) = true ∧
    ((let s : State := { dev := (put (wStream (strPlan 0xFFFF) (mkStream [mkEntry none] [])) (R.MEM_FAR_PORT_LINK_UP 0) 1), pending := [] }; let y : Nat := 0; let t : Nat := 0; let dr : Nat := 0; let host : HostSide := { xl := .hit, data := [], bad := false }; let p : Plan := (strPlan 0xFFFF); let st : Machine.Step := (strStep 0xFFFF); let e : EntrySt := (mkEntry none); let z : StreamSt := (mkStream [(mkEntry none)] []); let raw : List Byte := (zeros 64); let bs : List Byte := (zeros 64);
      decide (sound s.dev = true) && decide (s.dev.live y = true) &&
      decide (s.dev.inService y t dr = some (p, st, e)) &&
      decide ((s.dev.active y t).bind (fun a => a.stream) = some z) && decide (dr < 12) && decide (e.data = none) &&
      decide (e.slot = none) && decide (e.fill = none) &&
      decide (readsAs s.dev y e.tile (le p.tables (st.sp 0x68 4 + 0x20) 8) host = some raw) &&
      decide (deliverTile (le p.tables (st.sp 0x68 4 + 7) 1) (le p.tables (st.sp 0x68 4 + 0x15) 1) (le p.tables (st.sp 0x68 4 + 0x18) 8) (st.sp 0x6F 1) raw = some bs)) : Bool) = true ∧
    ((let s : State := { dev := (put (wStream (strPlan 1) (mkStream [{ mkEntry none with slot := some 2 }] [])) (R.MEM_FAR_PORT_LINK_UP 0) 1), pending := [] }; let y : Nat := 0; let t : Nat := 0; let dr : Nat := 0; let host : HostSide := { xl := .hit, data := [], bad := false }; let p : Plan := (strPlan 1); let st : Machine.Step := (strStep 1); let e : EntrySt := { mkEntry none with slot := some 2 }; let z : StreamSt := (mkStream [{ mkEntry none with slot := some 2 }] []); let shed : Nat := 0; let k : Nat := 2; let raw : List Byte := (zeros 64); let bs : List Byte := (zeros 64);
      decide (sound s.dev = true) && decide (s.dev.live y = true) &&
      decide (s.dev.inService y t dr = some (p, st, e)) &&
      decide ((s.dev.active y t).bind (fun a => a.stream) = some z) && decide (dr < 12) && decide (e.data = none) &&
      decide (e.fill = none) && decide (z.shed = some shed) && decide (e.slot = some k) &&
      decide (readsAs s.dev y (.mem 1 (shed + 4096 + k * (le p.tables (st.sp 0x68 4 + 0x20) 8))) (le p.tables (st.sp 0x68 4 + 0x20) 8) host = some raw) &&
      decide (deliverTile (le p.tables (st.sp 0x68 4 + 7) 1) (le p.tables (st.sp 0x68 4 + 0x15) 1) (le p.tables (st.sp 0x68 4 + 0x18) 8) (st.sp 0x6F 1) raw = some bs)) : Bool) = true ∧
    ((let s : State := { dev := (put (wStream (strPlan 1) (mkStream [{ mkEntry none with fill := some 2, tile := .mem 2 64 }] [])) (R.MEM_FAR_PORT_LINK_UP 0) 1), pending := [] }; let y : Nat := 0; let t : Nat := 0; let dr : Nat := 0; let host : HostSide := { xl := .hit, data := [], bad := false }; let p : Plan := (strPlan 1); let st : Machine.Step := (strStep 1); let e : EntrySt := { mkEntry none with fill := some 2, tile := .mem 2 64 }; let z : StreamSt := (mkStream [{ mkEntry none with fill := some 2, tile := .mem 2 64 }] []); let shed : Nat := 0; let k : Nat := 2; let a : Nat := 64; let raw : List Byte := (zeros 64); let bs : List Byte := (zeros 64);
      decide (sound s.dev = true) && decide (s.dev.live y = true) &&
      decide (s.dev.inService y t dr = some (p, st, e)) &&
      decide ((s.dev.active y t).bind (fun a => a.stream) = some z) && decide (dr < 12) && decide (e.data = none) &&
      decide (e.slot = none) && decide (z.shed = some shed) && decide (e.fill = some k) &&
      decide (e.tile = .mem 2 a) && decide (z.slotWanted e.i k = false) &&
      decide (z.fills.all (fun f => f.1 != k) = true) &&
      decide (readsAs s.dev y e.tile (le p.tables (st.sp 0x68 4 + 0x20) 8) host = some raw) &&
      decide (deliverTile (le p.tables (st.sp 0x68 4 + 7) 1) (le p.tables (st.sp 0x68 4 + 0x15) 1) (le p.tables (st.sp 0x68 4 + 0x18) 8) (st.sp 0x6F 1) raw = some bs)) : Bool) = true ∧
    ((let s : State := { dev := (setY (wStream (strPlan 0xFFFF) (mkStream [mkEntry (some (zeros 64))] [])) 0 (fun r => { r with lands := [mkLand 0x300 7] })), pending := [] }; let y : Nat := 0; let t : Nat := 0; let dr : Nat := 0; let p : Plan := (strPlan 0xFFFF); let st : Machine.Step := (strStep 0xFFFF); let e : EntrySt := (mkEntry (some (zeros 64))); let z : StreamSt := (mkStream [(mkEntry (some (zeros 64)))] []); let x : DestSt := { accel := 0, seq := 0, sent := 0, answered := 0, waited := false }; let bs : List Byte := (zeros 64); let b : LandBuf := (mkLand 0x300 7);
      decide (sound s.dev = true) && decide (s.dev.live y = true) &&
      decide (s.dev.inService y t dr = some (p, st, e)) &&
      decide ((s.dev.active y t).bind (fun a => a.stream) = some z) && decide (dr < 12) &&
      decide (e.data = some bs) && decide (s.dev.badDest y p st e = false) && decide (e.dests = [x]) &&
      decide (p.deliverPkts st ≠ 0) && decide (s.dev.granted y p (st.sp 0x68 4) x = true) &&
      decide ((s.dev.yard y).land (p.destOf (st.sp 0x68 4) x.accel).1 (p.destOf (st.sp 0x68 4) x.accel).2 = some b) &&
      decide (s.dev.unanswered (p.destOf (st.sp 0x68 4) x.accel).1 < 512) &&
      decide (s.dev.droverTurn y dr = some t) && decide (s.dev.keyed y = true)) : Bool) = true ∧
    ((let s : State := { dev := (wStream (strPlan 1) (mkStream [mkEntry none] [(3, 77, 1)])), pending := [] };
      let y : Nat := 0; let t : Nat := 0; let slot : Nat := 3; let z : StreamSt := (mkStream [mkEntry none] [(3, 77,
      1)]); let shed : Nat := 0; let f : Nat × Nat × Nat := (3, 77, 1);
      decide (sound s.dev = true) && decide (s.dev.live y = true) &&
      decide ((s.dev.active y t).bind (fun a => a.stream) = some z) && decide (z.shed = some shed) &&
      decide (z.fills.find? (fun f => f.1 == slot) = some f) && decide (s.dev.mem.uc = [])) : Bool) = true ∧
    ((let s : State := { dev := (wPlan (strPlan 1)), pending := [] }; let y : Nat := 0; let v : Nat := 1;
      let p : Plan := (strPlan 1); let x : Nat × Nat × Nat := (1, 64, 64); let a : Nat := 0; let k : Nat := 5;
      decide (sound s.dev = true) && decide (s.dev.cmdOk y = true) && decide ((s.dev.yard y).plan = some p) &&
      decide (p.sheds.find? (fun e => e.1 == bits v 0 16) = some x) &&
      decide (s.dev.shedAt y p (bits v 0 16) = some a) && decide (s.dev.mem.uc = []) &&
        decide (k < x.2.2)) : Bool) = true := by
  refine ⟨?_, ?_, ?_, ?_, ?_, ?_, ?_, ?_⟩ <;> decide +kernel

/-- The hypotheses of every clause of LandingDirectory are met, clause by clause. -/
theorem meets_LandingDirectory :
    ((let s : State := { dev := (wKeyed wYard), pending := [] }; let y : Nat := 0; let src : Nat := 0x300;
      let r : OpenReq := { buf := 4096, kind := 0, length := 64, slots := 0, slotBytes := 0, scaleOff := 0 };
      decide (sound s.dev = true) && decide (s.dev.hears y = true) && decide (s.dev.keyed y = true) &&
      decide ((((s.dev.yard y).replay.getD (y - y) []).all (fun e => e.src != src)) = true) &&
      decide (((s.dev.yard y).replay.getD (y - y) []).length < 2048) &&
      decide (openMalformed r = true ∨ ((s.dev.yard y).land src r.buf).isSome = true ∨
        1024 * (s.dev.baysOf y).length ≤ (s.dev.yard y).lands.length)) : Bool) = true ∧
    ((let s : State := { dev := (wKeyed wYard), pending := [] }; let y : Nat := 0; let src : Nat := 0x300;
      let r : OpenReq := { buf := 9, kind := 1, length := 128, slots := 2, slotBytes := 64, scaleOff := 0 };
      decide (sound s.dev = true) && decide (s.dev.hears y = true) && decide (s.dev.keyed y = true) &&
      decide ((((s.dev.yard y).replay.getD (y - y) []).all (fun e => e.src != src)) = true) &&
      decide (((s.dev.yard y).replay.getD (y - y) []).length < 2048) && decide (openMalformed r = false) &&
      decide ((s.dev.yard y).land src r.buf = none) &&
      decide ((s.dev.yard y).lands.length < 1024 * (s.dev.baysOf y).length)) : Bool) = true ∧
    ((let s : State := { dev := (setY (wKeyed wYard) 0 (fun r => { r with lands := [mkLand 0x300 7] })), pending := [] }; let y : Nat := 0; let src : Nat := 0x300; let buf : Nat := 7; let b : LandBuf := (mkLand 0x300 7);
      decide (sound s.dev = true) && decide (s.dev.hears y = true) && decide (s.dev.keyed y = true) &&
      decide ((((s.dev.yard y).replay.getD (y - y) []).all (fun e => e.src != src)) = true) &&
      decide (((s.dev.yard y).replay.getD (y - y) []).length < 2048) &&
      decide ((s.dev.yard y).land src buf = some b) && decide (b.closing = false)) : Bool) = true ∧
    ((let s : State := { dev := (setY (wKeyed wYard) 0 (fun r => { r with lands := [{ mkLand 0x300 7 with closing := true }] })), pending := [] }; let y : Nat := 0; let src : Nat := 0x300; let buf : Nat := 7; let b : LandBuf := { mkLand 0x300 7 with closing := true };
      decide (sound s.dev = true) && decide (s.dev.live y = true) && decide ((s.dev.yard y).land src buf = some b) &&
      decide (b.closing = true) && decide (b.out = 0) && decide (s.dev.delivering y src buf = false)) : Bool) = true ∧
    ((let s : State := { dev := (setY (wKeyed wYard) 0 (fun r => { r with lands := [mkLand 0x300 7] })), pending := [] }; let y : Nat := 0; let src : Nat := 0x300; let buf : Nat := 7; let epoch : Nat := 0; let limit : Nat := 5; let b : LandBuf := (mkLand 0x300 7);
      decide (sound s.dev = true) && decide (s.dev.hears y = true) && decide (s.dev.keyed y = true) &&
      decide ((((s.dev.yard y).replay.getD (y - y) []).all (fun e => e.src != src)) = true) &&
      decide (((s.dev.yard y).replay.getD (y - y) []).length < 2048) &&
      decide ((s.dev.yard y).land src buf = some b) && decide (b.kind = 1) &&
      decide (epoch = s.dev.fld (R.DRV_EPOCH y) % 256) && decide (serialBelow b.limit limit = true)) : Bool) = true ∧
    ((let s : State := { dev := (setY (wKeyed wYard) 0 (fun r => { r with lands := [{ mkLand 0x300 7 with out := 1 }], landReqs := [(4, { owner := .gone, dst := 0x300, buf := 7 })] })), pending := [] }; let y : Nat := 0; let src : Nat := 0x300; let ansId : Nat := 4; let buf : Nat := 7; let q : LandReq := { owner := .gone, dst := 0x300, buf := 7 };
      decide (sound s.dev = true) && decide (s.dev.hears y = true) && decide (s.dev.keyed y = true) &&
      decide (Tab.find (s.dev.yard y).landReqs ansId = some q) && decide (q.dst = src) && decide (q.buf = buf) &&
      decide (s.dev.comms.all (fun e => e.2.landq.isEmpty) = true) &&
      decide ((s.dev.yard y).lands.all (fun b => b.landed.isEmpty) = true) &&
      decide ((match q.owner with | .lap c _ => (s.dev.ringThreads y c).isEmpty | .gone => true | _ => false) = true)) : Bool) = true ∧
    ((let s : State := { dev := (setY (wStream (strPlan 0xFFFF) (mkStream [{ mkEntry (some (zeros 64)) with dests := [{ accel := 0, seq := 0, sent := 1, answered := 5, waited := false }] }] [])) 0 (fun r => { r with lands := [{ mkLand 0x300 7 with out := 1 }], landReqs := [(4, { owner := .delivery 0 0 0, dst := 0x300, buf := 7 })] })), pending := [] }; let y : Nat := 0; let src : Nat := 0x300; let ansId : Nat := 4; let buf : Nat := 7; let t : Nat := 0; let i : Nat := 0; let a : Nat := 0; let p : Plan := (strPlan 0xFFFF); let st : Machine.Step := (strStep 0xFFFF); let act : Active := { step := 0, env := [0, 0, 0, 0], code := none, runs := [], live := false, lap := none, stream := some (mkStream [{ mkEntry (some (zeros 64)) with dests := [{ accel := 0, seq := 0, sent := 1, answered := 5, waited := false }] }] []), origin := none }; let z : StreamSt := (mkStream [{ mkEntry (some (zeros 64)) with dests := [{ accel := 0, seq := 0, sent := 1, answered := 5, waited := false }] }] []); let e : EntrySt := { mkEntry (some (zeros 64)) with dests := [{ accel := 0, seq := 0, sent := 1, answered := 5, waited := false }] }; let x : DestSt := { accel := 0, seq := 0, sent := 1, answered := 5, waited := false };
      decide (sound s.dev = true) && decide (s.dev.hears y = true) && decide (s.dev.keyed y = true) &&
      decide (Tab.find (s.dev.yard y).landReqs ansId = some { owner := .delivery t i a, dst := src, buf := buf }) &&
      decide (s.dev.comms.all (fun e => e.2.landq.isEmpty) = true) &&
      decide ((s.dev.yard y).lands.all (fun b => b.landed.isEmpty) = true) &&
      decide (s.dev.activeStep y t = some (p, st, act)) && decide (act.stream = some z) &&
      decide (z.entries.find? (fun e => e.i == i) = some e) &&
      decide (e.dests.find? (fun x => x.accel == a) = some x) &&
        decide (x.answered + 1 ≠ p.deliverPkts st)) : Bool) = true ∧
    ((let s : State := { dev := (setY (wStream (strPlan 0xFFFF) (mkStream [{ mkEntry (some (zeros 64)) with dests := [{ accel := 0, seq := 0, sent := 1, answered := 0, waited := false }] }] [])) 0 (fun r => { r with lands := [{ mkLand 0x300 7 with out := 1 }], landReqs := [(4, { owner := .delivery 0 0 0, dst := 0x300, buf := 7 })] })), pending := [] }; let y : Nat := 0; let src : Nat := 0x300; let ansId : Nat := 4; let buf : Nat := 7; let t : Nat := 0; let i : Nat := 0; let a : Nat := 0; let p : Plan := (strPlan 0xFFFF); let st : Machine.Step := (strStep 0xFFFF); let act : Active := { step := 0, env := [0, 0, 0, 0], code := none, runs := [], live := false, lap := none, stream := some (mkStream [{ mkEntry (some (zeros 64)) with dests := [{ accel := 0, seq := 0, sent := 1, answered := 0, waited := false }] }] []), origin := none }; let z : StreamSt := (mkStream [{ mkEntry (some (zeros 64)) with dests := [{ accel := 0, seq := 0, sent := 1, answered := 0, waited := false }] }] []); let e : EntrySt := { mkEntry (some (zeros 64)) with dests := [{ accel := 0, seq := 0, sent := 1, answered := 0, waited := false }] }; let x : DestSt := { accel := 0, seq := 0, sent := 1, answered := 0, waited := false }; let b : LandBuf := { mkLand 0x300 7 with out := 1 };
      decide (sound s.dev = true) && decide (s.dev.hears y = true) && decide (s.dev.keyed y = true) &&
      decide (Tab.find (s.dev.yard y).landReqs ansId = some { owner := .delivery t i a, dst := src, buf := buf }) &&
      decide (s.dev.comms.all (fun e => e.2.landq.isEmpty) = true) &&
      decide ((s.dev.yard y).lands.all (fun b => b.landed.isEmpty) = true) &&
      decide (s.dev.activeStep y t = some (p, st, act)) && decide (act.stream = some z) &&
      decide (z.entries.find? (fun e => e.i == i) = some e) &&
      decide (e.dests.find? (fun x => x.accel == a) = some x) && decide (x.answered + 1 = p.deliverPkts st) &&
      decide (s.dev.live y = true) && decide (p.destOf z.table x.accel = (src, buf)) &&
      decide (((s.dev.yard y).land src buf) = some b) && decide (b.ready = x.seq)) : Bool) = true ∧
    ((let s : State := { dev := (wKeyed wYard), pending := [] }; let b : Nat := 3; let src : Nat := 0x300;
      let add : Nat := 7; let y : Nat := 0;
      decide (sound s.dev = true) && decide (s.dev.yardOf b = some y) && decide (s.dev.hears y = true) &&
      decide (s.dev.keyed y = true) &&
      decide ((((s.dev.yard y).replay.getD (b - y) []).all (fun e => e.src != src)) = true) &&
      decide (((s.dev.yard y).replay.getD (b - y) []).length < 2048) && decide (add ≠ 0) &&
        decide (add < 2 ^ 24)) : Bool) = true := by
  refine ⟨?_, ?_, ?_, ?_, ?_, ?_, ?_, ?_, ?_⟩ <;> decide +kernel

/-- The hypotheses of every clause of ConnectionCommands are met, clause by clause. -/
theorem meets_ConnectionCommands :
    ((let s : State := { dev := (wConn id), pending := [] }; let y : Nat := 0; let n : Nat := 8;
      let bs : List Byte := (zeros 16 ++ leBytes 2 16 ++ zeros 110);
      decide (sound s.dev = true) && decide (s.dev.yfOk y = true) && decide ((s.dev.yard y).fatal = false) &&
      decide (s.dev.frozen y = false) && decide (s.dev.canMaster y = true) && decide (le bs 2 1 < 5) &&
      decide (windowOk (le bs 0x10 2) = true) && decide (le bs 0x12 1 < 3) && decide (le bs 0x13 1 < 4) &&
      decide (retryOk bs = true) && decide (zeroAt bs 0x3D 67 = true) &&
      decide (3 ≤ le bs 2 1 → s.dev.conf y = false ∧ bit (le bs 0x13 1) 0 = false) &&
      decide (bit (le bs 0x13 1) 0 = true → (Tab.find s.dev.lists (yk y (le bs 0x14 2))).isSome = true) &&
      decide (n < s.dev.connCount y) &&
      decide ((s.dev.conn y n).st = 0 ∨ ((s.dev.conn y n).st = 1 ∧ s.dev.planConn y n = true)) &&
      decide ((s.dev.yard y).setSnap = none)) : Bool) = true ∧
    ((let s : State := { dev := (wConn id), pending := [] }; let y : Nat := 0;
      decide (sound s.dev = true) && decide (s.dev.yfOk y = true) && decide ((s.dev.yard y).fatal = false) &&
      decide (s.dev.frozen y = false) && decide ((s.dev.yard y).setSnap = none)) : Bool) = true ∧
    ((let s : State := { dev := (put (wConn id) (R.YRD_FRZ_STATUS_STATE 0) 2), pending := [] }; let y : Nat := 0;
      decide (sound s.dev = true) && decide (s.dev.yfOk y = true) && decide ((s.dev.yard y).fatal = false) &&
      decide (s.dev.frozen y = true) && decide ((s.dev.yard y).setSnap = none)) : Bool) = true ∧
    ((let s : State := { dev := (wConn (fun c => { c with st := 1, lastInc := 0 })), pending := [] };
      let y : Nat := 0; let n : Nat := 3; let bs : List Byte := ([0, 2, 0, 1] ++ leBytes 3 9 ++ zeros 121);
      let c : Conn := { mkConn with st := 1, lastInc := 0 };
      decide (sound s.dev = true) && decide (s.dev.yfOk y = true) && decide ((s.dev.yard y).fatal = false) &&
      decide (s.dev.frozen y = false) && decide (s.dev.canMaster y = true) && decide (s.dev.conn y n = c) &&
      decide (zeroAt bs 7 1 = true) && decide (c.roce = true → zeroAt bs 0x0B 1 = true ∧ zeroAt bs 0x0F 1 = true) &&
      decide (peerOk c.path bs = true) && decide (c.path ≠ 0 → le bs 0x39 1 < 64) &&
      decide (zeroAt bs 0x3D 67 = true) &&
      decide (s.dev.fld ((R.TRN_CC_RATE_MIN y c.profile).sub 0 24) ≤ le bs 0x1C 4) &&
      decide (le bs 0x1C 4 ≤ c.rateMax) && decide (le bs 3 1 ≠ c.lastInc) && decide (n < s.dev.connCount y) &&
      decide (c.st = 1) && decide ((s.dev.yard y).setSnap = none)) : Bool) = true ∧
    ((let s : State := { dev := (wConn id), pending := [] }; let y : Nat := 0; let n : Nat := 3;
      let bs : List Byte := (zeros 128); let c : Conn := mkConn;
      decide (sound s.dev = true) && decide (s.dev.yfOk y = true) && decide ((s.dev.yard y).fatal = false) &&
      decide (s.dev.frozen y = false) && decide (s.dev.canMaster y = true) && decide (s.dev.conn y n = c) &&
      decide (retryOk bs = true) && decide (c.path ≠ 0 → le bs 0x39 1 < 64) && decide (zeroAt bs 0x3D 67 = true) &&
      decide (c.st ∈ [1, 2, 3]) && decide ((s.dev.yard y).setSnap = none)) : Bool) = true ∧
    ((let s : State := { dev := (wConn id), pending := [] }; let y : Nat := 0; let n : Nat := 3;
      let bs : List Byte := (zeros 128); let c : Conn := mkConn;
      decide (sound s.dev = true) && decide (s.dev.yfOk y = true) && decide ((s.dev.yard y).fatal = false) &&
      decide (s.dev.frozen y = false) && decide (s.dev.canMaster y = true) && decide (s.dev.conn y n = c) &&
      decide (peerOk c.path bs = true) && decide (zeroAt bs 0x3D 67 = true) && decide (le bs 2 1 = c.path) &&
      decide (c.st = 2 ∨ c.st = 3) && decide ((s.dev.yard y).setSnap = none)) : Bool) = true ∧
    ((let s : State := { dev := (wConn id), pending := [] }; let y : Nat := 0; let n : Nat := 3;
      let c : Conn := mkConn;
      decide (sound s.dev = true) && decide (s.dev.yfOk y = true) && decide ((s.dev.yard y).fatal = false) &&
      decide (s.dev.frozen y = false) && decide (s.dev.conn y n = c) && decide (c.st = 2) &&
      decide ((s.dev.yard y).setSnap = none)) : Bool) = true ∧
    ((let s : State := { dev := (wConn (fun c => { c with st := 3 })), pending := [] }; let y : Nat := 0;
      let n : Nat := 3; let c : Conn := { mkConn with st := 3 };
      decide (sound s.dev = true) && decide (s.dev.yfOk y = true) && decide ((s.dev.yard y).fatal = false) &&
      decide (s.dev.frozen y = false) && decide (s.dev.conn y n = c) && decide (c.st = 1 ∨ c.st = 3) &&
      decide ((s.dev.yard y).setSnap = none)) : Bool) = true ∧
    ((let s : State := { dev := (wConn (fun c => { c with st := 4 })), pending := [] }; let y : Nat := 0;
      let n : Nat := 3; let c : Conn := { mkConn with st := 4 };
      decide (sound s.dev = true) && decide (s.dev.yfOk y = true) && decide ((s.dev.yard y).fatal = false) &&
      decide (s.dev.frozen y = false) && decide (s.dev.conn y n = c) && decide (c.st = 4) &&
      decide ((s.dev.yard y).setSnap = none)) : Bool) = true := by
  refine ⟨?_, ?_, ?_, ?_, ?_, ?_, ?_, ?_, ?_⟩ <;> decide +kernel

/-- The hypotheses of every clause of ConnectionsEnd are met, clause by clause. -/
theorem meets_ConnectionsEnd :
    ((let s : State := { dev := (wConn (fun c => { c with st := 1 })), pending := [] }; let y : Nat := 0;
      let n : Nat := 3; let c : Conn := { mkConn with st := 1 };
      decide (sound s.dev = true) && decide (s.dev.yfOk y = true) && decide ((s.dev.yard y).fatal = false) &&
      decide (s.dev.frozen y = false) && decide (s.dev.conn y n = c) && decide (c.st = 1 ∨ c.st = 4) &&
      decide ((s.dev.yard y).setSnap = none)) : Bool) = true ∧
    ((let s : State := { dev := (wConn (fun c => { c with st := 3 })), pending := [] }; let y : Nat := 0;
      let n : Nat := 3; let c : Conn := { mkConn with st := 3 };
      decide (sound s.dev = true) && decide (s.dev.conn y n = c) && decide (c.st = 3) &&
      decide (c.pkts.any (fun p => p.sent) = false) && decide (c.rsps = []) &&
      decide (c.ops.any (fun o => o.started && o.code.isNone) = false)) : Bool) = true ∧
    ((let s : State := { dev := (wConn (fun c => { c with st := 5 })), pending := [] }; let y : Nat := 0;
      let n : Nat := 3; let c : Conn := { mkConn with st := 5 };
      decide (sound s.dev = true) && decide (s.dev.conn y n = c) && decide (c.st = 5)) : Bool) = true ∧
    ((let s : State := { dev := (wConn id), pending := [] }; let y : Nat := 0; let n : Nat := 3;
      let c : Conn := mkConn;
      decide (sound s.dev = true) && decide (s.dev.yfOk y = true) && decide ((s.dev.yard y).fatal = false) &&
      decide (s.dev.frozen y = false) && decide (s.dev.conn y n = c) && decide (s.dev.canMaster y = true) &&
      decide ((s.dev.yard y).setSnap = none)) : Bool) = true ∧
    ((let s : State := { dev := (put (wConn id) (R.TRN_MATCH_FREE 0) 100), pending := [] }; let y : Nat := 0;
      let l : Nat := 7; let bs : List Byte := (leBytes 4 10 ++ leBytes 4 1 ++ zeros 16 ++ leBytes 8 16448 ++
      zeros 32); let t : Nat := 0; let a : Nat := 0;
      decide (sound s.dev = true) && decide (s.dev.yfOk y = true) && decide ((s.dev.yard y).fatal = false) &&
      decide (s.dev.frozen y = false) && decide (s.dev.canMaster y = true) && decide (le bs 4 4 < 2 ^ 20) &&
      decide (le bs 8 1 < 8) && decide (zeroAt bs 9 7 = true) && decide (zeroAt bs 0x20 32 = true) &&
      decide (le bs 0x10 8 % 64 = 0) && decide (le bs 0x18 8 % 16448 = 0) &&
      decide (s.dev.segAt y (le bs 4 4) (le bs 8 1) (le bs 0x10 8) (le bs 0x18 8) = some (t, a)) && decide (t < 2) &&
      decide (l < 64 * (s.dev.baysOf y).length) && decide (Tab.find s.dev.lists (yk y l) = none) &&
      decide (le bs 0 4 ≤ s.dev.fld ((R.TRN_MATCH_FREE y).sub 0 19)) &&
        decide ((s.dev.yard y).setSnap = none)) : Bool) = true ∧
    ((let s : State := { dev := (wConn id), pending := [] }; let y : Nat := 0; let l : Nat := 1;
      let q : MatchList := mkList;
      decide (sound s.dev = true) && decide (s.dev.yfOk y = true) && decide ((s.dev.yard y).fatal = false) &&
      decide (s.dev.frozen y = false) && decide (Tab.find s.dev.lists (yk y l) = some q) &&
      decide ((ofYard s.dev.conns y).all (fun e => e.2.st == 0 || e.2.st == 5 || !e.2.tagged || e.2.matchList != l) = true) &&
      decide ((s.dev.yard y).setSnap = none)) : Bool) = true := by
  refine ⟨?_, ?_, ?_, ?_, ?_, ?_⟩ <;> decide +kernel

/-- The hypotheses of every clause of MessagesReceived are met, clause by clause. -/
theorem meets_MessagesReceived :
    ((let s : State := { dev := (wConn id), pending := [] }; let y : Nat := 0; let h : WrtHdr := wHdr;
      let c : Conn := mkConn; let msn : Nat := 0; let host : HostSide := { xl := .hit, data := [], bad := false };
      let e : REntry := (mkRecv 0x20);
      decide (sound s.dev = true) && decide (s.dev.conn y h.conn = c) && decide (newRequest s.dev y 1 h = true) &&
      decide (c.msgs = []) && decide (c.doneMsns = []) && decide (c.early = []) && decide (msn = c.rxMsn) &&
      decide (host.xl = .hit) && decide (s.dev.canMaster y = true) && decide ((s.dev.yard y).inval = []) &&
      decide (s.dev.freeRecv y h.conn = some e) && decide (s.dev.mem.uc = [])) : Bool) = true ∧
    ((let s : State := { dev := (wConn id), pending := [] }; let y : Nat := 0; let h : WrtHdr := wHdr;
      let c : Conn := mkConn; let msn : Nat := 0; let off : Nat := 0; let pl : List Byte := [1, 2, 3, 4];
      let e : REntry := (mkRecv 0x20); let p : Nat := 1; let g : Nat := 0; let q : Nat := 0; let t : Nat := 0;
      let a : Nat := 0;
      decide (sound s.dev = true) && decide (s.dev.conn y h.conn = c) && decide (newRequest s.dev y 1 h = true) &&
      decide (c.msgs = []) && decide (c.doneMsns = []) && decide (c.early = []) && decide (msn = c.rxMsn) &&
      decide (s.dev.freeRecv y h.conn = some e) && decide (s.dev.mem.uc = []) &&
      decide ((0 :: s.dev.farPorts).all (fun q => s.dev.on (R.MEM_FAR_PORT_LINK_UP q)) = true) &&
      decide (unbanked s.dev y = true) && decide ((s.dev.ring y h.conn).rq.inSeg = false) &&
      decide ((s.dev.ring y h.conn).rq.live.find? (fun x => x.n == e.n) = some e) &&
      decide (entryLoc (s.dev.ring y h.conn).rq.big true e.bytes = .seg p g q) &&
      decide (off + pl.length ≤ entryLen (s.dev.ring y h.conn).rq.big true e.bytes) &&
      decide (s.dev.segAt y p g (q + off) pl.length = some (t, a))) : Bool) = true ∧
    ((let s : State := { dev := (wConn id), pending := [] }; let y : Nat := 0; let h : WrtHdr := wHdr;
      let c : Conn := mkConn; let msn : Nat := 0; let host : HostSide := { xl := .hit, data := [], bad := false };
      let e : REntry := (mkRecv 0x20);
      decide (sound s.dev = true) && decide (s.dev.conn y h.conn = c) && decide (newRequest s.dev y 2 h = true) &&
      decide (c.msgs = []) && decide (c.doneMsns = []) && decide (c.early = []) && decide (msn = c.rxMsn) &&
      decide (host.xl = .hit) && decide (s.dev.canMaster y = true) && decide ((s.dev.yard y).inval = []) &&
      decide (s.dev.freeRecv y h.conn = some e) && decide (s.dev.mem.uc = [])) : Bool) = true ∧
    ((let s : State := { dev := (wConn (fun c => { c with tagged := true, matchList := 1 })), pending := [] };
      let y : Nat := 0; let h : WrtHdr := wHdr; let c : Conn := { mkConn with tagged := true, matchList := 1 };
      let msn : Nat := 0; let tag : Nat := 77; let l : MatchList := mkList; let k : Nat := 0;
      decide (sound s.dev = true) && decide (s.dev.conn y h.conn = c) && decide (newRequest s.dev y 3 h = true) &&
      decide (c.msgs = []) && decide (c.doneMsns = []) && decide (c.early = []) && decide (msn = c.rxMsn) &&
      decide (c.tagged = true) && decide (Tab.find s.dev.lists (yk y c.matchList) = some l) &&
      decide (l.posted.find? (fun p => p.hits tag h.conn) = none) && decide (l.freeSlot = some k)) : Bool) = true ∧
    ((let s : State := { dev := { wConn (fun c => { c with tagged := true, matchList := 1 }) with lists := [(yk 0 1, { mkList with posted := [mkPost] })] }, pending := [] }; let y : Nat := 0; let h : WrtHdr := wHdr; let c : Conn := { mkConn with tagged := true, matchList := 1 }; let msn : Nat := 0; let tag : Nat := 77; let host : HostSide := { xl := .hit, data := [], bad := false }; let l : MatchList := { mkList with posted := [mkPost] }; let p : Posted := mkPost;
      decide (sound s.dev = true) && decide (s.dev.conn y h.conn = c) && decide (newRequest s.dev y 3 h = true) &&
      decide (c.msgs = []) && decide (c.doneMsns = []) && decide (c.early = []) && decide (msn = c.rxMsn) &&
      decide (host.xl = .hit) && decide (s.dev.canMaster y = true) && decide ((s.dev.yard y).inval = []) &&
      decide (s.dev.mem.uc = []) && decide (c.tagged = true) &&
      decide (Tab.find s.dev.lists (yk y c.matchList) = some l) &&
      decide (l.posted.find? (fun p => p.hits tag h.conn) = some p) &&
      decide (s.dev.cqFull y (s.dev.ring y p.ring).rq = false)) : Bool) = true ∧
    ((let s : State := { dev := { wConn (fun c => { c with tagged := true, matchList := 1 }) with lists := [(yk 0 1, { mkList with posted := [mkPost] })] }, pending := [] }; let y : Nat := 0; let h : WrtHdr := wHdr; let c : Conn := { mkConn with tagged := true, matchList := 1 }; let msn : Nat := 0; let len : Nat := 50000; let tag : Nat := 77; let l : MatchList := { mkList with posted := [mkPost] }; let p : Posted := mkPost;
      decide (sound s.dev = true) && decide (s.dev.conn y h.conn = c) && decide (newRequest s.dev y 4 h = true) &&
      decide (c.msgs = []) && decide (c.doneMsns = []) && decide (c.early = []) && decide (msn = c.rxMsn) &&
      decide (c.tagged = true) && decide (Tab.find s.dev.lists (yk y c.matchList) = some l) &&
      decide (l.posted.find? (fun p => p.hits tag h.conn) = some p) &&
      decide (s.dev.cqFull y (s.dev.ring y p.ring).rq = false) &&
        decide (min len p.len ≤ c.window * c.mtu)) : Bool) = true ∧
    ((let s : State := { dev := (wConn (fun c => { c with tagged := true, matchList := 1 })), pending := [] };
      let y : Nat := 0; let h : WrtHdr := wHdr; let c : Conn := { mkConn with tagged := true, matchList := 1 };
      let msn : Nat := 0; let tag : Nat := 77; let l : MatchList := mkList; let k : Nat := 0;
      decide (sound s.dev = true) && decide (s.dev.conn y h.conn = c) && decide (newRequest s.dev y 4 h = true) &&
      decide (c.msgs = []) && decide (c.doneMsns = []) && decide (c.early = []) && decide (msn = c.rxMsn) &&
      decide (c.tagged = true) && decide (Tab.find s.dev.lists (yk y c.matchList) = some l) &&
      decide (l.posted.find? (fun p => p.hits tag h.conn) = none) && decide (l.freeSlot = some k)) : Bool) = true ∧
    ((let s : State := { dev := (wConn (fun c => { c with ops := [{ mkOp 4 9 (.inline []) with handle := 6 }] })), pending := [] }; let y : Nat := 0; let h : WrtHdr := wHdr; let c : Conn := { mkConn with ops := [{ mkOp 4 9 (.inline []) with handle := 6 }] }; let msn : Nat := 0; let handle : Nat := 6; let o : SendOp := { mkOp 4 9 (.inline []) with handle := 6 };
      decide (sound s.dev = true) && decide (s.dev.conn y h.conn = c) && decide (newRequest s.dev y 15 h = true) &&
      decide (c.msgs = []) && decide (c.doneMsns = []) && decide (c.early = []) && decide (msn = c.rxMsn) &&
      decide (c.ops = [o]) && decide (o.opc = 4) && decide (o.handle = handle) && decide (o.started = true) &&
      decide (o.code = none) && decide (o.done = false) && decide (o.rndv = none)) : Bool) = true := by
  refine ⟨?_, ?_, ?_, ?_, ?_, ?_, ?_, ?_⟩ <;> decide +kernel

/-- The hypotheses of every clause of WindowAccesses are met, clause by clause. -/
theorem meets_WindowAccesses :
    ((let s : State := { dev := (wConn id), pending := [] }; let y : Nat := 0; let h : WrtHdr := wHdr;
      let c : Conn := mkConn; let msn : Nat := 0; let off : Nat := 64; let wkey : Nat := 0x501;
      let pl : List Byte := [1, 2, 3, 4]; let w : Win := mkWin; let t : Nat := 0; let a : Nat := 64;
      decide (sound s.dev = true) && decide (s.dev.conn y h.conn = c) && decide (newRequest s.dev y 5 h = true) &&
      decide (c.msgs = []) && decide (c.doneMsns = []) && decide (c.early = []) && decide (msn = c.rxMsn) &&
      decide (s.dev.win y (wkey / 256) = w) && decide (wkey / 256 < s.dev.winCount y) &&
      decide (w.grants h.conn 1 wkey off pl.length = true) && decide (w.kind = 0) &&
      decide (s.dev.segAt y w.pasid w.seg (w.base + off) pl.length = some (t, a)) && decide (s.dev.mem.uc = []) &&
      decide ((0 :: s.dev.farPorts).all (fun q => s.dev.on (R.MEM_FAR_PORT_LINK_UP q)) = true) &&
      decide (unbanked s.dev y = true)) : Bool) = true ∧
    ((let s : State := { dev := (setWk (wConn id) { mkWin with kind := 1 }), pending := [] }; let y : Nat := 0;
      let h : WrtHdr := wHdr; let c : Conn := mkConn; let msn : Nat := 0; let off : Nat := 64;
      let wkey : Nat := 0x501; let pl : List Byte := [1, 2, 3, 4];
      let host : HostSide := { xl := .hit, data := [], bad := false }; let w : Win := { mkWin with kind := 1 };
      decide (sound s.dev = true) && decide (s.dev.conn y h.conn = c) && decide (newRequest s.dev y 5 h = true) &&
      decide (c.msgs = []) && decide (c.doneMsns = []) && decide (c.early = []) && decide (msn = c.rxMsn) &&
      decide (s.dev.win y (wkey / 256) = w) && decide (wkey / 256 < s.dev.winCount y) &&
      decide (w.grants h.conn 1 wkey off pl.length = true) && decide (w.kind ≠ 0) &&
      decide (s.dev.hostLost y = false) && decide (host.xl = .hit) && decide (s.dev.canMaster y = true) &&
      decide ((s.dev.yard y).inval = [])) : Bool) = true ∧
    ((let s : State := { dev := (wConn id), pending := [] }; let y : Nat := 0; let h : WrtHdr := wHdr;
      let c : Conn := mkConn; let msn : Nat := 0; let off : Nat := 64; let wkey : Nat := 0x501;
      let pl : List Byte := [1, 2, 3, 4]; let w : Win := mkWin; let t : Nat := 0; let a : Nat := 64;
      let e : REntry := (mkRecv 0x20);
      decide (sound s.dev = true) && decide (s.dev.conn y h.conn = c) && decide (newRequest s.dev y 6 h = true) &&
      decide (c.msgs = []) && decide (c.doneMsns = []) && decide (c.early = []) && decide (msn = c.rxMsn) &&
      decide (s.dev.win y (wkey / 256) = w) && decide (wkey / 256 < s.dev.winCount y) &&
      decide (w.grants h.conn 1 wkey off pl.length = true) && decide (w.kind = 0) &&
      decide (s.dev.segAt y w.pasid w.seg (w.base + off) pl.length = some (t, a)) && decide (s.dev.mem.uc = []) &&
      decide ((0 :: s.dev.farPorts).all (fun q => s.dev.on (R.MEM_FAR_PORT_LINK_UP q)) = true) &&
      decide (unbanked s.dev y = true) && decide (s.dev.freeRecv y h.conn = some e)) : Bool) = true ∧
    ((let s : State := { dev := (setWk (wConn id) { mkWin with kind := 1 }), pending := [] }; let y : Nat := 0;
      let h : WrtHdr := wHdr; let c : Conn := mkConn; let msn : Nat := 0; let off : Nat := 64;
      let wkey : Nat := 0x501; let pl : List Byte := [1, 2, 3, 4];
      let host : HostSide := { xl := .hit, data := [], bad := false }; let w : Win := { mkWin with kind := 1 };
      let e : REntry := (mkRecv 0x20);
      decide (sound s.dev = true) && decide (s.dev.conn y h.conn = c) && decide (newRequest s.dev y 6 h = true) &&
      decide (c.msgs = []) && decide (c.doneMsns = []) && decide (c.early = []) && decide (msn = c.rxMsn) &&
      decide (s.dev.win y (wkey / 256) = w) && decide (wkey / 256 < s.dev.winCount y) &&
      decide (w.grants h.conn 1 wkey off pl.length = true) && decide (w.kind ≠ 0) &&
      decide (s.dev.hostLost y = false) && decide (host.xl = .hit) && decide (s.dev.canMaster y = true) &&
      decide ((s.dev.yard y).inval = []) && decide (s.dev.freeRecv y h.conn = some e)) : Bool) = true ∧
    ((let s : State := { dev := (wConn id), pending := [] }; let y : Nat := 0; let h : WrtHdr := wHdr;
      let c : Conn := mkConn; let msn : Nat := 0; let off : Nat := 64; let wkey : Nat := 0x501;
      let pl : List Byte := [0, 0, 0x80, 0x3F]; let w : Win := mkWin; let t : Nat := 0; let a : Nat := 64;
      decide (sound s.dev = true) && decide (s.dev.conn y h.conn = c) && decide (newRequest s.dev y 12 h = true) &&
      decide (c.msgs = []) && decide (c.doneMsns = []) && decide (c.early = []) && decide (msn = c.rxMsn) &&
      decide (s.dev.win y (wkey / 256) = w) && decide (wkey / 256 < s.dev.winCount y) &&
      decide (w.grants h.conn 3 wkey off pl.length = true) && decide (w.kind = 0) &&
      decide (s.dev.segAt y w.pasid w.seg (w.base + off) pl.length = some (t, a)) && decide (s.dev.mem.uc = []) &&
      decide ((0 :: s.dev.farPorts).all (fun q => s.dev.on (R.MEM_FAR_PORT_LINK_UP q)) = true) &&
      decide (unbanked s.dev y = true) && decide (pl.length % 4 = 0) && decide (off % 4 = 0)) : Bool) = true ∧
    ((let s : State := { dev := (setWk (wConn id) { mkWin with kind := 1 }), pending := [] }; let y : Nat := 0;
      let h : WrtHdr := wHdr; let c : Conn := mkConn; let msn : Nat := 0; let off : Nat := 64;
      let wkey : Nat := 0x501; let pl : List Byte := [0, 0, 0x80, 0x3F];
      let host : HostSide := { xl := .hit, data := [1, 0, 0, 0, 0, 0, 0, 0], bad := false };
      let w : Win := { mkWin with kind := 1 };
      decide (sound s.dev = true) && decide (s.dev.conn y h.conn = c) && decide (newRequest s.dev y 12 h = true) &&
      decide (c.msgs = []) && decide (c.doneMsns = []) && decide (c.early = []) && decide (msn = c.rxMsn) &&
      decide (s.dev.win y (wkey / 256) = w) && decide (wkey / 256 < s.dev.winCount y) &&
      decide (w.grants h.conn 3 wkey off pl.length = true) && decide (w.kind ≠ 0) &&
      decide (s.dev.hostLost y = false) && decide (host.xl = .hit) && decide (s.dev.canMaster y = true) &&
      decide ((s.dev.yard y).inval = []) && decide (host.bad = false) && decide (pl.length % 4 = 0) &&
      decide (off % 4 = 0)) : Bool) = true ∧
    ((let s : State := { dev := (wConn id), pending := [] }; let y : Nat := 0; let h : WrtHdr := wHdr;
      let c : Conn := mkConn; let msn : Nat := 0; let off : Nat := 64; let wkey : Nat := 0x501;
      let pl : List Byte := [0x80, 0x3F]; let w : Win := mkWin; let t : Nat := 0; let a : Nat := 64;
      decide (sound s.dev = true) && decide (s.dev.conn y h.conn = c) && decide (newRequest s.dev y 13 h = true) &&
      decide (c.msgs = []) && decide (c.doneMsns = []) && decide (c.early = []) && decide (msn = c.rxMsn) &&
      decide (s.dev.win y (wkey / 256) = w) && decide (wkey / 256 < s.dev.winCount y) &&
      decide (w.grants h.conn 3 wkey off pl.length = true) && decide (w.kind = 0) &&
      decide (s.dev.segAt y w.pasid w.seg (w.base + off) pl.length = some (t, a)) && decide (s.dev.mem.uc = []) &&
      decide ((0 :: s.dev.farPorts).all (fun q => s.dev.on (R.MEM_FAR_PORT_LINK_UP q)) = true) &&
      decide (unbanked s.dev y = true) && decide (pl.length % 2 = 0) && decide (off % 2 = 0)) : Bool) = true ∧
    ((let s : State := { dev := (setWk (wConn id) { mkWin with kind := 1 }), pending := [] }; let y : Nat := 0;
      let h : WrtHdr := wHdr; let c : Conn := mkConn; let msn : Nat := 0; let off : Nat := 64;
      let wkey : Nat := 0x501; let pl : List Byte := [0x80, 0x3F];
      let host : HostSide := { xl := .hit, data := [1, 0, 0, 0, 0, 0, 0, 0], bad := false };
      let w : Win := { mkWin with kind := 1 };
      decide (sound s.dev = true) && decide (s.dev.conn y h.conn = c) && decide (newRequest s.dev y 13 h = true) &&
      decide (c.msgs = []) && decide (c.doneMsns = []) && decide (c.early = []) && decide (msn = c.rxMsn) &&
      decide (s.dev.win y (wkey / 256) = w) && decide (wkey / 256 < s.dev.winCount y) &&
      decide (w.grants h.conn 3 wkey off pl.length = true) && decide (w.kind ≠ 0) &&
      decide (s.dev.hostLost y = false) && decide (host.xl = .hit) && decide (s.dev.canMaster y = true) &&
      decide ((s.dev.yard y).inval = []) && decide (host.bad = false) && decide (pl.length % 2 = 0) &&
      decide (off % 2 = 0)) : Bool) = true ∧
    ((let s : State := { dev := (wConn id), pending := [] }; let y : Nat := 0; let h : WrtHdr := wHdr;
      let c : Conn := mkConn; let msn : Nat := 0; let wkey : Nat := 0x501; let off : Nat := 64; let w : Win := mkWin;
      let t : Nat := 0; let a : Nat := 64;
      decide (sound s.dev = true) && decide (s.dev.conn y h.conn = c) && decide (newRequest s.dev y 9 h = true) &&
      decide (c.msgs = []) && decide (c.doneMsns = []) && decide (c.early = []) && decide (msn = c.rxMsn) &&
      decide (s.dev.win y (wkey / 256) = w) && decide (wkey / 256 < s.dev.winCount y) &&
      decide (w.grants h.conn 2 wkey off 8 = true) && decide (w.kind = 0) &&
      decide (s.dev.segAt y w.pasid w.seg (w.base + off) 8 = some (t, a)) && decide (s.dev.mem.uc = []) &&
      decide ((0 :: s.dev.farPorts).all (fun q => s.dev.on (R.MEM_FAR_PORT_LINK_UP q)) = true) &&
      decide (unbanked s.dev y = true) && decide (off % 8 = 0)) : Bool) = true ∧
    ((let s : State := { dev := (setWk (wConn id) { mkWin with kind := 1 }), pending := [] }; let y : Nat := 0;
      let h : WrtHdr := wHdr; let c : Conn := mkConn; let msn : Nat := 0; let wkey : Nat := 0x501;
      let off : Nat := 64; let host : HostSide := { xl := .hit, data := [1, 0, 0, 0, 0, 0, 0, 0], bad := false };
      let w : Win := { mkWin with kind := 1 };
      decide (sound s.dev = true) && decide (s.dev.conn y h.conn = c) && decide (newRequest s.dev y 9 h = true) &&
      decide (c.msgs = []) && decide (c.doneMsns = []) && decide (c.early = []) && decide (msn = c.rxMsn) &&
      decide (s.dev.win y (wkey / 256) = w) && decide (wkey / 256 < s.dev.winCount y) &&
      decide (w.grants h.conn 2 wkey off 8 = true) && decide (w.kind ≠ 0) && decide (s.dev.hostLost y = false) &&
      decide (host.xl = .hit) && decide (s.dev.canMaster y = true) && decide ((s.dev.yard y).inval = []) &&
      decide (host.bad = false) && decide (off % 8 = 0)) : Bool) = true ∧
    ((let s : State := { dev := (wConn id), pending := [] }; let y : Nat := 0; let h : WrtHdr := wHdr;
      let c : Conn := mkConn; let msn : Nat := 0; let wkey : Nat := 0x501; let off : Nat := 64; let w : Win := mkWin;
      let t : Nat := 0; let a : Nat := 64;
      decide (sound s.dev = true) && decide (s.dev.conn y h.conn = c) && decide (newRequest s.dev y 10 h = true) &&
      decide (c.msgs = []) && decide (c.doneMsns = []) && decide (c.early = []) && decide (msn = c.rxMsn) &&
      decide (s.dev.win y (wkey / 256) = w) && decide (wkey / 256 < s.dev.winCount y) &&
      decide (w.grants h.conn 2 wkey off 8 = true) && decide (w.kind = 0) &&
      decide (s.dev.segAt y w.pasid w.seg (w.base + off) 8 = some (t, a)) && decide (s.dev.mem.uc = []) &&
      decide ((0 :: s.dev.farPorts).all (fun q => s.dev.on (R.MEM_FAR_PORT_LINK_UP q)) = true) &&
      decide (unbanked s.dev y = true) && decide (off % 8 = 0)) : Bool) = true ∧
    ((let s : State := { dev := (setWk (wConn id) { mkWin with kind := 1 }), pending := [] }; let y : Nat := 0;
      let h : WrtHdr := wHdr; let c : Conn := mkConn; let msn : Nat := 0; let wkey : Nat := 0x501;
      let off : Nat := 64; let host : HostSide := { xl := .hit, data := [1, 0, 0, 0, 0, 0, 0, 0], bad := false };
      let w : Win := { mkWin with kind := 1 };
      decide (sound s.dev = true) && decide (s.dev.conn y h.conn = c) && decide (newRequest s.dev y 10 h = true) &&
      decide (c.msgs = []) && decide (c.doneMsns = []) && decide (c.early = []) && decide (msn = c.rxMsn) &&
      decide (s.dev.win y (wkey / 256) = w) && decide (wkey / 256 < s.dev.winCount y) &&
      decide (w.grants h.conn 2 wkey off 8 = true) && decide (w.kind ≠ 0) && decide (s.dev.hostLost y = false) &&
      decide (host.xl = .hit) && decide (s.dev.canMaster y = true) && decide ((s.dev.yard y).inval = []) &&
      decide (host.bad = false) && decide (off % 8 = 0)) : Bool) = true ∧
    ((let s : State := { dev := (wConn id), pending := [] }; let y : Nat := 0; let h : WrtHdr := wHdr;
      let c : Conn := mkConn; let msn : Nat := 0; let len : Nat := 2500; let off : Nat := 64;
      let wkey : Nat := 0x501; let w : Win := mkWin; let t : Nat := 0; let a : Nat := 64;
      decide (sound s.dev = true) && decide (s.dev.conn y h.conn = c) && decide (newRequest s.dev y 7 h = true) &&
      decide (c.msgs = []) && decide (c.doneMsns = []) && decide (c.early = []) && decide (msn = c.rxMsn) &&
      decide (wkey ≠ 0xFFFFFFFF) &&
      decide (c.roce = false ∨ ((c.rsps.filter (fun r => r.opc == 8)).map (fun r => r.msn)).eraseDups.length < 16) &&
      decide (s.dev.win y (wkey / 256) = w) && decide (wkey / 256 < s.dev.winCount y) &&
      decide (w.grants h.conn 0 wkey off len = true) && decide (w.kind = 0) &&
      decide (s.dev.segAt y w.pasid w.seg (w.base + off) len = some (t, a)) && decide (s.dev.mem.uc = []) &&
      decide ((0 :: s.dev.farPorts).all (fun q => s.dev.on (R.MEM_FAR_PORT_LINK_UP q)) = true) &&
      decide (unbanked s.dev y = true)) : Bool) = true ∧
    ((let s : State := { dev := (setWk (wConn id) { mkWin with kind := 1 }), pending := [] }; let y : Nat := 0;
      let h : WrtHdr := wHdr; let c : Conn := mkConn; let msn : Nat := 0; let len : Nat := 2500; let off : Nat := 64;
      let wkey : Nat := 0x501; let host : HostSide := { xl := .hit, data := [], bad := false };
      let w : Win := { mkWin with kind := 1 };
      decide (sound s.dev = true) && decide (s.dev.conn y h.conn = c) && decide (newRequest s.dev y 7 h = true) &&
      decide (c.msgs = []) && decide (c.doneMsns = []) && decide (c.early = []) && decide (msn = c.rxMsn) &&
      decide (wkey ≠ 0xFFFFFFFF) &&
      decide (c.roce = false ∨ ((c.rsps.filter (fun r => r.opc == 8)).map (fun r => r.msn)).eraseDups.length < 16) &&
      decide (s.dev.win y (wkey / 256) = w) && decide (wkey / 256 < s.dev.winCount y) &&
      decide (w.grants h.conn 0 wkey off len = true) && decide (w.kind ≠ 0) && decide (s.dev.hostLost y = false) &&
      decide (host.xl = .hit) && decide (s.dev.canMaster y = true) &&
        decide ((s.dev.yard y).inval = [])) : Bool) = true ∧
    ((let s : State := { dev := (wConn (fun c => { c with ops := [{ mkOp 4 2000 (.seg 1 0 64) with handle := 6, operand := 2000 }] })), pending := [] }; let y : Nat := 0; let h : WrtHdr := wHdr; let c : Conn := { mkConn with ops := [{ mkOp 4 2000 (.seg 1 0 64) with handle := 6, operand := 2000 }] }; let msn : Nat := 0; let handle : Nat := 6; let len : Nat := 1500; let off : Nat := 0; let o : SendOp := { mkOp 4 2000 (.seg 1 0 64) with handle := 6, operand := 2000 }; let p : Nat := 1; let g : Nat := 0; let q : Nat := 64; let t : Nat := 0; let a : Nat := 64;
      decide (sound s.dev = true) && decide (s.dev.conn y h.conn = c) && decide (newRequest s.dev y 7 h = true) &&
      decide (c.msgs = []) && decide (c.doneMsns = []) && decide (c.early = []) && decide (msn = c.rxMsn) &&
      decide (c.roce = false ∨ ((c.rsps.filter (fun r => r.opc == 8)).map (fun r => r.msn)).eraseDups.length < 16) &&
      decide (c.ops.find? (fun o => o.opc == 4 && o.handle == handle && o.started && o.code.isNone) = some o) &&
      decide (off + len ≤ o.operand) && decide (o.loc = .seg p g q) &&
      decide (s.dev.segAt y p g (q + off) len = some (t, a))) : Bool) = true ∧
    ((let s : State := { dev := (wConn id), pending := [] }; let y : Nat := 0; let h : WrtHdr := wHdr;
      let c : Conn := mkConn; let msn : Nat := 0; let off : Nat := 64; let wkey : Nat := 0x501; let w : Win := mkWin;
      let t : Nat := 0; let a : Nat := 64;
      decide (sound s.dev = true) && decide (s.dev.conn y h.conn = c) && decide (newRequest s.dev y 14 h = true) &&
      decide (c.msgs = []) && decide (c.doneMsns = []) && decide (c.early = []) && decide (msn = c.rxMsn) &&
      decide (s.dev.win y (wkey / 256) = w) && decide (wkey / 256 < s.dev.winCount y) &&
      decide (w.grants h.conn 0 wkey off 0 = true) && decide (w.kind = 0) &&
      decide (s.dev.segAt y w.pasid w.seg (w.base + off) 0 = some (t, a)) && decide (s.dev.mem.uc = []) &&
      decide ((0 :: s.dev.farPorts).all (fun q => s.dev.on (R.MEM_FAR_PORT_LINK_UP q)) = true) &&
      decide (unbanked s.dev y = true)) : Bool) = true ∧
    ((let s : State := { dev := (setWk (wConn id) { mkWin with kind := 1 }), pending := [] }; let y : Nat := 0;
      let h : WrtHdr := wHdr; let c : Conn := mkConn; let msn : Nat := 0; let off : Nat := 64;
      let wkey : Nat := 0x501; let host : HostSide := { xl := .hit, data := [], bad := false };
      let w : Win := { mkWin with kind := 1 };
      decide (sound s.dev = true) && decide (s.dev.conn y h.conn = c) && decide (newRequest s.dev y 14 h = true) &&
      decide (c.msgs = []) && decide (c.doneMsns = []) && decide (c.early = []) && decide (msn = c.rxMsn) &&
      decide (s.dev.win y (wkey / 256) = w) && decide (wkey / 256 < s.dev.winCount y) &&
      decide (w.grants h.conn 0 wkey off 0 = true) && decide (w.kind ≠ 0) && decide (s.dev.hostLost y = false) &&
      decide (host.xl = .hit) && decide (s.dev.canMaster y = true) &&
        decide ((s.dev.yard y).inval = [])) : Bool) = true := by
  refine ⟨?_, ?_, ?_, ?_, ?_, ?_, ?_, ?_, ?_, ?_, ?_, ?_, ?_, ?_, ?_, ?_, ?_⟩ <;> decide +kernel

/-- The hypotheses of every clause of AnswersReceived are met, clause by clause. -/
theorem meets_AnswersReceived :
    ((let s : State := { dev := (wConn (fun c => { c with ops := [{ mkOp 7 2048 (.seg 1 0 128) with npsn := 2 }], retries := 2 })), pending := [] }; let y : Nat := 0; let h : WrtHdr := wHdr; let c : Conn := { mkConn with ops := [{ mkOp 7 2048 (.seg 1 0 128) with npsn := 2 }], retries := 2 }; let msn : Nat := 0; let pl : List Byte := [1, 2, 3, 4]; let o : SendOp := { mkOp 7 2048 (.seg 1 0 128) with npsn := 2 }; let p : Nat := 1; let g : Nat := 0; let q : Nat := 128; let t : Nat := 0; let a : Nat := 128;
      decide (sound s.dev = true) && decide (s.dev.conn y h.conn = c) && decide (fromPeer s.dev y h = true) &&
      decide (s.dev.planConn y h.conn = false) && decide (c.ops = [o]) && decide (o.opc = 7) &&
      decide (o.started = true) && decide (o.done = false) && decide (o.code = none) && decide (o.msn = msn) &&
      decide (c.gap o.psn h.psn < o.npsn) && decide (o.got.contains (c.gap o.psn h.psn) = false) &&
      decide (o.got.length + 1 ≠ o.npsn) && decide (o.loc = .seg p g q) &&
      decide (s.dev.segAt y p g (q + c.gap o.psn h.psn * c.mtu) pl.length = some (t, a)) && decide (c.msgs = []) &&
      decide (s.dev.mem.uc = []) &&
      decide ((0 :: s.dev.farPorts).all (fun q => s.dev.on (R.MEM_FAR_PORT_LINK_UP q)) = true) &&
      decide (unbanked s.dev y = true)) : Bool) = true ∧
    ((let s : State := { dev := (wConn (fun c => { c with ops := [{ { mkOp 7 2048 (.seg 1 0 128) with npsn := 2 } with got := [0] }], retries := 2 })), pending := [] }; let y : Nat := 0; let h : WrtHdr := wHdr; let c : Conn := { mkConn with ops := [{ { mkOp 7 2048 (.seg 1 0 128) with npsn := 2 } with got := [0] }], retries := 2 }; let msn : Nat := 0; let o : SendOp := { { mkOp 7 2048 (.seg 1 0 128) with npsn := 2 } with got := [0] };
      decide (sound s.dev = true) && decide (s.dev.conn y h.conn = c) && decide (fromPeer s.dev y h = true) &&
      decide (s.dev.planConn y h.conn = false) && decide (c.ops = [o]) && decide (o.opc = 7 ∨ o.opc = 0x0E) &&
      decide (o.started = true) && decide (o.code = none) && decide (o.msn = msn) &&
      decide (c.gap o.psn h.psn < o.npsn) && decide (o.got.contains (c.gap o.psn h.psn) = true)) : Bool) = true ∧
    ((let s : State := { dev := (wConn (fun c => { c with ops := [{ { mkOp 7 2048 (.seg 1 0 128) with npsn := 2 } with got := [1] }], retries := 2 })), pending := [] }; let y : Nat := 0; let h : WrtHdr := wHdr; let c : Conn := { mkConn with ops := [{ { mkOp 7 2048 (.seg 1 0 128) with npsn := 2 } with got := [1] }], retries := 2 }; let msn : Nat := 0; let pl : List Byte := [1, 2, 3, 4]; let o : SendOp := { { mkOp 7 2048 (.seg 1 0 128) with npsn := 2 } with got := [1] }; let p : Nat := 1; let g : Nat := 0; let q : Nat := 128; let t : Nat := 0; let a : Nat := 128;
      decide (sound s.dev = true) && decide (s.dev.conn y h.conn = c) && decide (fromPeer s.dev y h = true) &&
      decide (s.dev.planConn y h.conn = false) && decide (c.ops = [o]) && decide (o.opc = 7 ∨ o.opc = 0x0E) &&
      decide (o.started = true) && decide (o.done = false) && decide (o.code = none) && decide (o.msn = msn) &&
      decide (o.rndv = none) && decide (o.entry = none) && decide (c.gap o.psn h.psn < o.npsn) &&
      decide (o.got.contains (c.gap o.psn h.psn) = false) && decide (o.got.length + 1 = o.npsn) &&
      decide (o.loc = .seg p g q) &&
      decide (s.dev.segAt y p g (q + c.gap o.psn h.psn * c.mtu) pl.length = some (t, a)) && decide (c.msgs = []) &&
      decide (s.dev.mem.uc = []) &&
      decide ((0 :: s.dev.farPorts).all (fun q => s.dev.on (R.MEM_FAR_PORT_LINK_UP q)) = true) &&
      decide (unbanked s.dev y = true)) : Bool) = true ∧
    ((let s : State := { dev := (wConn (fun c => { c with ops := [{ mkOp 9 8 (.seg 1 0 128) with npsn := 1 }], retries := 2 })), pending := [] }; let y : Nat := 0; let h : WrtHdr := wHdr; let c : Conn := { mkConn with ops := [{ mkOp 9 8 (.seg 1 0 128) with npsn := 1 }], retries := 2 }; let msn : Nat := 0; let o : SendOp := { mkOp 9 8 (.seg 1 0 128) with npsn := 1 }; let p : Nat := 1; let g : Nat := 0; let q : Nat := 128; let t : Nat := 0; let a : Nat := 128;
      decide (sound s.dev = true) && decide (s.dev.conn y h.conn = c) && decide (fromPeer s.dev y h = true) &&
      decide (s.dev.planConn y h.conn = false) && decide (c.ops = [o]) && decide (o.opc = 9 ∨ o.opc = 0x0A) &&
      decide (o.started = true) && decide (o.done = false) && decide (o.code = none) && decide (o.msn = msn) &&
      decide (o.rndv = none) && decide (o.loc = .seg p g q) && decide (s.dev.segAt y p g q 8 = some (t, a)) &&
      decide (s.dev.mem.uc = []) &&
      decide ((0 :: s.dev.farPorts).all (fun q => s.dev.on (R.MEM_FAR_PORT_LINK_UP q)) = true) &&
      decide (unbanked s.dev y = true)) : Bool) = true ∧
    ((let s : State := { dev := (wConn (fun c => { c with nextPsn := 2, pkts := [mkTx 0, mkTx 1] })), pending := [] }; let y : Nat := 0; let h : WrtHdr := wHdr; let c : Conn := { mkConn with nextPsn := 2, pkts := [mkTx 0, mkTx 1] };
      decide (sound s.dev = true) && decide (s.dev.conn y h.conn = c) && decide (fromPeer s.dev y h = true) &&
      decide (c.gap c.una (c.psnAdd h.psn 1) ≤ c.gap c.una c.nextPsn)) : Bool) = true ∧
    ((let s : State := { dev := (wConn (fun c => { c with retry := 0x70, nextPsn := 2, pkts := [mkTx 0, mkTx 1] })), pending := [] }; let y : Nat := 0; let h : WrtHdr := wHdr; let c : Conn := { mkConn with retry := 0x70, nextPsn := 2, pkts := [mkTx 0, mkTx 1] }; let e : AckExt := { syndrome := 1, rnrTime := 0, ecnCount := 0, nakPsn := 1, tsEcho := 0, rxDelay := 0, sack := [] };
      decide (sound s.dev = true) && decide (s.dev.conn y h.conn = c) && decide (fromPeer s.dev y h = true) &&
      decide (if c.roce then e.syndrome / 0x20 = 1 else e.syndrome = 1) &&
      decide (bits c.retry 4 3 = 7 ∨ c.rnrRetries < bits c.retry 4 3)) : Bool) = true ∧
    ((let s : State := { dev := (wConn (fun c => { c with retry := 0x20, rnrRetries := 2, rnrPsn := 1, nextPsn := 2, pkts := [mkTx 0, mkTx 1] })), pending := [] }; let y : Nat := 0; let h : WrtHdr := wHdr; let c : Conn := { mkConn with retry := 0x20, rnrRetries := 2, rnrPsn := 1, nextPsn := 2, pkts := [mkTx 0, mkTx 1] }; let e : AckExt := { syndrome := 1, rnrTime := 0, ecnCount := 0, nakPsn := 1, tsEcho := 0, rxDelay := 0, sack := [] };
      decide (sound s.dev = true) && decide (s.dev.conn y h.conn = c) && decide (fromPeer s.dev y h = true) &&
      decide (if c.roce then e.syndrome / 0x20 = 1 else e.syndrome = 1) && decide (bits c.retry 4 3 ≠ 7) &&
      decide (bits c.retry 4 3 ≤ c.rnrRetries) && decide (c.rnrRetries ≠ 0) &&
      decide (c.rnrPsn = (if c.roce = true then h.psn else e.nakPsn))) : Bool) = true ∧
    ((let s : State := { dev := (wConn (fun c => { c with path := 3, nextPsn := 2, pkts := [mkTx 0, mkTx 1] })), pending := [] }; let y : Nat := 0; let h : WrtHdr := wHdr; let c : Conn := { mkConn with path := 3, nextPsn := 2, pkts := [mkTx 0, mkTx 1] }; let e : AckExt := { syndrome := 0x60, rnrTime := 0, ecnCount := 0, nakPsn := 1, tsEcho := 0, rxDelay := 0, sack := [] };
      decide (sound s.dev = true) && decide (s.dev.conn y h.conn = c) && decide (fromPeer s.dev y h = true) &&
      decide (c.roce = true) && decide (e.syndrome = 0x60)) : Bool) = true ∧
    ((let s : State := { dev := (wConn (fun c => { c with path := 3, nextPsn := 2, pkts := [mkTx 0, mkTx 1] })), pending := [] }; let y : Nat := 0; let h : WrtHdr := wHdr; let c : Conn := { mkConn with path := 3, nextPsn := 2, pkts := [mkTx 0, mkTx 1] }; let e : AckExt := { syndrome := 0x62, rnrTime := 0, ecnCount := 0, nakPsn := 1, tsEcho := 0, rxDelay := 0, sack := [] };
      decide (sound s.dev = true) && decide (s.dev.conn y h.conn = c) && decide (fromPeer s.dev y h = true) &&
      decide (c.roce = true) && decide (e.syndrome / 0x20 ≠ 1) && decide (e.syndrome ≠ 0x60)) : Bool) = true ∧
    ((let s : State := { dev := (wConn (fun c => { c with nextPsn := 2, pkts := [mkTx 0, mkTx 1] })), pending := [] }; let y : Nat := 0; let h : WrtHdr := wHdr; let c : Conn := { mkConn with nextPsn := 2, pkts := [mkTx 0, mkTx 1] }; let e : AckExt := { syndrome := 0x10, rnrTime := 0, ecnCount := 0, nakPsn := 1, tsEcho := 0, rxDelay := 0, sack := [] };
      decide (sound s.dev = true) && decide (s.dev.conn y h.conn = c) && decide (fromPeer s.dev y h = true) &&
      decide (c.roce = false) && decide (e.syndrome ≠ 1)) : Bool) = true := by
  refine ⟨?_, ?_, ?_, ?_, ?_, ?_, ?_, ?_, ?_, ?_⟩ <;> decide +kernel

/-- The hypotheses of every clause of TimersAndTransmission are met, clause by clause. -/
theorem meets_TimersAndTransmission :
    ((let s : State := { dev := (wConn (fun c => { c with retry := 3, rto := 5, nextPsn := 1, pkts := [mkTx 0] })), pending := [] }; let y : Nat := 0; let n : Nat := 3; let c : Conn := { mkConn with retry := 3, rto := 5, nextPsn := 1, pkts := [mkTx 0] };
      decide (sound s.dev = true) && decide (s.dev.conn y n = c) && decide (s.dev.live y = true) &&
      decide (c.st = 2 ∨ c.st = 3) &&
      decide (c.pkts.any (fun p => p.sent) = true ∨ c.ops.any (fun o => o.started && o.answered &&
        o.code.isNone) = true) &&
      decide (bits c.retry 0 4 = 0 ∨ c.retries < bits c.retry 0 4)) : Bool) = true ∧
    ((let s : State := { dev := (wConn (fun c => { c with retry := 3, retries := 3, nextPsn := 1, pkts := [mkTx 0] })), pending := [] }; let y : Nat := 0; let n : Nat := 3; let c : Conn := { mkConn with retry := 3, retries := 3, nextPsn := 1, pkts := [mkTx 0] };
      decide (sound s.dev = true) && decide (s.dev.conn y n = c) && decide (s.dev.live y = true) &&
      decide (c.st = 2 ∨ c.st = 3) &&
      decide (c.pkts.any (fun p => p.sent) = true ∨ c.ops.any (fun o => o.started && o.answered &&
        o.code.isNone) = true) &&
      decide (bits c.retry 0 4 ≠ 0) && decide (bits c.retry 0 4 ≤ c.retries) && decide (n < 2 ^ 24)) : Bool) = true ∧
    ((let s : State := { dev := (wConn (fun c => { c with timerOn := true, ackDue := 2 })), pending := [] };
      let y : Nat := 0; let n : Nat := 3; let c : Conn := { mkConn with timerOn := true, ackDue := 2 };
      decide (sound s.dev = true) && decide (s.dev.conn y n = c) && decide (s.dev.live y = true) &&
      decide (c.st = 2 ∨ c.st = 3) && decide (c.timerOn = true)) : Bool) = true ∧
    ((let s : State := { dev := (wConn (fun c => { c with ccOn := true, rateMax := 100 })), pending := [] };
      let y : Nat := 0; let n : Nat := 3; let c : Conn := { mkConn with ccOn := true, rateMax := 100 };
      decide (sound s.dev = true) && decide (s.dev.conn y n = c) && decide (c.st = 2 ∨ c.st = 3) &&
      decide (c.ccOn = true)) : Bool) = true ∧
    ((let s : State := { dev := (wConn (fun c => { c with rnrWait := true, pkts := [mkTx 0] })), pending := [] };
      let y : Nat := 0; let n : Nat := 3; let c : Conn := { mkConn with rnrWait := true, pkts := [mkTx 0] };
      decide (sound s.dev = true) && decide (s.dev.conn y n = c) && decide (c.rnrWait = true)) : Bool) = true ∧
    ((let s : State := { dev := (wConn (fun c => { c with rsps := [mkRsp] })), pending := [] }; let y : Nat := 0;
      let n : Nat := 3; let c : Conn := { mkConn with rsps := [mkRsp] }; let r : RspPkt := mkRsp;
      let bs : List Byte := [];
      decide (sound s.dev = true) && decide (s.dev.conn y n = c) && decide (s.dev.live y = true) &&
      decide (c.st = 2 ∨ c.st = 3) &&
      decide (c.rsps.find? (fun q => !q.flush || (decide (1 ≤ c.gap q.psn c.epsn) &&
        decide (c.gap q.psn c.epsn ≤ c.psnMod / 2))) = some r) &&
      decide (c.roce = true ∨ s.dev.keyed y = true) && decide (s.dev.mem.uc = []) &&
      decide ((0 :: s.dev.farPorts).all (fun q => s.dev.on (R.MEM_FAR_PORT_LINK_UP q)) = true) &&
      decide (r.src = .bytes bs)) : Bool) = true ∧
    ((let s : State := { dev := (wConn (fun c => { c with rsps := [{ mkRsp with opc := 8, src := .mem 0 64, len := 100 }] })), pending := [] }; let y : Nat := 0; let n : Nat := 3; let c : Conn := { mkConn with rsps := [{ mkRsp with opc := 8, src := .mem 0 64, len := 100 }] }; let r : RspPkt := { mkRsp with opc := 8, src := .mem 0 64, len := 100 }; let t : Nat := 0; let a : Nat := 64;
      decide (sound s.dev = true) && decide (s.dev.conn y n = c) && decide (s.dev.live y = true) &&
      decide (c.st = 2 ∨ c.st = 3) &&
      decide (c.rsps.find? (fun q => !q.flush || (decide (1 ≤ c.gap q.psn c.epsn) &&
        decide (c.gap q.psn c.epsn ≤ c.psnMod / 2))) = some r) &&
      decide (c.roce = true ∨ s.dev.keyed y = true) && decide (s.dev.mem.uc = []) &&
      decide ((0 :: s.dev.farPorts).all (fun q => s.dev.on (R.MEM_FAR_PORT_LINK_UP q)) = true) &&
      decide (r.src = .mem t a)) : Bool) = true ∧
    ((let s : State := { dev := (wConn (fun c => { c with rsps := [{ mkRsp with opc := 8, src := .host 1 64, len := 100 }] })), pending := [] }; let y : Nat := 0; let n : Nat := 3; let c : Conn := { mkConn with rsps := [{ mkRsp with opc := 8, src := .host 1 64, len := 100 }] }; let host : HostSide := { xl := .hit, data := [1, 0, 0, 0, 0, 0, 0, 0], bad := false }; let r : RspPkt := { mkRsp with opc := 8, src := .host 1 64, len := 100 }; let p : Nat := 1; let va : Nat := 64;
      decide (sound s.dev = true) && decide (s.dev.conn y n = c) && decide (s.dev.live y = true) &&
      decide (c.st = 2 ∨ c.st = 3) &&
      decide (c.rsps.find? (fun q => !q.flush || (decide (1 ≤ c.gap q.psn c.epsn) &&
        decide (c.gap q.psn c.epsn ≤ c.psnMod / 2))) = some r) &&
      decide (c.roce = true ∨ s.dev.keyed y = true) && decide (s.dev.mem.uc = []) &&
      decide ((0 :: s.dev.farPorts).all (fun q => s.dev.on (R.MEM_FAR_PORT_LINK_UP q)) = true) &&
      decide (r.src = .host p va) && decide (r.len ≠ 0) && decide (host.bad = false) && decide (host.xl = .hit) &&
      decide (s.dev.canMaster y = true) && decide ((s.dev.yard y).inval = [])) : Bool) = true ∧
    ((let s : State := { dev := (wConn (fun c => { c with pkts := [{ mkTx 0 with msn := 0x19, due := true, body := [1, 2], payload := [3] }] })), pending := [] }; let y : Nat := 0; let n : Nat := 3; let c : Conn := { mkConn with pkts := [{ mkTx 0 with msn := 0x19, due := true, body := [1, 2], payload := [3] }] }; let p : TxPkt := { mkTx 0 with msn := 0x19, due := true, body := [1, 2], payload := [3] };
      decide (sound s.dev = true) && decide (s.dev.conn y n = c) && decide (s.dev.live y = true) &&
      decide (c.st = 2 ∨ c.st = 3) && decide (c.rsps = []) &&
      decide (c.pkts.find? (fun q => q.due && !q.marked) = some p) && decide (p.body ≠ []) &&
      decide (c.roce = true ∨ s.dev.keyed y = true)) : Bool) = true ∧
    ((let s : State := { dev := (wConn (fun c => { c with pkts := [{ mkTx 0 with msn := 0x18, sent := false, body := [1, 2], payload := [3] }] })), pending := [] }; let y : Nat := 0; let n : Nat := 3; let c : Conn := { mkConn with pkts := [{ mkTx 0 with msn := 0x18, sent := false, body := [1, 2], payload := [3] }] }; let p : TxPkt := { mkTx 0 with msn := 0x18, sent := false, body := [1, 2], payload := [3] };
      decide (sound s.dev = true) && decide (s.dev.conn y n = c) && decide (s.dev.live y = true) &&
      decide (c.st = 2) && decide (c.rnrWait = false) && decide (c.rsps = []) &&
      decide (c.pkts.find? (fun q => q.due && !q.marked) = none) &&
      decide (c.pkts.find? (fun q => !q.sent) = some p) && decide (c.gap c.una p.psn < c.window) &&
      decide (c.roce = true ∨ s.dev.keyed y = true)) : Bool) = true ∧
    ((let s : State := { dev := (wConn (fun c => { c with ops := [{ SendOp.mk' 1 2000 (.inline (zeros 2000)) 0 0 0 none with opc := 1 }] })), pending := [] }; let y : Nat := 0; let n : Nat := 3; let c : Conn := { mkConn with ops := [{ SendOp.mk' 1 2000 (.inline (zeros 2000)) 0 0 0 none with opc := 1 }] }; let o : SendOp := { SendOp.mk' 1 2000 (.inline (zeros 2000)) 0 0 0 none with opc := 1 }; let bs : List Byte := (zeros 2000);
      decide (sound s.dev = true) && decide (s.dev.conn y n = c) && decide (s.dev.live y = true) &&
      decide (c.st = 2) && decide (c.rnrWait = false) && decide (c.rsps = []) && decide (c.pkts = []) &&
      decide (c.ops = [o]) && decide (o.started = false) && decide (o.code = none) &&
      decide (s.dev.cqFull y (s.dev.ring y n).sq = false) && decide (c.roce = true ∨ s.dev.keyed y = true) &&
      decide (o.answered = false) && decide (o.loc = .inline bs) &&
        decide (c.gap c.una c.nextPsn < c.window)) : Bool) = true ∧
    ((let s : State := { dev := (wConn (fun c => { c with ops := [{ SendOp.mk' 7 2000 (.seg 1 0 64) 0 0x501 0 none with opc := 7 }] })), pending := [] }; let y : Nat := 0; let n : Nat := 3; let c : Conn := { mkConn with ops := [{ SendOp.mk' 7 2000 (.seg 1 0 64) 0 0x501 0 none with opc := 7 }] }; let o : SendOp := { SendOp.mk' 7 2000 (.seg 1 0 64) 0 0x501 0 none with opc := 7 }; let p : Nat := 1; let g : Nat := 0; let q : Nat := 64; let ta : Nat × Nat := (0, 64);
      decide (sound s.dev = true) && decide (s.dev.conn y n = c) && decide (s.dev.live y = true) &&
      decide (c.st = 2) && decide (c.rnrWait = false) && decide (c.rsps = []) && decide (c.pkts = []) &&
      decide (c.ops = [o]) && decide (o.started = false) && decide (o.code = none) &&
      decide (s.dev.cqFull y (s.dev.ring y n).sq = false) && decide (c.roce = true ∨ s.dev.keyed y = true) &&
      decide (o.opc = 7) && decide (o.wkey ≠ 0xFFFFFFFF) && decide (o.got = []) && decide (o.loc = .seg p g q) &&
      decide (s.dev.segAt y p g q 0 = some ta) && decide (s.dev.mem.uc = []) &&
      decide (c.gap c.una c.nextPsn + c.packets o.len ≤ c.window)) : Bool) = true := by
  refine ⟨?_, ?_, ?_, ?_, ?_, ?_, ?_, ?_, ?_, ?_, ?_, ?_⟩ <;> decide +kernel

/-- The hypotheses of every clause of RingCommands are met, clause by clause. -/
theorem meets_RingCommands :
    ((let s : State := { dev := (wConn (fun c => { c with st := 1 })), pending := [] }; let y : Nat := 0;
      let n : Nat := 3; let bs : List Byte := mkBind;
      decide (sound s.dev = true) && decide (s.dev.yfOk y = true) && decide ((s.dev.yard y).fatal = false) &&
      decide (s.dev.frozen y = false) && decide (s.dev.canMaster y = true) && decide (le bs 0 8 % 4096 = 0) &&
      decide (le bs 8 8 % 4096 = 0) && decide (4 ≤ le bs 0x10 1) && decide (le bs 0x10 1 ≤ 16) &&
      decide (4 ≤ le bs 0x11 1) && decide (le bs 0x11 1 ≤ 16) && decide (le bs 0x12 1 < 4) &&
      decide (le bs 0x13 1 < 4) && decide (le bs 0x14 4 < 2 ^ 20) && decide (0 < le bs 0x1A 2) &&
      decide (le bs 0x1A 2 ≤ min 1024 (2 ^ min (le bs 0x10 1) (le bs 0x11 1) - 1)) &&
      decide (le bs 0x1C 2 < 2048 ∨ le bs 0x1C 2 = 0xFFFF) && decide (le bs 0x1E 1 < 4) &&
      decide (le bs 0x1F 1 < 2) && decide (zeroAt bs 0x20 32 = true) &&
      decide (s.dev.ringPlaceOk y (le bs 0x14 4) (le bs 0x18 1) (le bs 0 8) (2 ^ le bs 0x10 1 * (if bit (le bs 0x12 1) 0 then 256 else 64)) (bit (le bs 0x13 1) 0) = true) &&
      decide (s.dev.ringPlaceOk y (le bs 0x14 4) (le bs 0x19 1) (le bs 8 8) (2 ^ le bs 0x11 1 * (if bit (le bs 0x12 1) 1 then 256 else 64)) (bit (le bs 0x13 1) 1) = true) &&
      decide (n < s.dev.connCount y) && decide ((s.dev.conn y n).st = 1) && decide (s.dev.planConn y n = false) &&
      decide (bit (s.dev.fld (R.YRD_MODE y)) 0 = false)) : Bool) = true ∧
    ((let s : State := { dev := (wConn (fun c => { c with st := 1 })), pending := [] }; let y : Nat := 0;
      let n : Nat := 3;
      decide (sound s.dev = true) && decide (s.dev.yfOk y = true) && decide ((s.dev.yard y).fatal = false) &&
      decide (s.dev.frozen y = false) && decide ((s.dev.conn y n).st = 1) && decide (s.dev.planConn y n = false) &&
      decide (bit (s.dev.fld (R.YRD_MODE y)) 0 = false)) : Bool) = true ∧
    ((let s : State := { dev := (wConn id), pending := [] }; let y : Nat := 0; let n : Nat := 3;
      decide (sound s.dev = true) && decide (s.dev.yfOk y = true) && decide ((s.dev.yard y).fatal = false) &&
      decide (s.dev.frozen y = false) && decide (s.dev.canMaster y = true) &&
      decide ((s.dev.ring y n).raw.length = 32)) : Bool) = true ∧
    ((let s : State := { dev := (wConn id), pending := [] }; let y : Nat := 0; let r : Nat := 9;
      let recv : Bool := true;
      decide (sound s.dev = true) && decide (s.dev.yfOk y = true) && decide (r < s.dev.connCount y) &&
      decide (((s.dev.ring y r).half recv).bound = false ∨ ((s.dev.ring y r).half recv).cq.isSome = true ∨
        (s.dev.conn y r).st ≠ 2)) : Bool) = true ∧
    ((let s : State := { dev := (wConn id), pending := [] }; let y : Nat := 0; let r : Nat := 3;
      let recv : Bool := false; let e : List Byte := ([1, 0] ++ zeros 62);
      let h : Half := { Half.unbound with bound := true };
      decide (sound s.dev = true) && decide (s.dev.yfOk y = true) && decide (s.dev.live y = true) &&
      decide (r < s.dev.connCount y) && decide ((s.dev.ring y r).half recv = h) && decide (h.bound = true) &&
      decide (h.cq = none) && decide ((s.dev.conn y r).st = 2) && decide (h.inSeg = false) &&
      decide (s.dev.canMaster y = true) && decide ((s.dev.yard y).inval = []) &&
      decide (h.live.length < (s.dev.ring y r).fetch) && decide (h.owns e = true)) : Bool) = true ∧
    ((let s : State := { dev := { wConn id with mem := (wConn id).mem.write 4096 [1], rings := [(yk 0 3, { mkRing with sq := mkSegHalf })] }, pending := [] }; let y : Nat := 0; let r : Nat := 3; let recv : Bool := false; let h : Half := mkSegHalf; let t : Nat := 0; let a : Nat := 4096;
      decide (sound s.dev = true) && decide (s.dev.yfOk y = true) && decide (s.dev.live y = true) &&
      decide (r < s.dev.connCount y) && decide ((s.dev.ring y r).half recv = h) && decide (h.bound = true) &&
      decide (h.cq = none) && decide ((s.dev.conn y r).st = 2) && decide (h.inSeg = true) &&
      decide (s.dev.segAt y h.pasid h.sg (h.at h.n) h.size = some (t, a)) && decide (s.dev.mem.uc = []) &&
      decide ((0 :: s.dev.farPorts).all (fun q => s.dev.on (R.MEM_FAR_PORT_LINK_UP q)) = true) &&
      decide (h.owns (s.dev.mem.read (s.dev.addr y t a) h.size) = true) &&
      decide (h.live.length + 1 = (s.dev.ring y r).fetch)) : Bool) = true ∧
    ((let s : State := { dev := (wConn id), pending := [] }; let y : Nat := 0; let r : Nat := 3;
      let recv : Bool := false; let h : Half := { Half.unbound with bound := true };
      decide (sound s.dev = true) && decide (s.dev.yfOk y = true) && decide (s.dev.live y = true) &&
      decide (r < s.dev.connCount y) && decide ((s.dev.ring y r).half recv = h) && decide (h.bound = true) &&
      decide (h.cq = none) && decide ((s.dev.conn y r).st = 2) && decide (h.inSeg = false) &&
      decide (s.dev.canMaster y = true)) : Bool) = true ∧
    ((let s : State := { dev := (put (wConn id) (R.YRD_FRZ_STATUS_STATE 0) 2), pending := [] }; let y : Nat := 0;
      let r : Nat := 3; let recv : Bool := false; let h : Half := { Half.unbound with bound := true };
      decide (sound s.dev = true) && decide (s.dev.yfOk y = true) && decide (s.dev.frozen y = true) &&
      decide (r < s.dev.connCount y) && decide ((s.dev.ring y r).half recv = h) && decide (h.bound = true) &&
      decide (h.cq = none) && decide ((s.dev.conn y r).st = 2)) : Bool) = true ∧
    ((let s : State := { dev := { wConn id with rings := [(yk 0 3, { mkRing with push := true })] }, pending := [] };
      let y : Nat := 0; let r : Nat := 3; let bytes : List Byte := ([1, 0] ++ zeros 62);
      let mem : List (List Byte) := []; let h : Half := { Half.unbound with bound := true };
      decide (sound s.dev = true) && decide (s.dev.yfOk y = true) && decide (s.dev.live y = true) &&
      decide (r < s.dev.connCount y) && decide ((s.dev.ring y r).sq = h) && decide (h.bound = true) &&
      decide (h.cq = none) && decide (h.pendScan = false) && decide ((s.dev.ring y r).push = true) &&
      decide ((s.dev.conn y r).st = 2) && decide (bytes.length = 64) && decide (h.big = false) &&
      decide (le bytes 3 1 = h.n % 256) && decide (h.owns bytes = true) &&
      decide (h.live.length < (s.dev.ring y r).fetch) && decide (mem.drop 1 = [])) : Bool) = true ∧
    ((let s : State := { dev := { wConn id with rings := [(yk 0 3, { mkRing with push := true, sq := mkBigHalf 1 })] }, pending := [] }; let y : Nat := 0; let r : Nat := 3; let off : Nat := 64; let bytes : List Byte := ([1, 0] ++ zeros 62); let h : Half := (mkBigHalf 1);
      decide (sound s.dev = true) && decide (s.dev.yfOk y = true) && decide (s.dev.live y = true) &&
      decide (r < s.dev.connCount y) && decide ((s.dev.ring y r).sq = h) && decide (h.bound = true) &&
      decide (h.cq = none) && decide (h.pendScan = false) && decide ((s.dev.ring y r).push = true) &&
      decide ((s.dev.conn y r).st = 2) && decide (bytes.length = 64) && decide (h.big = true) &&
      decide (off = 64 * h.parts.length) && decide (off < 0xC0)) : Bool) = true ∧
    ((let s : State := { dev := { wConn id with rings := [(yk 0 3, { mkRing with push := true, sq := mkBigHalf 3 })] }, pending := [] }; let y : Nat := 0; let r : Nat := 3; let bytes : List Byte := ([0, 0] ++ zeros 62); let mem : List (List Byte) := []; let h : Half := (mkBigHalf 3);
      decide (sound s.dev = true) && decide (s.dev.yfOk y = true) && decide (s.dev.live y = true) &&
      decide (r < s.dev.connCount y) && decide ((s.dev.ring y r).sq = h) && decide (h.bound = true) &&
      decide (h.cq = none) && decide (h.pendScan = false) && decide ((s.dev.ring y r).push = true) &&
      decide ((s.dev.conn y r).st = 2) && decide (bytes.length = 64) && decide (h.big = true) &&
      decide (h.parts.length = 3) && decide (le (h.parts ++ [bytes]).flatten 3 1 = h.n % 256) &&
      decide (h.owns (h.parts ++ [bytes]).flatten = true) && decide (h.live.length < (s.dev.ring y r).fetch) &&
      decide (mem.drop 1 = [])) : Bool) = true ∧
    ((let s : State := { dev := (wConn id), pending := [] }; let y : Nat := 0; let r : Nat := 3;
      decide (sound s.dev = true) && decide (s.dev.yfOk y = true) && decide (r < s.dev.connCount y) &&
      decide ((s.dev.ring y r).sq.bound = true) && decide ((s.dev.ring y r).push = false)) : Bool) = true ∧
    ((let s : State := { dev := (wConn id), pending := [] }; let y : Nat := 0; let r : Nat := 9;
      decide (sound s.dev = true) && decide (s.dev.yfOk y = true) && decide (r < s.dev.connCount y) &&
      decide ((s.dev.ring y r).sq.bound = false)) : Bool) = true := by
  refine ⟨?_, ?_, ?_, ?_, ?_, ?_, ?_, ?_, ?_, ?_, ?_, ?_, ?_⟩ <;> decide +kernel

/-- The hypotheses of every clause of SendEntries are met, clause by clause. -/
theorem meets_SendEntries :
    ((let s : State := { dev := (wSq (mkSend 1)), pending := [] }; let y : Nat := 0; let r : Nat := 3;
      let h : Half := { mkRing.sq with live := [(mkSend 1)] }; let e : REntry := (mkSend 1);
      let host : HostSide := { xl := .hit, data := [], bad := false };
      decide (sound s.dev = true) && decide (s.dev.live y = true) && decide ((s.dev.conn y r).st = 2) &&
      decide ((s.dev.ring y r).sq = h) && decide (s.dev.cqFull y h = false) &&
      decide (h.live.find? (fun q => !q.started) = some e) &&
      decide (bit (le e.bytes 0 1) 4 = true → h.live.head? = some e) && decide (s.dev.sendCode y r h e.bytes = 0) &&
      decide (opOf e.bytes = 0x01) && decide (host.xl = .hit) && decide (s.dev.canMaster y = true) &&
      decide ((s.dev.yard y).inval = [])) : Bool) = true ∧
    ((let s : State := { dev := (wSq (mkSendSeg 2 64)), pending := [] }; let y : Nat := 0; let r : Nat := 3;
      let h : Half := { mkRing.sq with live := [(mkSendSeg 2 64)] }; let e : REntry := (mkSendSeg 2 64);
      let host : HostSide := { xl := .hit, data := [], bad := false };
      decide (sound s.dev = true) && decide (s.dev.live y = true) && decide ((s.dev.conn y r).st = 2) &&
      decide ((s.dev.ring y r).sq = h) && decide (s.dev.cqFull y h = false) &&
      decide (h.live.find? (fun q => !q.started) = some e) &&
      decide (bit (le e.bytes 0 1) 4 = true → h.live.head? = some e) && decide (s.dev.sendCode y r h e.bytes = 0) &&
      decide (opOf e.bytes = 0x02) && decide (host.xl = .hit) && decide (s.dev.canMaster y = true) &&
      decide ((s.dev.yard y).inval = [])) : Bool) = true ∧
    ((let s : State := { dev := (wSq (mkSend 3)), pending := [] }; let y : Nat := 0; let r : Nat := 3;
      let h : Half := { mkRing.sq with live := [(mkSend 3)] }; let e : REntry := (mkSend 3);
      let host : HostSide := { xl := .hit, data := [], bad := false };
      decide (sound s.dev = true) && decide (s.dev.live y = true) && decide ((s.dev.conn y r).st = 2) &&
      decide ((s.dev.ring y r).sq = h) && decide (s.dev.cqFull y h = false) &&
      decide (h.live.find? (fun q => !q.started) = some e) &&
      decide (bit (le e.bytes 0 1) 4 = true → h.live.head? = some e) && decide (s.dev.sendCode y r h e.bytes = 0) &&
      decide (opOf e.bytes = 0x03) && decide (host.xl = .hit) && decide (s.dev.canMaster y = true) &&
      decide ((s.dev.yard y).inval = [])) : Bool) = true ∧
    ((let s : State := { dev := (wSq (mkSend 5)), pending := [] }; let y : Nat := 0; let r : Nat := 3;
      let h : Half := { mkRing.sq with live := [(mkSend 5)] }; let e : REntry := (mkSend 5);
      let host : HostSide := { xl := .hit, data := [], bad := false };
      decide (sound s.dev = true) && decide (s.dev.live y = true) && decide ((s.dev.conn y r).st = 2) &&
      decide ((s.dev.ring y r).sq = h) && decide (s.dev.cqFull y h = false) &&
      decide (h.live.find? (fun q => !q.started) = some e) &&
      decide (bit (le e.bytes 0 1) 4 = true → h.live.head? = some e) && decide (s.dev.sendCode y r h e.bytes = 0) &&
      decide (opOf e.bytes = 0x05) && decide (host.xl = .hit) && decide (s.dev.canMaster y = true) &&
      decide ((s.dev.yard y).inval = [])) : Bool) = true ∧
    ((let s : State := { dev := (wSq (mkSendSeg 6 64)), pending := [] }; let y : Nat := 0; let r : Nat := 3;
      let h : Half := { mkRing.sq with live := [(mkSendSeg 6 64)] }; let e : REntry := (mkSendSeg 6 64);
      let host : HostSide := { xl := .hit, data := [], bad := false };
      decide (sound s.dev = true) && decide (s.dev.live y = true) && decide ((s.dev.conn y r).st = 2) &&
      decide ((s.dev.ring y r).sq = h) && decide (s.dev.cqFull y h = false) &&
      decide (h.live.find? (fun q => !q.started) = some e) &&
      decide (bit (le e.bytes 0 1) 4 = true → h.live.head? = some e) && decide (s.dev.sendCode y r h e.bytes = 0) &&
      decide (opOf e.bytes = 0x06) && decide (host.xl = .hit) && decide (s.dev.canMaster y = true) &&
      decide ((s.dev.yard y).inval = [])) : Bool) = true ∧
    ((let s : State := { dev := (wSq (mkSendSeg 7 64)), pending := [] }; let y : Nat := 0; let r : Nat := 3;
      let h : Half := { mkRing.sq with live := [(mkSendSeg 7 64)] }; let e : REntry := (mkSendSeg 7 64);
      let host : HostSide := { xl := .hit, data := [], bad := false };
      decide (sound s.dev = true) && decide (s.dev.live y = true) && decide ((s.dev.conn y r).st = 2) &&
      decide ((s.dev.ring y r).sq = h) && decide (s.dev.cqFull y h = false) &&
      decide (h.live.find? (fun q => !q.started) = some e) &&
      decide (bit (le e.bytes 0 1) 4 = true → h.live.head? = some e) && decide (s.dev.sendCode y r h e.bytes = 0) &&
      decide (opOf e.bytes = 0x07) && decide (host.xl = .hit) && decide (s.dev.canMaster y = true) &&
      decide ((s.dev.yard y).inval = [])) : Bool) = true := by
  refine ⟨?_, ?_, ?_, ?_, ?_, ?_⟩ <;> decide +kernel

/-- The hypotheses of every clause of AtomicAndReceiveEntries are met, clause by clause. -/
theorem meets_AtomicAndReceiveEntries :
    ((let s : State := { dev := (wSq (mkSendSeg 0x09 8)), pending := [] }; let y : Nat := 0; let r : Nat := 3;
      let h : Half := { mkRing.sq with live := [mkSendSeg 0x09 8] }; let e : REntry := (mkSendSeg 0x09 8);
      let host : HostSide := { xl := .hit, data := [], bad := false };
      decide (sound s.dev = true) && decide (s.dev.live y = true) && decide ((s.dev.conn y r).st = 2) &&
      decide ((s.dev.ring y r).sq = h) && decide (s.dev.cqFull y h = false) &&
      decide (h.live.find? (fun q => !q.started) = some e) &&
      decide (bit (le e.bytes 0 1) 4 = true → h.live.head? = some e) && decide (s.dev.sendCode y r h e.bytes = 0) &&
      decide (opOf e.bytes = 0x09) && decide (host.xl = .hit) && decide (s.dev.canMaster y = true) &&
      decide ((s.dev.yard y).inval = [])) : Bool) = true ∧
    ((let s : State := { dev := (wSq (mkSendSeg 0x0A 8)), pending := [] }; let y : Nat := 0; let r : Nat := 3;
      let h : Half := { mkRing.sq with live := [mkSendSeg 0x0A 8] }; let e : REntry := (mkSendSeg 0x0A 8);
      let host : HostSide := { xl := .hit, data := [], bad := false };
      decide (sound s.dev = true) && decide (s.dev.live y = true) && decide ((s.dev.conn y r).st = 2) &&
      decide ((s.dev.ring y r).sq = h) && decide (s.dev.cqFull y h = false) &&
      decide (h.live.find? (fun q => !q.started) = some e) &&
      decide (bit (le e.bytes 0 1) 4 = true → h.live.head? = some e) && decide (s.dev.sendCode y r h e.bytes = 0) &&
      decide (opOf e.bytes = 0x0A) && decide (host.xl = .hit) && decide (s.dev.canMaster y = true) &&
      decide ((s.dev.yard y).inval = [])) : Bool) = true ∧
    ((let s : State := { dev := (wSq (mkSend 0x0C)), pending := [] }; let y : Nat := 0; let r : Nat := 3;
      let h : Half := { mkRing.sq with live := [(mkSend 0x0C)] }; let e : REntry := (mkSend 0x0C);
      let host : HostSide := { xl := .hit, data := [], bad := false };
      decide (sound s.dev = true) && decide (s.dev.live y = true) && decide ((s.dev.conn y r).st = 2) &&
      decide ((s.dev.ring y r).sq = h) && decide (s.dev.cqFull y h = false) &&
      decide (h.live.find? (fun q => !q.started) = some e) &&
      decide (bit (le e.bytes 0 1) 4 = true → h.live.head? = some e) && decide (s.dev.sendCode y r h e.bytes = 0) &&
      decide (opOf e.bytes = 0x0C) && decide (host.xl = .hit) && decide (s.dev.canMaster y = true) &&
      decide ((s.dev.yard y).inval = [])) : Bool) = true ∧
    ((let s : State := { dev := (wSq (mkSend 0x0D)), pending := [] }; let y : Nat := 0; let r : Nat := 3;
      let h : Half := { mkRing.sq with live := [(mkSend 0x0D)] }; let e : REntry := (mkSend 0x0D);
      let host : HostSide := { xl := .hit, data := [], bad := false };
      decide (sound s.dev = true) && decide (s.dev.live y = true) && decide ((s.dev.conn y r).st = 2) &&
      decide ((s.dev.ring y r).sq = h) && decide (s.dev.cqFull y h = false) &&
      decide (h.live.find? (fun q => !q.started) = some e) &&
      decide (bit (le e.bytes 0 1) 4 = true → h.live.head? = some e) && decide (s.dev.sendCode y r h e.bytes = 0) &&
      decide (opOf e.bytes = 0x0D) && decide (host.xl = .hit) && decide (s.dev.canMaster y = true) &&
      decide ((s.dev.yard y).inval = [])) : Bool) = true ∧
    ((let s : State := { dev := (wSq (mkSendSeg 0x0E 0)), pending := [] }; let y : Nat := 0; let r : Nat := 3;
      let h : Half := { mkRing.sq with live := [(mkSendSeg 0x0E 0)] }; let e : REntry := (mkSendSeg 0x0E 0);
      decide (sound s.dev = true) && decide (s.dev.live y = true) && decide ((s.dev.conn y r).st = 2) &&
      decide ((s.dev.ring y r).sq = h) && decide (s.dev.cqFull y h = false) &&
      decide (h.live.find? (fun q => !q.started) = some e) &&
      decide (bit (le e.bytes 0 1) 4 = true → h.live.head? = some e) && decide (s.dev.sendCode y r h e.bytes = 0) &&
      decide (opOf e.bytes = 0x0E)) : Bool) = true ∧
    ((let s : State := { dev := (wSq (mkSendSeg 0 0)), pending := [] }; let y : Nat := 0; let r : Nat := 3;
      let h : Half := { mkRing.sq with live := [mkSendSeg 0 0] }; let e : REntry := (mkSendSeg 0 0);
      decide (sound s.dev = true) && decide (s.dev.live y = true) && decide ((s.dev.conn y r).st = 2) &&
      decide ((s.dev.ring y r).sq = h) && decide (s.dev.cqFull y h = false) &&
      decide (h.live.find? (fun q => !q.started) = some e) &&
      decide (bit (le e.bytes 0 1) 4 = true → h.live.head? = some e) && decide (s.dev.sendCode y r h e.bytes = 0) &&
      decide (opOf e.bytes = 0) && decide (h.live = [e]) && decide (e.out = none) && decide (h.byFetch = false) &&
      decide (entryLen h.big false e.bytes = 0 ∨ s.dev.canMaster y = true) &&
        decide ((s.dev.yard y).inval = [])) : Bool) = true ∧
    ((let s : State := { dev := (wRq id (mkRecvNew 0x20)), pending := [] }; let y : Nat := 0; let r : Nat := 3;
      let h : Half := { mkRing.rq with live := [mkRecvNew 0x20] }; let e : REntry := (mkRecvNew 0x20);
      decide (sound s.dev = true) && decide (s.dev.live y = true) && decide ((s.dev.conn y r).st = 2) &&
      decide ((s.dev.ring y r).rq = h) && decide (s.dev.cqFull y h = false) &&
      decide (h.live.find? (fun q => !q.started) = some e) && decide (s.dev.recvCode y r h e.bytes = 0) &&
      decide (opOf e.bytes = 0x20)) : Bool) = true ∧
    ((let s : State := { dev := (wRq (fun c => { c with tagged := true, matchList := 1 }) (mkRecvNew 0x21)), pending := [] }; let y : Nat := 0; let r : Nat := 3; let h : Half := { mkRing.rq with live := [mkRecvNew 0x21] }; let e : REntry := (mkRecvNew 0x21); let l : MatchList := mkList;
      decide (sound s.dev = true) && decide (s.dev.live y = true) && decide ((s.dev.conn y r).st = 2) &&
      decide ((s.dev.ring y r).rq = h) && decide (s.dev.cqFull y h = false) &&
      decide (h.live.find? (fun q => !q.started) = some e) && decide (s.dev.recvCode y r h e.bytes = 0) &&
      decide (opOf e.bytes = 0x21) && decide (Tab.find s.dev.lists (yk y (s.dev.conn y r).matchList) = some l) &&
      decide (l.unexp.find? (fun u => ({ tag := le e.bytes 8 8, mask := if bit (le e.bytes 0 1) 2 then 2 ^ 64 - 1 else le e.bytes 0x30 8, src := le e.bytes 4 3, ring := r, n := e.n, loc := entryLoc h.big true e.bytes, len := entryLen h.big true e.bytes } : Posted).hits u.tag u.conn) = none) &&
      decide (l.posted.length < l.maxPosted)) : Bool) = true ∧
    ((let s : State := { dev := (wUx (some 9)), pending := [] }; let y : Nat := 0; let r : Nat := 3;
      let h : Half := { mkRing.rq with live := [mkAny] }; let e : REntry := mkAny;
      let l : MatchList := (mkUx (some 9)); let u : Unexp := (mkUn (some 9)); let k : Nat := 9;
      decide (sound s.dev = true) && decide (s.dev.live y = true) && decide ((s.dev.conn y r).st = 2) &&
      decide ((s.dev.ring y r).rq = h) && decide (s.dev.cqFull y h = false) &&
      decide (h.live.find? (fun q => !q.started) = some e) && decide (s.dev.recvCode y r h e.bytes = 0) &&
      decide (opOf e.bytes = 0x21) && decide (Tab.find s.dev.lists (yk y (s.dev.conn y r).matchList) = some l) &&
      decide (l.unexp.find? (fun u => ({ tag := le e.bytes 8 8, mask := if bit (le e.bytes 0 1) 2 then 2 ^ 64 - 1 else le e.bytes 0x30 8, src := le e.bytes 4 3, ring := r, n := e.n, loc := entryLoc h.big true e.bytes, len := entryLen h.big true e.bytes } : Posted).hits u.tag u.conn) = some u) &&
      decide (u.rts = some k) &&
      decide (min u.len (entryLen h.big true e.bytes) ≤ (s.dev.conn y u.conn).window * (s.dev.conn y u.conn).mtu)) : Bool) = true ∧
    ((let s : State := { dev := (wUx none), pending := [] }; let y : Nat := 0; let r : Nat := 3;
      let h : Half := { mkRing.rq with live := [mkAny] }; let e : REntry := mkAny; let l : MatchList := (mkUx none);
      let u : Unexp := (mkUn none); let p : Nat := 1; let g : Nat := 0; let q : Nat := 0;
      decide (sound s.dev = true) && decide (s.dev.live y = true) && decide ((s.dev.conn y r).st = 2) &&
      decide ((s.dev.ring y r).rq = h) && decide (s.dev.cqFull y h = false) &&
      decide (h.live.find? (fun q => !q.started) = some e) && decide (s.dev.recvCode y r h e.bytes = 0) &&
      decide (opOf e.bytes = 0x21) && decide (Tab.find s.dev.lists (yk y (s.dev.conn y r).matchList) = some l) &&
      decide (l.unexp.find? (fun u => ({ tag := le e.bytes 8 8, mask := if bit (le e.bytes 0 1) 2 then 2 ^ 64 - 1 else le e.bytes 0x30 8, src := le e.bytes 4 3, ring := r, n := e.n, loc := entryLoc h.big true e.bytes, len := entryLen h.big true e.bytes } : Posted).hits u.tag u.conn) = some u) &&
      decide (u.rts = none) && decide (entryLoc h.big true e.bytes = .seg p g q)) : Bool) = true := by
  refine ⟨?_, ?_, ?_, ?_, ?_, ?_, ?_, ?_, ?_, ?_⟩ <;> decide +kernel

/-- The hypotheses of every clause of LegacyQueues are met, clause by clause. -/
theorem meets_LegacyQueues :
    ((let s : State := { dev := (wAdm id (mkAdm 1 6 (leBytes 8 4096 ++ [4, 0, 3, 0]))), pending := [] };
      let y : Nat := 0;
      decide (sound s.dev = true) && decide (s.dev.cmdOk y = true) && decide (s.dev.canMaster y = true) &&
      decide (bit (s.dev.fld (R.YRD_MODE y)) 0 = true)) : Bool) = true ∧
    ((let s : State := { dev := (wAdm id (mkAdm 1 6 (leBytes 8 4096 ++ [4, 0, 3, 0]))), pending := [] };
      let y : Nat := 0; let e : List Byte := (mkAdm 1 6 (leBytes 8 4096 ++ [4, 0, 3, 0]));
      let rest : List (List Byte) := [];
      decide (sound s.dev = true) && decide (s.dev.live y = true) &&
      decide (bit (s.dev.fld (R.YRD_MODE y)) 0 = true) &&
      decide ((s.dev.yard y).adm.cqCount - (s.dev.yard y).adm.cqHead < bits (s.dev.fld (R.LGQ_AQ_SIZE y)) 16 12 + 1) &&
      decide ((s.dev.yard y).adm.waiting = e :: rest) && decide (le e 0 1 = 1) && decide (le e 2 2 < 2048) &&
      decide (logOk (le e 0x10 1) = true) && decide (le e 0x12 2 < 2048) && decide (le e 8 8 % 16 = 0) &&
      decide (s.dev.lcq y (le e 2 2) = none)) : Bool) = true ∧
    ((let s : State := { dev := { wAdm id (mkAdm 2 6 []) with lcqs := [(yk 0 6, mkLcq)] }, pending := [] };
      let y : Nat := 0; let e : List Byte := (mkAdm 2 6 []); let rest : List (List Byte) := [];
      decide (sound s.dev = true) && decide (s.dev.live y = true) &&
      decide (bit (s.dev.fld (R.YRD_MODE y)) 0 = true) &&
      decide ((s.dev.yard y).adm.cqCount - (s.dev.yard y).adm.cqHead < bits (s.dev.fld (R.LGQ_AQ_SIZE y)) 16 12 + 1) &&
      decide ((s.dev.yard y).adm.waiting = e :: rest) && decide (le e 0 1 = 2) &&
      decide ((s.dev.lcq y (le e 2 2)).isSome = true) && decide (s.dev.ringsOnCq y (le e 2 2) = [])) : Bool) = true ∧
    ((let s : State := { dev := { wAdm (fun c => { c with st := 1 }) (mkAdm 3 3 (leBytes 8 4096 ++ [4, 0, 6, 0] ++ leBytes 4 3 ++ leBytes 4 1)) with lcqs := [(yk 0 6, mkLcq)], rings := [] }, pending := [] }; let y : Nat := 0; let e : List Byte := (mkAdm 3 3 (leBytes 8 4096 ++ [4, 0, 6, 0] ++ leBytes 4 3 ++ leBytes 4 1)); let rest : List (List Byte) := [];
      decide (sound s.dev = true) && decide (s.dev.live y = true) &&
      decide (bit (s.dev.fld (R.YRD_MODE y)) 0 = true) &&
      decide ((s.dev.yard y).adm.cqCount - (s.dev.yard y).adm.cqHead < bits (s.dev.fld (R.LGQ_AQ_SIZE y)) 16 12 + 1) &&
      decide ((s.dev.yard y).adm.waiting = e :: rest) && decide (le e 0 1 = 3) &&
      decide (logOk (le e 0x10 1) = true) && decide (le e 0x18 4 < 2 ^ 20) &&
      decide (s.dev.hostCtx y (le e 0x18 4) = true) && decide (le e 8 8 % 64 = 0) &&
      decide (le e 0x14 4 < s.dev.connCount y) && decide ((s.dev.conn y (le e 0x14 4)).st = 1) &&
      decide (s.dev.planConn y (le e 0x14 4) = false) && decide ((s.dev.lcq y (le e 0x12 2)).isSome = true) &&
      decide ((s.dev.ring y (le e 0x14 4)).sq.bound = false)) : Bool) = true ∧
    ((let s : State := { dev := { wAdm (fun c => { c with st := 1 }) (mkAdm 5 3 (leBytes 8 4096 ++ [4, 0, 6, 0] ++ leBytes 4 3 ++ leBytes 4 1)) with lcqs := [(yk 0 6, mkLcq)], rings := [] }, pending := [] }; let y : Nat := 0; let e : List Byte := (mkAdm 5 3 (leBytes 8 4096 ++ [4, 0, 6, 0] ++ leBytes 4 3 ++ leBytes 4 1)); let rest : List (List Byte) := [];
      decide (sound s.dev = true) && decide (s.dev.live y = true) &&
      decide (bit (s.dev.fld (R.YRD_MODE y)) 0 = true) &&
      decide ((s.dev.yard y).adm.cqCount - (s.dev.yard y).adm.cqHead < bits (s.dev.fld (R.LGQ_AQ_SIZE y)) 16 12 + 1) &&
      decide ((s.dev.yard y).adm.waiting = e :: rest) && decide (le e 0 1 = 5) &&
      decide (logOk (le e 0x10 1) = true) && decide (le e 0x18 4 < 2 ^ 20) &&
      decide (s.dev.hostCtx y (le e 0x18 4) = true) && decide (le e 8 8 % 64 = 0) &&
      decide (le e 0x14 4 < s.dev.connCount y) && decide ((s.dev.conn y (le e 0x14 4)).st = 1) &&
      decide (s.dev.planConn y (le e 0x14 4) = false) && decide ((s.dev.lcq y (le e 0x12 2)).isSome = true) &&
      decide ((s.dev.ring y (le e 0x14 4)).rq.bound = false)) : Bool) = true ∧
    ((let s : State := { dev := { wAdm (fun c => { c with st := 1 }) (mkAdm 4 3 (leBytes 8 4096 ++ [4, 0, 6, 0] ++ leBytes 4 3 ++ leBytes 4 1)) with lcqs := [(yk 0 6, mkLcq)], rings := [(yk 0 3, mkLegacy)] }, pending := [] }; let y : Nat := 0; let e : List Byte := (mkAdm 4 3 (leBytes 8 4096 ++ [4, 0, 6, 0] ++ leBytes 4 3 ++ leBytes 4 1)); let rest : List (List Byte) := [];
      decide (sound s.dev = true) && decide (s.dev.live y = true) &&
      decide (bit (s.dev.fld (R.YRD_MODE y)) 0 = true) &&
      decide ((s.dev.yard y).adm.cqCount - (s.dev.yard y).adm.cqHead < bits (s.dev.fld (R.LGQ_AQ_SIZE y)) 16 12 + 1) &&
      decide ((s.dev.yard y).adm.waiting = e :: rest) && decide (le e 0 1 = 4) &&
      decide ((s.dev.conn y (le e 2 2)).st = 1) &&
        decide ((s.dev.ring y (le e 2 2)).sq.cq.isSome = true)) : Bool) = true ∧
    ((let s : State := { dev := { wAdm (fun c => { c with st := 1 }) (mkAdm 6 3 (leBytes 8 4096 ++ [4, 0, 6, 0] ++ leBytes 4 3 ++ leBytes 4 1)) with lcqs := [(yk 0 6, mkLcq)], rings := [(yk 0 3, mkLegacy)] }, pending := [] }; let y : Nat := 0; let e : List Byte := (mkAdm 6 3 (leBytes 8 4096 ++ [4, 0, 6, 0] ++ leBytes 4 3 ++ leBytes 4 1)); let rest : List (List Byte) := [];
      decide (sound s.dev = true) && decide (s.dev.live y = true) &&
      decide (bit (s.dev.fld (R.YRD_MODE y)) 0 = true) &&
      decide ((s.dev.yard y).adm.cqCount - (s.dev.yard y).adm.cqHead < bits (s.dev.fld (R.LGQ_AQ_SIZE y)) 16 12 + 1) &&
      decide ((s.dev.yard y).adm.waiting = e :: rest) && decide (le e 0 1 = 6) &&
      decide ((s.dev.conn y (le e 2 2)).st = 1) &&
        decide ((s.dev.ring y (le e 2 2)).rq.cq.isSome = true)) : Bool) = true ∧
    ((let s : State := { dev := { wConn id with lcqs := [(yk 0 6, mkLcq)], rings := [(yk 0 3, mkLegacy)] }, pending := [] }; let y : Nat := 0; let r : Nat := 3; let recv : Bool := true;
      decide (sound s.dev = true) && decide (s.dev.yfOk y = true) && decide (r < s.dev.connCount y) &&
      decide (((s.dev.ring y r).half recv).cq.isSome = true) && decide ((s.dev.conn y r).st = 2)) : Bool) = true ∧
    ((let s : State := { dev := { wConn id with lcqs := [(yk 0 6, mkLcq)], rings := [(yk 0 3, mkLegacy)] }, pending := [] }; let y : Nat := 0; let r : Nat := 3; let recv : Bool := true; let v : Nat := 1; let h : Half := mkLegacy.rq;
      decide (sound s.dev = true) && decide (s.dev.yfOk y = true) && decide (s.dev.live y = true) &&
      decide (r < s.dev.connCount y) && decide ((s.dev.ring y r).half recv = h) && decide (h.cq.isSome = true) &&
      decide (h.bound = true) && decide (h.inSeg = false) && decide ((s.dev.conn y r).st = 2) &&
      decide (s.dev.cqFull y h = false) && decide (s.dev.canMaster y = true) && decide ((s.dev.yard y).inval = []) &&
      decide (h.live.length < (s.dev.ring y r).fetch) &&
        decide (v % 2 ^ 16 % 2 ^ h.log ≠ h.n % 2 ^ h.log)) : Bool) = true ∧
    ((let s : State := { dev := { wConn id with lcqs := [(yk 0 6, mkLcq)] }, pending := [] }; let y : Nat := 0;
      let c : Nat := 6; let q : LCq := mkLcq;
      decide (sound s.dev = true) && decide (s.dev.yfOk y = true) && decide (s.dev.lcq y c = some q)) : Bool) = true ∧
    ((let s : State := { dev := (setY (wConn id) 0 (fun r => { r with adm := { r.adm with cqCount := 1 } })), pending := [] }; let y : Nat := 0; let q : LAdm := { waiting := [], sqHead := 0, cqHead := 0, cqCount := 1 };
      decide (sound s.dev = true) && decide (s.dev.yfOk y = true) &&
        decide ((s.dev.yard y).adm = q)) : Bool) = true := by
  refine ⟨?_, ?_, ?_, ?_, ?_, ?_, ?_, ?_, ?_, ?_, ?_⟩ <;> decide +kernel

/-- The hypotheses of every clause of HostEvents are met, clause by clause. -/
theorem meets_HostEvents :
    ((let s : State := { dev := (put (put wYard (R.BAY_FN_STATE_HOST_LOST 0) 1) (R.YRD_STATE_HOST_LOST 0) 1), pending := [] }; let y : Nat := 0; let v : Nat := 1;
      decide (sound s.dev = true) && decide (s.dev.yfOk y = true) && decide (bit v 0 = true) &&
      decide (s.dev.ctl.hostUp = true) && decide (s.dev.hostLost y = true)) : Bool) = true ∧
    ((let s : State := { dev := (setC wYard (fun c => { c with msixPend := [(mk 1 2, 1)] })), pending := [] };
      let fn : Nat := 1; let v : Nat := 2;
      decide (sound s.dev = true) && decide (s.dev.vecThere fn v = true) && decide (s.dev.mayIrq fn = true) &&
      decide (Tab.num s.dev.ctl.msixPend (mk fn v) ≠ 0) &&
        decide (Tab.wfNum s.dev.ctl.msixPend = true)) : Bool) = true ∧
    ((let s : State := { dev := (setC wYard (fun c => { c with msixPend := [(mk 1 2, 1)] })), pending := [] };
      let fn : Nat := 1; let v : Nat := 3;
      decide (sound s.dev = true) && decide (s.dev.vecThere fn v = true) &&
      decide (Tab.num s.dev.ctl.msixPend (mk fn v) = 0 ∨ s.dev.mayIrq fn = false)) : Bool) = true ∧
    ((let s : State := { dev := (setC wYard (fun c => { c with hostUp := false })), pending := [] };
      decide (sound s.dev = true)) : Bool) = true ∧
    ((let s : State := { dev := (setY (wConn id) 0 (fun r => { r with store := [(0, .nopEntry 0 0)] })), pending := [] }; let b : Nat := 0; let y : Nat := 0; let e : Nat × Instr := (0, .nopEntry 0 0);
      decide (sound s.dev = true) && decide (s.dev.yardOf b = some y) &&
      decide ((s.dev.yard y).store.find? (fun q => q.1 == b) = some e) && decide ((s.dev.yard y).inval = []) &&
      decide ((ofYard s.dev.conns y).all (fun q => q.2.early.isEmpty) = true)) : Bool) = true := by
  refine ⟨?_, ?_, ?_, ?_, ?_⟩ <;> decide +kernel

/-- The hypotheses of every clause of SpdmConnection are met, clause by clause. -/
theorem meets_SpdmConnection :
    ((let s : State := { dev := (wSpdm 0 id true), pending := [] }; let tr : Transport := .pfDoe;
      decide (sound s.dev = true) && decide (serves s.dev tr 0 = true)) : Bool) = true ∧
    ((let s : State := { dev := (wSpdm 1 id true), pending := [] }; let tr : Transport := .pfDoe;
      decide (sound s.dev = true) && decide (serves s.dev tr 1 = true)) : Bool) = true ∧
    ((let s : State := { dev := (wSpdm 2 id true), pending := [] }; let tr : Transport := .pfDoe;
      decide (sound s.dev = true) && decide (serves s.dev tr 2 = true)) : Bool) = true ∧
    ((let s : State := { dev := (wSpdm 3 id true), pending := [] }; let tr : Transport := .pfDoe;
      decide (sound s.dev = true) && decide (serves s.dev tr 3 = true) &&
        decide (s.dev.sec.idMade = true)) : Bool) = true ∧
    ((let s : State := { dev := (wSpdm 3 id true), pending := [] }; let tr : Transport := .pfDoe; let slot : Nat := 1;
      decide (sound s.dev = true) && decide (serves s.dev tr 3 = true) && decide (slot < 2) &&
      decide (s.dev.sec.idMade = true)) : Bool) = true ∧
    ((let s : State := { dev := (wSpdm 3 id true), pending := [] }; let tr : Transport := .pfDoe;
      decide (sound s.dev = true) && decide (serves s.dev tr 3 = true) &&
        decide (s.dev.sec.idKeys = true)) : Bool) = true ∧
    ((let s : State := { dev := (wSpdm 3 id true), pending := [] }; let tr : Transport := .pfDoe;
      decide (sound s.dev = true) && decide (serves s.dev tr 2 = true) &&
        decide ((s.dev.spdmAt tr).chunksIn = none)) : Bool) = true ∧
    ((let s : State := { dev := (wSpdm 3 (fun z => { z with chunksIn := some (5, 1, [9]) }) true), pending := [] };
      let tr : Transport := .pfDoe; let hd : Nat := 5; let n : Nat := 1; let b0 : List Byte := [9];
      decide (sound s.dev = true) && decide (serves s.dev tr 2 = true) &&
      decide ((s.dev.spdmAt tr).chunksIn = some (hd, n, b0))) : Bool) = true ∧
    ((let s : State := { dev := (wSpdm 3 (fun z => { z with chunksOut := some (7, 1, [1, 2, 3]) }) true), pending := [] }; let tr : Transport := .pfDoe; let hd : Nat := 7; let n : Nat := 1; let bs : List Byte := [1, 2, 3];
      decide (sound s.dev = true) && decide (serves s.dev tr 2 = true) &&
      decide ((s.dev.spdmAt tr).chunksOut = some (hd, n, bs))) : Bool) = true := by
  refine ⟨?_, ?_, ?_, ?_, ?_, ?_, ?_, ?_, ?_⟩ <;> decide +kernel

/-- The hypotheses of every clause of SpdmSessions are met, clause by clause. -/
theorem meets_SpdmSessions :
    ((let s : State := { dev := (wSpdm 3 id true), pending := [] }; let tr : Transport := .pfDoe;
      decide (sound s.dev = true) && decide (serves s.dev tr 3 = true) && decide (s.dev.sec.idKeys = true) &&
      decide (s.dev.sec.sessions.length < 16)) : Bool) = true ∧
    ((let s : State := { dev := (wSpdm 3 id false), pending := [] }; let tr : Transport := .pfDoe; let id : Nat := 4;
      let z : Session := { id := 4, tr := .pfDoe, finished := false };
      decide (sound s.dev = true) && decide (serves s.dev tr 3 = true) && decide (s.dev.session tr id = some z) &&
      decide (z.finished = false)) : Bool) = true ∧
    ((let s : State := { dev := (wSpdm 3 id true), pending := [] }; let tr : Transport := .pfDoe; let id : Nat := 4;
      decide (sound s.dev = true) && decide (servesIn s.dev tr id = true)) : Bool) = true ∧
    ((let s : State := { dev := (wSpdm 3 id true), pending := [] }; let tr : Transport := .pfDoe; let id : Nat := 4;
      decide (sound s.dev = true) && decide (servesIn s.dev tr id = true)) : Bool) = true ∧
    ((let s : State := { dev := (wSpdm 3 id true), pending := [] }; let tr : Transport := .pfDoe; let id : Nat := 4;
      decide (sound s.dev = true) && decide (servesIn s.dev tr id = true)) : Bool) = true ∧
    ((let s : State := { dev := (wSpdm 3 id true), pending := [] }; let tr : Transport := .pfDoe;
      let index : Nat := 0x40;
      decide (sound s.dev = true) && decide (serves s.dev tr 3 = true) && decide (s.dev.indexWaits index = false) &&
      decide (index ≠ 0) && decide (s.dev.chosen tr index = none)) : Bool) = true ∧
    ((let s : State := { dev := (wSpdm 3 id true), pending := [] }; let tr : Transport := .pfDoe;
      let index : Nat := 0; let sign : Bool := false;
      decide (sound s.dev = true) && decide (serves s.dev tr 3 = true) && decide (s.dev.indexWaits index = false) &&
      decide (index = 0) && decide (sign = false)) : Bool) = true ∧
    ((let s : State := { dev := (wSpdm 3 id true), pending := [] }; let tr : Transport := .pfDoe;
      let index : Nat := 6; let sign : Bool := false; let bs : List (Nat × List Byte) := [(6, wYard.fixedBlock 6)];
      decide (sound s.dev = true) && decide (serves s.dev tr 3 = true) && decide (s.dev.indexWaits index = false) &&
      decide (index ≠ 0) && decide (s.dev.chosen tr index = some bs) && decide (sign = false)) : Bool) = true ∧
    ((let s : State := { dev := (wSpdm 3 id true), pending := [] }; let tr : Transport := .pfDoe;
      let index : Nat := 6; let sign : Bool := true; let bs : List (Nat × List Byte) := [(6, wYard.fixedBlock 6)];
      decide (sound s.dev = true) && decide (serves s.dev tr 3 = true) && decide (s.dev.indexWaits index = false) &&
      decide (index ≠ 0) && decide (s.dev.chosen tr index = some bs) && decide (sign = true) &&
      decide (s.dev.sec.idKeys = true)) : Bool) = true ∧
    ((let s : State := { dev := (wSpdm 3 id true), pending := [] }; let tr : Transport := .pfDoe;
      let index : Nat := 6; let bs : List (Nat × List Byte) := [(6, wYard.fixedBlock 6)];
      decide (sound s.dev = true) && decide (serves s.dev tr 3 = true) && decide (s.dev.indexWaits index = false) &&
      decide (s.dev.sec.idKeys = true) && decide (s.dev.chosen tr index = some bs)) : Bool) = true ∧
    ((let s : State := { dev := (wSpdm 3 id true), pending := [] }; let tr : Transport := .pfDoe;
      let index : Nat := 0x40;
      decide (sound s.dev = true) && decide (serves s.dev tr 3 = true) && decide (s.dev.indexWaits index = false) &&
      decide (s.dev.chosen tr index = none)) : Bool) = true ∧
    ((let s : State := { dev := (wSpdm 3 (fun z => { z with lastSig := some [1] }) true), pending := [] };
      let tr : Transport := .pfDoe; let v : List Byte := [1];
      decide (sound s.dev = true) && decide (serves s.dev tr 3 = true) && decide (s.dev.sec.idKeys = true) &&
      decide ((s.dev.spdmAt tr).lastSig = some v)) : Bool) = true ∧
    ((let s : State := { dev := (wSpdm 3 id true), pending := [] }; let tr : Transport := .pfDoe;
      decide (sound s.dev = true) && decide (serves s.dev tr 3 = true) &&
        decide ((s.dev.spdmAt tr).lastSig = none)) : Bool) = true ∧
    ((let s : State := { dev := (wSpdm 3 (fun z => { z with ready := some (9, .getMeasurements .pfDoe 6 [] false) }) true), pending := [] }; let tr : Transport := .pfDoe; let tok : Nat := 9; let index : Nat := 6; let nonce : List Byte := []; let bs : List (Nat × List Byte) := [(6, wYard.fixedBlock 6)];
      decide (sound s.dev = true) && decide (serves s.dev tr 3 = true) &&
      decide ((s.dev.spdmAt tr).ready = some (tok, .getMeasurements tr index nonce false)) &&
      decide (s.dev.indexWaits index = false) && decide (index ≠ 0) &&
        decide (s.dev.chosen tr index = some bs)) : Bool) = true ∧
    ((let s : State := { dev := (wSpdm 3 id true), pending := [] }; let tr : Transport := .pfDoe; let tok : Nat := 9;
      decide (sound s.dev = true) && decide (s.dev.reaches tr = true) &&
      decide (((s.dev.spdmAt tr).ready.map (fun q => q.1)) ≠ some tok)) : Bool) = true := by
  refine ⟨?_, ?_, ?_, ?_, ?_, ?_, ?_, ?_, ?_, ?_, ?_, ?_, ?_, ?_, ?_⟩ <;> decide +kernel

/-- The hypotheses of every clause of TdispAndIde are met, clause by clause. -/
theorem meets_TdispAndIde :
    ((let s : State := { dev := (wTdi 3), pending := [] }; let y : Nat := 0;
      decide (sound s.dev = true) && decide (s.dev.ctl.hostUp = true) && decide (s.dev.ctl.tripped = false) &&
      decide (s.dev.present y = true) && decide (s.dev.sec.busy = false) &&
        decide ((s.dev.yard y).resetting = false)) : Bool) = true ∧
    ((let s : State := { dev := (wTdi 3), pending := [] }; let y : Nat := 0;
      decide (sound s.dev = true) && decide (s.dev.ctl.hostUp = true) && decide (s.dev.ctl.tripped = false) &&
      decide (s.dev.present y = true) && decide (s.dev.sec.busy = false) &&
        decide ((s.dev.yard y).resetting = false)) : Bool) = true ∧
    ((let s : State := { dev := (wTdi 0), pending := [] }; let y : Nat := 0;
      decide (sound s.dev = true) && decide (s.dev.ctl.hostUp = true) && decide (s.dev.ctl.tripped = false) &&
      decide (s.dev.present y = true) && decide (s.dev.sec.busy = false) &&
      decide ((s.dev.yard y).resetting = false) && decide ((s.dev.yard y).tdi = 0)) : Bool) = true ∧
    ((let s : State := { dev := (wTdi 2), pending := [] }; let y : Nat := 0;
      decide (sound s.dev = true) && decide (s.dev.ctl.hostUp = true) && decide (s.dev.ctl.tripped = false) &&
      decide (s.dev.present y = true) && decide (s.dev.sec.busy = false) &&
      decide ((s.dev.yard y).resetting = false) && decide ((s.dev.yard y).tdi = 1 ∨
        (s.dev.yard y).tdi = 2)) : Bool) = true ∧
    ((let s : State := { dev := (wTdi 2), pending := [] }; let y : Nat := 0;
      decide (sound s.dev = true) && decide (s.dev.ctl.hostUp = true) && decide (s.dev.ctl.tripped = false) &&
      decide (s.dev.present y = true) && decide (s.dev.sec.busy = false) &&
        decide ((s.dev.yard y).resetting = false)) : Bool) = true ∧
    ((let s : State := { dev := (wTdi 1), pending := [] }; let y : Nat := 0;
      decide (sound s.dev = true) && decide (s.dev.ctl.hostUp = true) && decide (s.dev.ctl.tripped = false) &&
      decide (s.dev.present y = true) && decide (s.dev.sec.busy = false) &&
      decide ((s.dev.yard y).resetting = false) && decide ((s.dev.yard y).tdi = 1)) : Bool) = true ∧
    ((let s : State := { dev := (wTdi 3), pending := [] }; let y : Nat := 0;
      decide (sound s.dev = true) && decide (s.dev.ctl.hostUp = true) && decide (s.dev.ctl.tripped = false) &&
      decide (s.dev.present y = true) && decide (s.dev.sec.busy = false) &&
        decide ((s.dev.yard y).resetting = false)) : Bool) = true ∧
    ((let s : State := { dev := (wTdi 1), pending := [] }; let y : Nat := 0;
      decide (sound s.dev = true) && decide (s.dev.ctl.hostUp = true) && decide (s.dev.ctl.tripped = false) &&
      decide (s.dev.present y = true) && decide (s.dev.sec.busy = false) &&
      decide ((s.dev.yard y).resetting = false) && decide ((s.dev.yard y).tdi ≠ 0)) : Bool) = true ∧
    ((let s : State := { dev := (wTdi 0), pending := [] }; let y : Nat := 0;
      decide (sound s.dev = true) && decide (s.dev.ctl.hostUp = true) && decide (s.dev.ctl.tripped = false) &&
      decide (s.dev.present y = true) && decide (s.dev.sec.busy = false) &&
      decide ((s.dev.yard y).resetting = false) && decide (¬((s.dev.yard y).tdi = 1 ∨
        (s.dev.yard y).tdi = 2))) : Bool) = true ∧
    ((let s : State := { dev := (wTdi 0), pending := [] }; let y : Nat := 0;
      decide (sound s.dev = true) && decide (s.dev.ctl.hostUp = true) && decide (s.dev.ctl.tripped = false) &&
      decide (s.dev.present y = true) && decide (s.dev.sec.busy = false) &&
      decide ((s.dev.yard y).resetting = false) && decide ((s.dev.yard y).tdi ≠ 1)) : Bool) = true ∧
    ((let s : State := { dev := (wSpdm 3 id true), pending := [] }; let id : Nat := 4; let n : Nat := 2;
      decide (sound s.dev = true) && decide (servesIn s.dev .pfDoe id = true) && decide (n < 5)) : Bool) = true := by
  refine ⟨?_, ?_, ?_, ?_, ?_, ?_, ?_, ?_, ?_, ?_, ?_⟩ <;> decide +kernel

/-- The hypotheses of every clause of KeysLifeCycleFirmware are met, clause by clause. -/
theorem meets_KeysLifeCycleFirmware :
    ((let s : State := { dev := (put (wSpdm 3 id true) R.SEC_STATUS_LIFECYCLE 2), pending := [] };
      let tr : Transport := .pfDoe; let id : Nat := 4; let y : Nat := 0;
      decide (sound s.dev = true) && decide (servesIn s.dev tr id = true) &&
        decide (s.dev.setKeysStatus tr y = 0)) : Bool) = true ∧
    ((let s : State := { dev := (wSpdm 3 id true), pending := [] }; let tr : Transport := .pfDoe;
      let install : Bool := true; let slot : Nat := 0; let rk : List Byte := [1]; let hk : List Byte := [2];
      let a : Auth := mkAuth;
      decide (sound s.dev = true) && decide (serves s.dev tr 3 = true) && decide (tr = .pfDoe ∨ tr = .mctp) &&
      decide (s.dev.operatorStatus install slot rk hk a = 0) && decide (s.dev.sec.opKeys.length = 4)) : Bool) = true ∧
    ((let s : State := { dev := (wSpdm 3 id true), pending := [] }; let tr : Transport := .pfDoe;
      decide (sound s.dev = true) && decide (serves s.dev tr 3 = true) && decide (tr = .pfDoe ∨
        tr = .mctp)) : Bool) = true ∧
    ((let s : State := { dev := (wFw 4), pending := [] };
      decide (sound s.dev = true) && decide (s.dev.pfOk = true) && decide (s.dev.sec.busy = false) &&
      decide (s.dev.fld R.SEC_FW_STATUS_STATE ∈ [0, 3, 4])) : Bool) = true ∧
    ((let s : State := { dev := (wFw 1), pending := [] };
      decide (sound s.dev = true) &&
      decide (s.dev.fld R.SEC_FW_STATUS_STATE = 1 ∨ s.dev.fld R.SEC_FW_STATUS_STATE = 2)) : Bool) = true ∧
    ((let s : State := { dev := (setS (wFw 3) (fun x => { x with spStaged := some [] })), pending := [] };
      decide (sound s.dev = true) && decide (s.dev.pfOk = true) && decide (s.dev.fld R.SEC_FW_STATUS_STATE = 3) &&
      decide (s.dev.sec.spStaged.isSome = true) && decide (s.dev.sec.busy = false) &&
      decide ((List.range 12).any (fun b => s.dev.bayState b == 2) = false)) : Bool) = true ∧
    ((let s : State := { dev := (wFw 4), pending := [] };
      decide (sound s.dev = true) && decide (s.dev.pfOk = true) && decide (s.dev.sec.busy = false) &&
      decide (s.dev.fld R.SEC_FW_STATUS_STATE ∈ [0, 3, 4])) : Bool) = true ∧
    ((let s : State := { dev := (setS (wFw 5) (fun x => { x with busy := true, spStaged := some [1] })), pending := [] };
      decide (sound s.dev = true) && decide (s.dev.sec.busy = true) &&
        decide (s.dev.ctl.tripped = false)) : Bool) = true := by
  refine ⟨?_, ?_, ?_, ?_, ?_, ?_, ?_, ?_⟩ <;> decide +kernel

/-- The hypotheses of every clause of DebugAndJtag are met, clause by clause. -/
theorem meets_DebugAndJtag :
    ((let s : State := { dev := wYard, pending := [] }; let target : Nat := 3;
      decide (sound s.dev = true) && decide (s.dev.ctl.tripped = false) && decide (target < 12 ∨ target = 0xFF) &&
      decide (!(s.dev.fld R.CRP_PSTATE_STATUS_STATE == 2 && bit s.dev.parked (min target 12)) = true) &&
      decide (debugOutcome (s.dev.fld R.SEC_STATUS_LIFECYCLE) (s.dev.targetConf (min target 12)) false (s.dev.fld R.CRP_PSTATE_STATUS_STATE == 3) = 1)) : Bool) = true ∧
    ((let s : State := { dev := (put wYard R.SEC_STATUS_LIFECYCLE 3), pending := [] }; let target : Nat := 3;
      decide (sound s.dev = true) && decide (s.dev.ctl.tripped = false) && decide (target < 12 ∨ target = 0xFF) &&
      decide (!(s.dev.fld R.CRP_PSTATE_STATUS_STATE == 2 && bit s.dev.parked (min target 12)) = true) &&
      decide (debugOutcome (s.dev.fld R.SEC_STATUS_LIFECYCLE) (s.dev.targetConf (min target 12)) true (s.dev.fld R.CRP_PSTATE_STATUS_STATE == 3) = 1)) : Bool) = true ∧
    ((let s : State := { dev := (put wYard R.SEC_STATUS_LIFECYCLE 5), pending := [] }; let target : Nat := 3;
      decide (sound s.dev = true) && decide (s.dev.ctl.tripped = false) && decide (target < 12 ∨ target = 0xFF) &&
      decide (!(s.dev.fld R.CRP_PSTATE_STATUS_STATE == 2 && bit s.dev.parked (min target 12)) = true) &&
      decide (debugOutcome (s.dev.fld R.SEC_STATUS_LIFECYCLE) (s.dev.targetConf (min target 12)) false (s.dev.fld R.CRP_PSTATE_STATUS_STATE == 3) = 2)) : Bool) = true ∧
    ((let s : State := { dev := (put wYard R.SEC_STATUS_LIFECYCLE 5), pending := [] }; let target : Nat := 3;
      decide (sound s.dev = true) && decide (s.dev.ctl.tripped = false) && decide (target < 12 ∨ target = 0xFF) &&
      decide (!(s.dev.fld R.CRP_PSTATE_STATUS_STATE == 2 && bit s.dev.parked (min target 12)) = true) &&
      decide (debugOutcome (s.dev.fld R.SEC_STATUS_LIFECYCLE) (s.dev.targetConf (min target 12)) true (s.dev.fld R.CRP_PSTATE_STATUS_STATE == 3) = 2)) : Bool) = true ∧
    ((let s : State := { dev := (setS wYard (fun x => { x with traceOn := 5, haltOn := 2 })), pending := [] };
      let v : Nat := 1;
      decide (sound s.dev = true) && decide (s.dev.pfOk = true) && decide (bit v 0 = true)) : Bool) = true ∧
    ((let s : State := { dev := (put wYard R.SEC_STATUS_LIFECYCLE 4), pending := [] };
      decide (sound s.dev = true) && decide (s.dev.ctl.tripped = false) &&
      decide (s.dev.fld R.SEC_STATUS_LIFECYCLE = 0 ∨ s.dev.fld R.SEC_STATUS_LIFECYCLE = 4)) : Bool) = true ∧
    ((let s : State := { dev := wYard, pending := [] };
      decide (sound s.dev = true)) : Bool) = true ∧
    ((let s : State := { dev := wYard, pending := [] };
      decide (sound s.dev = true)) : Bool) = true ∧
    ((let s : State := { dev := wRake, pending := [] };
      decide (sound s.dev = true) && decide (s.dev.yardList.any (fun y => s.dev.fnState y == 2) = false)) : Bool) = true ∧
    ((let s : State := { dev := wRake, pending := [] };
      decide (sound s.dev = true) && decide (s.dev.yardList.any (fun y => s.dev.fnState y == 2) = false)) : Bool) = true ∧
    ((let s : State := { dev := wRake, pending := [] };
      decide (sound s.dev = true) && decide (s.dev.yardList.any (fun y => s.dev.fnState y == 2) = false)) : Bool) = true ∧
    ((let s : State := { dev := wRake, pending := [] };
      decide (sound s.dev = true) && decide (s.dev.yardList.any (fun y => s.dev.fnState y == 2) = false)) : Bool) = true ∧
    ((let s : State := { dev := wYard, pending := [] };
      decide (sound s.dev = true) && decide (s.dev.yardList.any (fun y => s.dev.fnState y == 2) = true)) : Bool) = true := by
  refine ⟨?_, ?_, ?_, ?_, ?_, ?_, ?_, ?_, ?_, ?_, ?_, ?_, ?_⟩ <;> decide +kernel

/-- The hypotheses of every clause of SealAndReset are met, clause by clause. -/
theorem meets_SealAndReset :
    ((let s : State := { dev := wSeal, pending := [] }; let y : Nat := 0; let len : Nat := 64; let p : Nat := 1;
      let g : Nat := 0; let o : Nat := 0;
      decide (sound s.dev = true) && decide (s.dev.yfOk y = true) && decide ((s.dev.yard y).fatal = false) &&
      decide (bit (s.dev.fld (R.YRD_SEAL_STATUS y)) 0 = false) && decide (s.dev.frozen y = false) &&
      decide (bits (s.dev.fld (R.YRD_SEAL_LEN y)) 0 36 = len) && decide (0 < len) && decide (len ≤ 2 ^ 36 - 32) &&
      decide (s.dev.sealLoc y false = .seg p g o) && decide (s.dev.mem.uc = []) &&
      decide ((0 :: s.dev.farPorts).all (fun q => s.dev.on (R.MEM_FAR_PORT_LINK_UP q)) = true) &&
      decide (s.dev.keyed y = true) && decide (s.dev.locOk y (s.dev.sealLoc y false) len = true) &&
      decide (s.dev.locOk y (s.dev.sealLoc y true) (len + 48) = true) &&
        decide ((s.dev.yard y).setSnap = none)) : Bool) = true ∧
    ((let s : State := { dev := (put wSeal (R.YRD_SEAL_CTX 0) 0x8000001), pending := [] }; let y : Nat := 0;
      let host : HostSide := { xl := .hit, data := [], bad := false }; let len : Nat := 64; let p : Nat := 1;
      let va : Nat := 0;
      decide (sound s.dev = true) && decide (s.dev.yfOk y = true) && decide ((s.dev.yard y).fatal = false) &&
      decide (bit (s.dev.fld (R.YRD_SEAL_STATUS y)) 0 = false) && decide (s.dev.frozen y = false) &&
      decide (bits (s.dev.fld (R.YRD_SEAL_LEN y)) 0 36 = len) && decide (0 < len) && decide (len ≤ 2 ^ 36 - 32) &&
      decide (s.dev.sealLoc y false = .host p va) && decide (host.xl = .hit) && decide (s.dev.canMaster y = true) &&
      decide ((s.dev.yard y).inval = []) && decide (host.bad = false) && decide (s.dev.keyed y = true) &&
      decide (s.dev.locOk y (s.dev.sealLoc y false) len = true) &&
      decide (s.dev.locOk y (s.dev.sealLoc y true) (len + 48) = true) &&
        decide ((s.dev.yard y).setSnap = none)) : Bool) = true ∧
    ((let s : State := { dev := wSeal, pending := [] }; let y : Nat := 0; let len : Nat := 64; let p : Nat := 1;
      let g : Nat := 0; let o : Nat := 0; let k : KeySet := { id := [], jms := [], mig := [] };
      decide (sound s.dev = true) && decide (s.dev.yfOk y = true) && decide ((s.dev.yard y).fatal = false) &&
      decide (bit (s.dev.fld (R.YRD_SEAL_STATUS y)) 0 = false) && decide (s.dev.frozen y = false) &&
      decide (bits (s.dev.fld (R.YRD_SEAL_LEN y)) 0 36 = len) && decide (0 < len) && decide (len ≤ 2 ^ 36 - 32) &&
      decide (s.dev.sealLoc y false = .seg p g o) && decide (s.dev.mem.uc = []) &&
      decide ((0 :: s.dev.farPorts).all (fun q => s.dev.on (R.MEM_FAR_PORT_LINK_UP q)) = true) &&
      decide ((s.dev.yard y).keys = some k) && decide (s.dev.locOk y (s.dev.sealLoc y false) (len + 48) = true) &&
      decide (s.dev.locOk y (s.dev.sealLoc y true) len = true) &&
        decide ((s.dev.yard y).setSnap = none)) : Bool) = true ∧
    ((let s : State := { dev := (put wSeal (R.YRD_SEAL_CTX 0) 0x8000001), pending := [] }; let y : Nat := 0;
      let host : HostSide := { xl := .hit, data := [], bad := false }; let len : Nat := 64; let p : Nat := 1;
      let va : Nat := 0; let k : KeySet := { id := [], jms := [], mig := [] };
      decide (sound s.dev = true) && decide (s.dev.yfOk y = true) && decide ((s.dev.yard y).fatal = false) &&
      decide (bit (s.dev.fld (R.YRD_SEAL_STATUS y)) 0 = false) && decide (s.dev.frozen y = false) &&
      decide (bits (s.dev.fld (R.YRD_SEAL_LEN y)) 0 36 = len) && decide (0 < len) && decide (len ≤ 2 ^ 36 - 32) &&
      decide (s.dev.sealLoc y false = .host p va) && decide (host.xl = .hit) && decide (s.dev.canMaster y = true) &&
      decide ((s.dev.yard y).inval = []) && decide (host.bad = false) && decide ((s.dev.yard y).keys = some k) &&
      decide (s.dev.locOk y (s.dev.sealLoc y false) (len + 48) = true) &&
      decide (s.dev.locOk y (s.dev.sealLoc y true) len = true) &&
        decide ((s.dev.yard y).setSnap = none)) : Bool) = true ∧
    ((let s : State := { dev := (setY wSeal 0 (fun r => { r with sealJob := some { result := 2, outLen := 0, bytes := [] } })), pending := [] }; let y : Nat := 0; let j : SealJob := { result := 2, outLen := 0, bytes := [] };
      decide (sound s.dev = true) && decide (s.dev.yfOk y = true) && decide ((s.dev.yard y).sealWait = none) &&
      decide ((s.dev.yard y).sealJob = some j) && decide (j.result ≠ 0) && decide (j.result < 256)) : Bool) = true ∧
    ((let s : State := { dev := (setY wSeal 0 (fun r => { r with sealJob := some { result := 0, outLen := 3, bytes := [1, 2, 3] } })), pending := [] }; let y : Nat := 0; let j : SealJob := { result := 0, outLen := 3, bytes := [1, 2, 3] }; let p : Nat := 1; let g : Nat := 0; let o : Nat := 8192; let t : Nat := 0; let a : Nat := 8192;
      decide (sound s.dev = true) && decide (s.dev.yfOk y = true) && decide ((s.dev.yard y).sealWait = none) &&
      decide ((s.dev.yard y).sealJob = some j) && decide (j.result = 0) && decide (j.outLen < 2 ^ 64) &&
      decide (s.dev.sealLoc y true = .seg p g o) && decide (s.dev.segAt y p g o j.bytes.length = some (t, a)) &&
      decide (s.dev.mem.uc = []) &&
      decide ((0 :: s.dev.farPorts).all (fun q => s.dev.on (R.MEM_FAR_PORT_LINK_UP q)) = true) &&
      decide (unbanked s.dev y = true)) : Bool) = true ∧
    ((let s : State := { dev := (put (setY wSeal 0 (fun r => { r with sealJob := some { result := 0, outLen := 3, bytes := [1, 2, 3] } })) (R.YRD_SEAL_CTX 0) 0x0800001), pending := [] }; let y : Nat := 0; let j : SealJob := { result := 0, outLen := 3, bytes := [1, 2, 3] }; let p : Nat := 1; let va : Nat := 8192;
      decide (sound s.dev = true) && decide (s.dev.yfOk y = true) && decide ((s.dev.yard y).sealWait = none) &&
      decide ((s.dev.yard y).sealJob = some j) && decide (j.result = 0) && decide (j.outLen < 2 ^ 64) &&
      decide (s.dev.sealLoc y true = .host p va) && decide (s.dev.canMaster y = true) &&
      decide ((s.dev.yard y).inval = [])) : Bool) = true ∧
    ((let s : State := { dev := (wConn id), pending := [] }; let y : Nat := 0;
      decide (sound s.dev = true) && decide (s.dev.ctl.tripped = false) &&
        decide (s.dev.isYard y = true)) : Bool) = true ∧
    ((let s : State := { dev := (put (wConn id) R.SEC_STATUS_TAMPER_NOW 1), pending := [] };
      decide (sound s.dev = true)) : Bool) = true ∧
    ((let s : State := { dev := (wConn id), pending := [] };
      decide (sound s.dev = true)) : Bool) = true ∧
    ((let s : State := { dev := (wConn id), pending := [] };
      decide (sound s.dev = true)) : Bool) = true ∧
    ((let s : State := { dev := (wConn id), pending := [] };
      decide (sound s.dev = true) && decide (s.dev.ctl.tripped = false) &&
      decide (s.dev.fld R.SEC_STATUS_TAMPER_NOW = 0)) : Bool) = true := by
  refine ⟨?_, ?_, ?_, ?_, ?_, ?_, ?_, ?_, ?_, ?_, ?_, ?_⟩ <;> decide +kernel

end Sys2Proof.Test
end

/-! PROOFS. A beat whose output page is being invalidated does not execute (R340, log 42); a state in which such a beat meets
every hypothesis of the first clause of PanCommands refutes it. -/

namespace Sys2Proof.Machine

variable {d0 : Dev}

/-! ### Contexts of a pan -/

/-- Showing BUSY and READY writes registers only. -/
theorem showPan_pans (i : Nat) (s : Dv d0) : ((showPan i : M d0 Unit) s).2.val.pans = s.val.pans := by
  simp only [showPan, dev_bind_run]
  cases s.val.yardOf (i / 4) <;> rfl

/-- A change of a context changes its pan's list of contexts at its place, and no other pan. -/
theorem modCtx_pans (i x : Nat) (f : Ctx → Ctx) (s : Dv d0) : ((modCtx i x f : M d0 Unit) s).2.val.pans =
    s.val.pans.set i { s.val.pan i with ctxs := (s.val.pan i).ctxs.set x (f (s.val.ctx i x)) } := by
  rw [modCtx, bind_run, showPan_pans]
  rfl

/-- Only a context that exists, of a pan that exists, holds a run. -/
theorem ctx_in_range {d : Dev} {i x : Nat} {r : RunSpec} (h : (d.ctx i x).spec = some r) :
    i < d.pans.length ∧ x < (d.pan i).ctxs.length := by
  have hx : x < (d.pan i).ctxs.length := by
    rcases Nat.lt_or_ge x (d.pan i).ctxs.length with hx | hx
    · exact hx
    · rw [Dev.ctx, List.getD_eq_getElem?_getD, List.getElem?_eq_none hx] at h
      cases h
  refine ⟨?_, hx⟩
  rcases Nat.lt_or_ge i d.pans.length with hi | hi
  · exact hi
  · have hp : d.pan i = Pan.reset := by
      rw [Dev.pan, List.getD_eq_getElem?_getD, List.getElem?_eq_none hi]
      rfl
    rw [hp, Pan.reset, List.length_replicate] at hx
    rw [Dev.ctx, hp, Pan.reset, List.getD_eq_getElem?_getD, List.getElem?_replicate_of_lt hx] at h
    cases h

/-- A context that holds a run reads as what it was changed to. -/
theorem ctx_modCtx_same {i x : Nat} {r : RunSpec} (f : Ctx → Ctx) (s : Dv d0) (h : (s.val.ctx i x).spec = some r) :
    ((modCtx i x f : M d0 Unit) s).2.val.ctx i x = f (s.val.ctx i x) := by
  obtain ⟨hi, hx⟩ := ctx_in_range h
  have hpan : ((modCtx i x f : M d0 Unit) s).2.val.pan i =
      { s.val.pan i with ctxs := (s.val.pan i).ctxs.set x (f (s.val.ctx i x)) } := by
    rw [Dev.pan, modCtx_pans, List.getD_eq_getElem?_getD, List.getElem?_set_self hi]
    rfl
  rw [Dev.ctx, hpan, List.getD_eq_getElem?_getD, List.getElem?_set_self hx]
  rfl

/-! ### A beat that is held -/

/-- Whether beat `beat` of a run writes to host memory on a page whose translation is being invalidated (R340). -/
def RunSpec.held (r : RunSpec) (d : Dev) (y beat : Nat) : Bool :=
  match r.dst with
  | .at (.host q v) _ => r.writes beat &&
      d.invalidating y q (v + elemBytes r.prog.outFmt (r.outElem beat)) (elemBytes r.prog.outFmt r.prog.lanes)
  | _ => false

/-- A held context: in WAIT, its operands to be fetched again. -/
def Ctx.rewait (c : Ctx) : Ctx := { c with st := .wait, ops := [], ahead := none }

/-- PAN_BEAT of a held beat puts the chosen context back in WAIT and does nothing else. -/
theorem panBeat_held {s : State} {b k y x : Nat} {r : RunSpec} (hy : s.dev.yardOf b = some y)
    (hx : (s.dev.pan (4 * b + k)).choose = some x) (hl : s.dev.live y = true)
    (hw : s.dev.panWorks (4 * b + k) = true) (hr : (s.dev.ctx (4 * b + k) x).spec = some r)
    (hh : r.held s.dev y (s.dev.ctx (4 * b + k) x).beat = true) :
    exec (.panBeat b k) s = perform s (modCtx (4 * b + k) x Ctx.rewait) := by
  have hexec : exec (.panBeat b k) s = execPanBeat b k s := rfl
  rw [hexec, execPanBeat, perform_eq, perform_eq]
  simp only [dev_bind_run, hy, hx, hl, hw, hr, ite_run, Bool.not_true, Bool.or_self, Bool.false_eq_true, if_false]
  unfold RunSpec.held at hh
  split at hh
  case h_1 q v sq hdst =>
    simp only [hdst, hh, if_true]
    rfl
  case h_2 => cases hh

/-- A held beat is not counted: the context keeps its beat number. -/
theorem panBeat_held_beat {s t : State} {b k y x : Nat} {r : RunSpec} (hy : s.dev.yardOf b = some y)
    (hx : (s.dev.pan (4 * b + k)).choose = some x) (hl : s.dev.live y = true)
    (hw : s.dev.panWorks (4 * b + k) = true) (hr : (s.dev.ctx (4 * b + k) x).spec = some r)
    (hh : r.held s.dev y (s.dev.ctx (4 * b + k) x).beat = true) (ht : exec (.panBeat b k) s = .next t) :
    (t.dev.ctx (4 * b + k) x).beat = (s.dev.ctx (4 * b + k) x).beat := by
  rw [panBeat_held hy hx hl hw hr hh, perform_eq] at ht
  cases ht
  rw [ctx_modCtx_same Ctx.rewait _ hr]
  rfl

end Sys2Proof.Machine

namespace Sys2Proof

open Machine

/-! ### The counterexample -/

/-- A run of four beats whose program stores W0, 32 FP32 lanes a beat, to PASID 3 of host memory from page 7 on. -/
def storeRun : RunSpec :=
  { prog := { id := 1, lanes := 32, inFmts := [], outFmt := some .fp32, usesSr := false,
              code := [{ opc := 0x02, fmt := 0, rnd := 0, sat := false, cond := 0, dst := 0, sa := 0, sb := 0, sc := 0,
                         acc := 0, imm := 0 }] }
    beats := 4, period := 4, base := 0, pos := 0, elems := []
    key := { seed := 0, stepCount := 0, member := 0, stream := 0 }
    weight := 8, scalars := [], ins := [], dst := .at (.host 3 0x7000) (.host 3 0), chunk := none }

/-- The device after a cold reset with one yard of twelve bays laid out, its function ENABLED and far port 0 up; context 2 of
pan 1 is READY for the first beat of `storeRun`, and the host is invalidating page 7 of PASID 3. -/
def invalidatingDev : Dev :=
  { Dev.reset with
    regs := Tab.setNum (Tab.setNum Dev.reset.regs (R.MEM_FAR_PORT_LINK_UP 0).key 1) (R.BAY_FN_STATE_STATE 0).key 2
    lay := { Lay.reset with cur := { Layout.none with n := 1, enable := 1 } }
    yards := [(0, { Yard.empty with inval := [(3, 7, 1)] })]
    pans := Dev.reset.pans.set 1 { Pan.reset with
      ctxs := Pan.reset.ctxs.set 2 { Ctx.empty with st := .ready, spec := some storeRun, regs := PanRegs.start 32 } } }

/-- Refutes O31: its first clause does not ask that no translation of the yard is being invalidated. In `invalidatingDev`
every hypothesis of the clause holds, but the first beat of `storeRun` waits for the end of the invalidation (R340), so the
beat number stays 0, where the clause claims 1. -/
theorem not_panCommands : ¬ Obligations.PanCommands := by
  rintro ⟨hbeat, -⟩
  have hyard : invalidatingDev.yardOf 0 = some 0 := by decide +kernel
  have hlive : invalidatingDev.live 0 = true := by decide +kernel
  have hworks : invalidatingDev.panWorks (4 * 0 + 1) = true := by decide +kernel
  have hchosen : (invalidatingDev.pan (4 * 0 + 1)).choose = some 2 := by decide +kernel
  have hspec : (invalidatingDev.ctx (4 * 0 + 1) 2).spec = some storeRun := by decide +kernel
  have hheld : storeRun.held invalidatingDev 0 (invalidatingDev.ctx (4 * 0 + 1) 2).beat = true := by decide +kernel
  obtain ⟨t, hexec, -, hmoved, -⟩ := hbeat { dev := invalidatingDev, pending := [] } 0 1 0 2 storeRun
    (by decide +kernel) (by decide) hyard hlive hworks hchosen hspec (by decide +kernel) rfl (by decide +kernel)
    (by decide +kernel)
  have hstays := panBeat_held_beat (s := { dev := invalidatingDev, pending := [] }) hyard hchosen hlive hworks hspec
    hheld hexec
  rw [hmoved] at hstays
  exact Nat.succ_ne_self _ hstays

end Sys2Proof

/-! PROOFS. Two statements on the seal circuit fail. A SEAL that reaches a member in SEALING is not passed on when the member's
own successor hop cannot carry it (R257, R430); and the statements allow a communicator beyond the 768 of R163, whose
TRN_COMM_LAST would stand at TRN_COMM_DOUBT. -/

namespace Sys2Proof.Machine

variable {d0 : Dev}

/-! ### Control packets of the current op -/

/-- The record of a yard that has accepted a first packet from `src`: a row more in the replay table of its lowest bay. -/
def Yard.heard (r : Yard) (src nonce : Nat) : Yard :=
  { r with replay := r.replay.set 0 ({ src := src, high := nonce, seen := [0] } :: r.replay.getD 0 []) }

/-- The device after that. -/
def Dev.heard (d : Dev) (y src nonce : Nat) : Dev := applyAct d (.yard y ((d.yard y).heard src nonce))

theorem Steps.heard {d : Dev} (h : Steps d0 d) (y src nonce : Nat) : Steps d0 (d.heard y src nonce) := h.act _

/-- The first packet from a source is accepted while the replay table has a free row (R433). -/
theorem replayOk_first {y src nonce : Nat} {s : Dv d0}
    (hnew : ((s.val.yard y).replay.getD 0 []).all (fun e => e.src != src) = true)
    (hroom : ((s.val.yard y).replay.getD 0 []).length < 2048) :
    (replayOk y y src nonce : M d0 Bool) s = (true, ⟨s.val.heard y src nonce, s.property.heard ..⟩) := by
  have hfind : ((s.val.yard y).replay.getD 0 []).find? (fun e => e.src == src) = none := by
    simpa [List.find?_eq_none] using hnew
  simp only [replayOk, dev_bind_run, Nat.sub_self, hfind, ite_run, Nat.not_le.2 hroom, if_false]
  rfl

/-- A yard that takes in ring control consumes the packet. -/
theorem yardHears_run {y : Nat} {s : Dv d0} (h : s.val.hears y = true) : (yardHears y : M d0 Bool) s = (true, s) := by
  simp only [yardHears, dev_bind_run, ite_run, h, if_true]
  rfl

/-! What decides whether a ring packet is current, and what it does, does not look at the replay table. -/

section

variable (d : Dev) (y src nonce c : Nat)

@[simp] theorem comm_heard : (d.heard y src nonce).comm y c = d.comm y c := rfl

@[simp] theorem commSt_heard : (d.heard y src nonce).commSt y c = d.commSt y c := rfl

@[simp] theorem hopIs_heard (k : CommDecl) (back : Bool) (w : Option WrtHdr) :
    (d.heard y src nonce).hopIs y k back w = d.hopIs y k back w := rfl

@[simp] theorem commAt_heard (r : Nat) : (d.heard y src nonce).commAt y r = d.commAt y r := by
  simp only [Dev.commAt, Dev.heard, yard_act, if_true, Yard.heard]

@[simp] theorem decl_heard : (d.heard y src nonce).decl y c = d.decl y c := by
  simp only [Dev.decl, Dev.heard, yard_act, if_true, Yard.heard]

@[simp] theorem currentOp_heard (back : Bool) (from_ step opseq attempt : Nat) :
    (d.heard y src nonce).currentOp y c back from_ step opseq attempt = d.currentOp y c back from_ step opseq attempt := by
  simp only [Dev.currentOp, decl_heard]
  rfl

@[simp] theorem undecided_heard : (d.heard y src nonce).undecided y c = d.undecided y c := by
  simp only [Dev.undecided, Dev.heard, yard_act, if_true, Yard.heard]
  rfl

end

/-- A control packet that yard `y` acts on for communicator `c`: it comes over the W-link that the declaration names, from a
source that is new to the replay table, and belongs to the current op (R132, R144, R433). -/
structure Dev.ActsOn (d : Dev) (y c : Nat) (h : CtlHdr) (k : CommDecl) (x : Comm) : Prop where
  hears : d.hears y = true
  decl : d.decl y c = some k
  comm : d.comm y c = some x
  commAt : d.commAt y h.ringId = some c
  link : h.wrt = none
  keyed : d.keyed y = true
  hop : d.hopIs y k h.back none = true
  unseen : ((d.yard y).replay.getD 0 []).all (fun e => e.src != h.src) = true
  room : ((d.yard y).replay.getD 0 []).length < 2048
  current : d.currentOp y c h.back h.src h.step h.opseq h.attempt = true

/-- Such a packet is acted on, once the replay table has accepted it. -/
theorem takeCtl_actsOn {y c : Nat} {h : CtlHdr} {k : CommDecl} {x : Comm} {s : Dv d0}
    (f : Nat → CommDecl → Comm → M d0 Unit) (ha : s.val.ActsOn y c h k x) : (takeCtl y h true f : M d0 Unit) s =
      f c k x ⟨s.val.heard y h.src h.nonce, s.property.heard ..⟩ := by
  obtain ⟨hhears, hdecl, hcomm, hat, hlink, hkey, hhop, hnew, hroom, hcur⟩ := ha
  have htake : (hopTake y none true false : M d0 Bool) s = (true, s) := by
    simp only [hopTake, dev_bind_run, hkey]
    rfl
  rw [takeCtl, bind_run, yardHears_run hhears]
  simp only [Bool.not_true, Bool.false_eq_true, if_false, hlink, Option.isNone_none, if_true]
  rw [bind_run, htake]
  simp only [Bool.not_true, Bool.false_eq_true, if_false]
  rw [bind_run, replayOk_first hnew hroom]
  simp only [Bool.not_true, Bool.false_eq_true, if_false, dev_bind_run, commAt_heard, hat, decl_heard, hdecl, comm_heard,
    hcomm, hopIs_heard, hhop, currentOp_heard, hcur]

/-- A SEAL that reaches a member in SEALING goes to `sealOn`, which passes it on or fails the SEAL step (R147, R430). -/
theorem sealPacket_sealing {s t : State} {y c : Nat} {h : CtlHdr} {k : CommDecl} {x : Comm}
    (ha : s.dev.ActsOn y c h k x) (hpos : k.pos ≠ 0) (hback : h.back = false) (hund : s.dev.undecided y c = true)
    (hst : s.dev.commSt y c = 2) (ht : exec (.sealPacket y h true) s = .next t) : t.dev =
      ((sealOn y c h : M s.dev Unit) ⟨s.dev.heard y h.src h.nonce, (Steps.refl s.dev).heard ..⟩).2.val := by
  have hexec : exec (.sealPacket y h true) s = execSealPacket y h true s := rfl
  rw [hexec, execSealPacket, perform_eq, takeCtl_actsOn (s := ⟨s.dev, Steps.refl s.dev⟩) _ ha] at ht
  cases ht
  simp [hpos, hback, hund, hst]

/-- A SEAL that returns to the coordinator with CHECK clear decides ABORT (R148). -/
theorem sealReturn_failed {s t : State} {y c : Nat} {h : CtlHdr} {k : CommDecl} {x : Comm}
    (ha : s.dev.ActsOn y c h k x) (hpos : k.pos = 0) (hback : h.back = false) (hst : s.dev.commSt y c = 2)
    (hkept : x.kept = none) (hcheck : h.check = false) (ht : exec (.sealReturn y h true) s = .next t) : t.dev =
      ((decideOp y c false h.code h.origin h.originValid h.cause : M s.dev Unit)
        ⟨s.dev.heard y h.src h.nonce, (Steps.refl s.dev).heard ..⟩).2.val := by
  have hexec : exec (.sealReturn y h true) s = execSealReturn y h true s := rfl
  rw [hexec, execSealReturn, perform_eq, takeCtl_actsOn (s := ⟨s.dev, Steps.refl s.dev⟩) _ ha] at ht
  cases ht
  simp [hpos, hback, hst, hkept, hcheck]

/-! ### The place of TRN_COMM_LAST -/

/-- TRN_COMM_LAST of an 897th communicator would be the register TRN_COMM_DOUBT: its CODE reads as the low bits of COUNT. -/
theorem lastCode_897th (d : Dev) (y : Nat) :
    bits (d.fld (R.TRN_COMM_LAST y 896)) 0 8 = d.fld (R.TRN_COMM_DOUBT_COUNT y) % 2 ^ 8 := by
  have hkey : (R.TRN_COMM_LAST y 896).key = (R.TRN_COMM_DOUBT_COUNT y).key := by
    simp only [R.TRN_COMM_LAST, R.TRN_COMM_DOUBT_COUNT, Nat.add_assoc, Nat.reduceMul, Nat.reduceAdd]
  simp only [Dev.fld, hkey]
  simp only [bits, R.TRN_COMM_LAST, R.TRN_COMM_DOUBT_COUNT, Nat.pow_zero, Nat.div_one]
  omega

/-! ### A member in SEALING -/

/-- A SEAL step of communicator `c`. -/
def sealStep (c : Nat) : Step :=
  { type := tSeal, flags := 0, wd := 0, prog := 0xFFFF, comm := c, seed := 0xFF, stream := 0, baseLevel := 0xFF, period := 0,
    count := 0, base := 0, in0 := ⟨0xFFFF, 0xFF, 0, 0, 0⟩, in1 := ⟨0xFFFF, 0xFF, 0, 0, 0⟩, in2 := ⟨0xFFFF, 0xFF, 0, 0, 0⟩,
    out := ⟨0xFFFF, 0xFF, 0, 0, 0⟩, pans := 0, spec := [] }

/-- A plan whose one thread runs the SEAL of communicator `c`; it declares one connection. -/
def sealPlan (c : Nat) (comms : List CommDecl) : Plan :=
  { image := [], member := 0, watchdog := 0, threads := [(0, 1)], panMask := 0, contexts := 0, seedMask := 0, conns := 1,
    loft := 0, near := 0, far := 0, slots := 0, eventMask := 0, bufs := [], comms := comms, progs := [],
    steps := [sealStep c], tables := [] }

/-- That thread with its SEAL active. -/
def sealThread : Thr :=
  { pc := 0, stop := 1, loops := [], waiting := false
    active := some { step := 0, env := [0, 0, 0, 0], code := none, runs := [], live := false, lap := none, stream := none,
                     origin := none } }

/-- Member `pos` of a ring of three: a W-link from its predecessor, and a hop of kind `succHop` to its successor. -/
def ringMember (ringId pos succHop : Nat) : CommDecl :=
  { ringId := ringId, n := 3, pos := pos, predHop := 0, succHop := succHop, predAddr := 0x200, succAddr := 0x201,
    predConn := 0, succConn := 0, slots := 4, landGroup := 0xFFFF, landBuf := 0, weight := 8 }

/-- One yard of twelve bays, ASSIGNED and ENABLED, that holds a key set and runs the SEAL of communicator `c`, which is in
SEALING; a register that is not named holds 0, and no connection is READY. -/
def sealingState (c : Nat) (comms : List CommDecl) : State :=
  { pending := []
    dev := { Dev.reset with
      regs := Tab.setNum (Tab.setNum (Tab.setNum [] R.LAY_BAY_STATE.key 0x555555) (R.BAY_FN_STATE_STATE 0).key 2)
        (R.TRN_COMM_STATE 0 c).key 2
      lay := { Lay.reset with cur := { Layout.none with
        n := 1, enable := 1, addr := (List.range 12).map (fun b => 0x100 + b) } }
      yards := [(0, { Yard.empty with
        plan := some (sealPlan c comms), running := true, endless := true, thrs := [sealThread],
        keys := some { id := [], jms := [], mig := [] } })]
      comms := [(yk 0 c, Comm.loaded (ringMember 9 0 0))] } }

/-- The SEAL as the coordinator has sent it. -/
def startedSeal : CtlHdr :=
  { back := false, src := 0x200, nonce := 5, ringId := 9, attempt := 0, opseq := 0, step := 0, check := true,
    code := 0, origin := 0, originValid := false, cause := 0, verdict := 0, passed := 1 }

/-- The SEAL as it returns once member 2 has been stopped: CHECK 0, and the code of its abort. -/
def failedSeal : CtlHdr :=
  { startedSeal with check := false, code := cCollAbortPeer, origin := 2, originValid := true, passed := 3 }

/-- Member 1 in SEALING, whose WRT hop to its successor has a connection that is FREE. -/
def successorDown : State := sealingState 0 [ringMember 9 1 1]

/-- The coordinator of the 897th communicator of a plan, in SEALING; the others have RING_ID 0. -/
def crowded : State := sealingState 896 (List.replicate 896 (ringMember 0 0 0) ++ [ringMember 9 0 0])

/-- A RING_ID that the last declaration alone has names that declaration. -/
theorem find_ringId_last {a b : CommDecl} (n : Nat) (hab : a.ringId ≠ b.ringId) :
    (List.range (List.replicate n a ++ [b]).length).find?
      (fun c => ((List.replicate n a ++ [b])[c]?).map (fun x => x.ringId) == some b.ringId) = some n := by
  rw [List.find?_range_eq_some]
  refine ⟨by simp, by simp, fun c hc => ?_⟩
  rw [List.getElem?_append_left (by simpa using hc), List.getElem?_replicate_of_lt hc]
  simpa using hab

theorem commAt_crowded : crowded.dev.commAt 0 failedSeal.ringId = some 896 := by
  have hplan : (crowded.dev.yard 0).plan =
      some (sealPlan 896 (List.replicate 896 (ringMember 0 0 0) ++ [ringMember 9 0 0])) := rfl
  rw [Dev.commAt, hplan]
  exact find_ringId_last (b := ringMember 9 0 0) 896 (by decide)

/-- The SEAL reaches the member whose successor is down. -/
theorem actsOn_successorDown :
    successorDown.dev.ActsOn 0 0 startedSeal (ringMember 9 1 1) (Comm.loaded (ringMember 9 0 0)) where
  hears := by decide +kernel
  decl := by decide +kernel
  comm := by decide +kernel
  commAt := by decide +kernel
  link := rfl
  keyed := by decide +kernel
  hop := by decide +kernel
  unseen := by decide +kernel
  room := by decide +kernel
  current := by decide +kernel

/-- The SEAL returns to the coordinator of the 897th communicator. -/
theorem actsOn_crowded : crowded.dev.ActsOn 0 896 failedSeal (ringMember 9 0 0) (Comm.loaded (ringMember 9 0 0)) where
  hears := by decide +kernel
  decl := by decide +kernel
  comm := by decide +kernel
  commAt := commAt_crowded
  link := rfl
  keyed := by decide +kernel
  hop := by decide +kernel
  unseen := by decide +kernel
  room := by decide +kernel
  current := by decide +kernel

end Sys2Proof.Machine

namespace Sys2Proof

open Machine

/-- Refutes O33: its sixth clause fixes the hop from the predecessor and leaves the hop to the successor open. In
`successorDown` that hop is a WRT connection that is not READY, so the SEAL is not passed on: the SEAL step fails with
TARGET_UNAVAILABLE (R257), and the member is STOPPED (R151) where the clause claims PREPARED. -/
theorem not_ringPacketsAndCredits : ¬ Obligations.RingPacketsAndCredits := by
  rintro ⟨-, -, -, -, -, hpassed, -⟩
  have hsound : sound successorDown.dev = true := by decide +kernel
  have ha := actsOn_successorDown
  have hpos : (ringMember 9 1 1).pos ≠ 0 := by decide
  have hund : successorDown.dev.undecided 0 0 = true := by decide +kernel
  have hst : successorDown.dev.commSt 0 0 = 2 := by decide +kernel
  have hstopped : ((sealOn 0 0 startedSeal : M successorDown.dev Unit)
      ⟨successorDown.dev.heard 0 startedSeal.src startedSeal.nonce, (Steps.refl successorDown.dev).heard ..⟩).2.val.commSt 0 0
        = 4 := by decide +kernel
  obtain ⟨t, hexec, -, hprepared, -⟩ := hpassed successorDown 0 startedSeal 0 (ringMember 9 1 1) _ hsound ha.hears ha.decl
    ha.comm ha.commAt ha.link ha.keyed rfl rfl ha.unseen ha.room ha.current hpos hund hst
  rw [sealPacket_sealing ha hpos rfl hund hst hexec, hstopped] at hprepared
  exact absurd hprepared (by decide)

/-- Refutes O34: its second clause allows a communicator that no yard has (R163 gives a yard 768). In `crowded` the SEAL that
returns to the coordinator of the 897th decides ABORT, but its TRN_COMM_LAST stands at TRN_COMM_DOUBT, so that its CODE reads
as the count of communicators in doubt, 0, where the clause claims the code of the SEAL. -/
theorem not_sealCircuitDecides : ¬ Obligations.SealCircuitDecides := by
  rintro ⟨-, hdecides, -⟩
  have hsound : sound crowded.dev = true := by decide +kernel
  have ha := actsOn_crowded
  have hst : crowded.dev.commSt 0 896 = 2 := by decide +kernel
  have hdoubt : ((decideOp 0 896 false failedSeal.code failedSeal.origin failedSeal.originValid failedSeal.cause :
      M crowded.dev Unit)
      ⟨crowded.dev.heard 0 failedSeal.src failedSeal.nonce, (Steps.refl crowded.dev).heard ..⟩).2.val.fld
        (R.TRN_COMM_DOUBT_COUNT 0) = 0 := by decide +kernel
  obtain ⟨t, hexec, -, -, -, hcode, -⟩ := hdecides crowded 0 failedSeal 896 (ringMember 9 0 0) _ hsound ha.hears ha.decl
    ha.comm ha.commAt ha.link ha.keyed rfl rfl ha.unseen ha.room ha.current rfl hst rfl (.inl rfl)
  rw [lastCode_897th, sealReturn_failed ha rfl rfl hst rfl rfl hexec, hdoubt] at hcode
  exact absurd hcode (by decide)

end Sys2Proof

/-! PROOFS. Sparse reduction: score keys are as R192 states them. What the statement on DEMAND says it leaves alone does not
stay: a DEMAND whose OUT lies in a bittern of the plan leaves the whole bittern unspecified (R198, log 44). -/

namespace Sys2Proof.Machine

/-! ### Score keys -/

/-- An FP32 encoding is a NaN when its exponent field is all ones and its fraction is not 0 (R61). -/
theorem decodeElem_fp32_eq_nan_iff (c : Nat) :
    Fmt.decodeElem .fp32 c = .nan ↔ bits c 23 8 = 255 ∧ bits c 0 23 ≠ 0 := by
  simp only [Fmt.decodeElem, Fmt.fp, FpSpec.decode]
  by_cases he : bits c 23 8 = 255
  · by_cases hm : bits c 0 23 = 0 <;> simp [he, hm]
  · by_cases hz : bits c 23 8 = 0 <;> simp [he, hz]

theorem scoreKey_nan {c : Nat} (h : bits c 23 8 = 255 ∧ bits c 0 23 ≠ 0) : scoreKey c = 0xFFFF :=
  if_pos ((decodeElem_fp32_eq_nan_iff c).2 h)

theorem scoreKey_of_not_nan {c : Nat} (h : ¬(bits c 23 8 = 255 ∧ bits c 0 23 ≠ 0)) : scoreKey c = bits c 15 16 :=
  if_neg (mt (decodeElem_fp32_eq_nan_iff c).1 h)

/-- The key of a block that is not empty is the maximum of its elements' keys. -/
theorem max?_scoreKey {cs : List Nat} (h : cs ≠ []) : (cs.map scoreKey).max? = some (blockKey cs) := by
  cases cs with
  | nil => exact absurd rfl h
  | cons c cs => rw [List.map_cons, List.max?_cons', List.foldl_map, blockKey, List.foldl_cons, Nat.zero_max]

/-! ### A DEMAND that writes into a bittern -/

/-- A reference to the start of buffer `b`, outside every loop. -/
def OpRef.to (b : Nat) : OpRef := { buf := b, level := 0xFF, src := 0, stride := 0, off := 0 }

/-- A DEMAND of two experts over the one router entry of one accelerator, whose output goes to buffer 1. -/
def bitternDemand : Step :=
  { sealStep 0xFFFF with
    type := tDemand, count := 1, in0 := .to 0, out := .to 1
    spec := leBytes 2 2 ++ leBytes 1 1 ++ zeros 1 ++ leBytes 4 1 ++ zeros 16 }

/-- A SELECT of half of the blocks of 512 elements, whose bittern is buffer 1 and whose histogram is buffer 2. -/
def bitternSelect : Step :=
  { sealStep 0xFFFF with
    type := tSelect, count := 512, in0 := .to 3, out := .to 4
    spec := leBytes 4 (2 ^ 31) ++ leBytes 2 1 ++ leBytes 2 2 ++ zeros 16 }

/-- A POOLED buffer in the loft. -/
def loftBuf (addr len : Nat) : Buf := { kind := 0, tier := 0, seg := 0, pasid := 0, off := 0, len := len, addr := addr }

/-- The bittern: two halves of 2,048 bytes at the start of segment 0 of PASID 1. -/
def bitternBuf : Buf := { kind := 1, tier := 1, seg := 0, pasid := 1, off := 0, len := 4096, addr := 0 }

/-- A plan whose one thread runs the DEMAND, then the SELECT. The demand table has TOPK 1 and ID_LIMIT 2. -/
def bitternPlan : Plan :=
  { sealPlan 0xFFFF [] with
    threads := [(0, 2)], conns := 0, steps := [bitternDemand, bitternSelect]
    bufs := [loftBuf 0 64, bitternBuf, loftBuf 4096 524288, loftBuf 528384 2048, loftBuf 530432 4096]
    tables := [1, 0, 0, 0] ++ leBytes 2 2 ++ leBytes 2 0 ++ leBytes 2 1 ++ zeros 54 }

/-- Its thread before the DEMAND. -/
def bitternThread : Thr := { sealThread with stop := 2, active := none }

/-- Where the second half of the bittern stands in storage. -/
def residualAt : Nat := 2 ^ 40 + 2048

/-- A byte of the second half: one of two values. -/
def residualByte (b : Bool) : Byte := if b then 1 else 2

/-- One yard of twelve bays, ENABLED and RUNNING the plan; its storage is empty but for one byte of the bittern. -/
def bitternState (b : Bool) : State :=
  { pending := []
    dev := { Dev.reset with
      regs := Tab.setNum (Tab.setNum [] (R.BAY_FN_STATE_STATE 0).key 2) (R.PLN_STATUS_STATE 0).key 3
      lay := { Lay.reset with cur := { Layout.none with n := 1, enable := 1 } }
      ctxs := [(yk 0 1, { host := false, segs := [(0, { tier := 1, yaddr := 0, len := 4096 })] })]
      mem := { cells := [(residualAt, residualByte b)], opened := [], veils := [], uc := [] }
      yards := [(0, { Yard.empty with
        plan := some bitternPlan, running := true, endless := true, thrs := [bitternThread] })] } }

/-- The host's side of a step that stays in the yard's own storage. -/
def noHost : HostSide := { xl := .hit, data := [], bad := false }

/-- The storage after the DEMAND. -/
def bitternAfter (b : Bool) : Memory :=
  match exec (.demand 0 0 noHost) (bitternState b) with
  | .next t => t.dev.mem
  | _ => (bitternState b).dev.mem

/-- The write of the demand output makes the whole bittern free values, whatever it held. -/
theorem bitternAfter_alike : bitternAfter true = bitternAfter false := by decide +kernel

end Sys2Proof.Machine

namespace Sys2Proof

open Machine

/-- Settles O11: the decoding of an FP32 encoding tells a NaN from the rest, and a block's key is a maximum. -/
theorem scoreKeys : Obligations.ScoreKeys := by
  refine ⟨fun c _ => ⟨scoreKey_nan, scoreKey_of_not_nan⟩, by decide, by decide, by decide, by decide, fun cs hlen => ?_⟩
  have hne : cs ≠ [] := List.ne_nil_of_length_pos (by omega)
  obtain ⟨hmem, hle⟩ := List.max?_eq_some_iff.1 (max?_scoreKey hne)
  exact ⟨hmem, fun c hc => hle _ (List.mem_map_of_mem hc)⟩

/-- What the statement claims of the byte of the bittern: it lies outside the 128 bytes of the demand output, so it stays. -/
theorem bitternAfter_byte (h : Obligations.SelectAndDemand) (b : Bool) : (bitternAfter b).byte residualAt = residualByte b := by
  obtain ⟨-, hdemand, -⟩ := h
  have hsound : sound (bitternState b).dev = true := by cases b <;> decide +kernel
  have hissue : ((bitternState b).dev.issue 0 0 tDemand).isSome = true := by cases b <;> decide +kernel
  have hin : (bitternState b).dev.refPlace 0 bitternPlan bitternDemand bitternThread.env 0 = some (.mem 0 0) := by
    cases b <;> decide +kernel
  have hout : (bitternState b).dev.refPlace 0 bitternPlan bitternDemand bitternThread.env 3 = some (.mem 1 0) := by
    cases b <;> decide +kernel
  have hreads : readsAs (bitternState b).dev 0 (.mem 0 0) (4 * bitternDemand.count) noHost = some (zeros 4) := by
    cases b <;> decide +kernel
  have hwrites : writesTo (bitternState b).dev 0 (.mem 1 0) noHost = true := by cases b <;> decide +kernel
  have hheld : (bitternState b).dev.mem.byte residualAt = residualByte b := by cases b <;> decide +kernel
  obtain ⟨t, hexec, -, -, hframe⟩ := hdemand (bitternState b) 0 0 bitternPlan bitternThread bitternDemand noHost _ _ _ _
    hsound rfl rfl rfl hissue hin hout hreads hwrites (by decide +kernel)
  have hafter : bitternAfter b = t.dev.mem := by rw [bitternAfter, hexec]
  rw [hafter, ← hheld]
  exact hframe residualAt (by cases b <;> decide +kernel)

/-- Refutes O41: its second clause does not ask that OUT keep clear of the plan's bitterns. In `bitternState` the demand output
goes to the start of the bittern of a later SELECT, which leaves both halves unspecified (R198). So a byte of the second half,
outside OUT, cannot keep both of two values, as the clause claims. -/
theorem not_selectAndDemand : ¬ Obligations.SelectAndDemand := by
  intro h
  have hone := bitternAfter_byte h true
  have htwo := bitternAfter_byte h false
  rw [bitternAfter_alike, htwo] at hone
  exact absurd hone (by decide)

end Sys2Proof

/-! PROOFS. A STREAM writes its fan-outs to OUT before its deliveries begin (R227). When OUT meets a check unit in part that
cannot be corrected, that write fails, and the STREAM with it (R330); such a state refutes the first clause of
StreamDeliveries. -/

namespace Sys2Proof.Machine

variable {d0 : Dev}

/-! ### The active step of a thread -/

/-- A change of the active step of a thread changes it, and starts none. -/
theorem active_modActive (y t : Nat) (f : Active → Active) (s : Dv d0) :
    ((modActive y t f : M d0 Unit) s).2.val.active y t = (s.val.active y t).map f := by
  simp only [modActive, modThr, modYard_after, Dev.active, yard_act, if_true]
  cases hthr : (s.val.yard y).thrs[t]? with
  | none => simp [hthr]
  | some h =>
    obtain ⟨ht, -⟩ := List.getElem?_eq_some_iff.1 hthr
    simp [List.getElem?_set_self ht]

/-- A change of a yard's record that leaves its threads alone leaves the active step of each. -/
theorem active_modYard {y : Nat} {f : Yard → Yard} (hf : ∀ r, (f r).thrs = r.thrs) (t : Nat) (s : Dv d0) :
    ((modYard y f : M d0 Unit) s).2.val.active y t = s.val.active y t := by
  simp only [modYard_after, Dev.active, yard_act, if_true, hf]

/-- A meaning that only writes registers leaves the active step of each thread. -/
theorem active_of_regs {α : Type} {m : M d0 α} (hm : Only (fun a => ∃ k v, a = .reg k v) m) (y t : Nat) (s : Dv d0) :
    (m s).2.val.active y t = s.val.active y t := by
  have hyards := hm.keeps (fun a b => b.yards = a.yards) (fun _ => rfl) (fun _ _ _ hab hbc => hbc.trans hab)
    (fun d a ha => by obtain ⟨k, v, rfl⟩ := ha; rfl) s
  simp only [Dev.active, Dev.yard, hyards]

/-- Showing the drovers leaves the active step of each thread. -/
theorem active_showDrovers (y t : Nat) (s : Dv d0) :
    ((showDrovers y : M d0 Unit) s).2.val.active y t = s.val.active y t := by
  rw [showDrovers, dev_bind_run, bind_run, active_of_regs]
  · refine active_modYard ?_ t s
    exact fun _ => rfl
  · exact Only.each fun dr => (Only.wr _ fun v => ⟨_, v, rfl⟩).bind fun _ =>
      (Only.wr _ fun v => ⟨_, v, rfl⟩).bind fun _ => Only.wr _ fun v => ⟨_, v, rfl⟩

/-- What ends every failure of a STREAM drops its work. -/
theorem stream_dropped (y t code : Nat) (s : Dv d0) :
    (((do modActive y t (fun a => { a with stream := none }); setCode y t code; showDrovers y : M d0 Unit) s).2.val.active
      y t).bind (fun a => a.stream) = none := by
  simp only [bind_run, setCode, active_showDrovers, active_modActive]
  cases s.val.active y t <;> rfl

/-- A STREAM that fails keeps no work (R243). -/
theorem stream_streamFail (y t code : Nat) (s : Dv d0) :
    (((streamFail y t code : M d0 Unit) s).2.val.active y t).bind (fun a => a.stream) = none := by
  rw [streamFail, dev_bind_run]
  cases s.val.activeStep y t with
  | none => exact stream_dropped ..
  | some x =>
    obtain ⟨p, st, a⟩ := x
    cases hz : a.stream with
    | some z =>
      simp only [hz]
      exact stream_dropped ..
    | none =>
      simp only [hz, ite_run]
      split
      · exact stream_dropped ..
      · exact stream_dropped ..

/-! ### A write that meets an uncorrectable unit in part (R330) -/

/-- A write that meets a marked check unit and does not cover it whole fails. -/
theorem writeMem_torn {y tier a u : Nat} {bs : List Byte} {s : Dv d0} (hmarked : u ∈ s.val.mem.uc) (hbytes : bs ≠ [])
    (hfrom : s.val.addr y tier (a / unitOf tier * unitOf tier) ≤ u) (hto : u < s.val.addr y tier (a + bs.length))
    (hpart : u < s.val.addr y tier a ∨ s.val.addr y tier (a + bs.length) < u + unitOf tier) :
    ((writeMem y tier a bs : M d0 Bool) s).1 = false := by
  have hlen : bs.length ≠ 0 := by simpa using hbytes
  simp only [writeMem, writeMemIn, putMem, dev_bind_run, hlen, if_false]
  cases hfind : s.val.mem.uc.find? _ with
  | some v => rfl
  | none =>
    have hmiss := List.find?_eq_none.1 hfind u hmarked
    simp only [hfrom, hto, decide_true, Bool.true_and, Bool.not_eq_true', Bool.not_eq_false, Bool.and_eq_true,
      decide_eq_true_eq] at hmiss
    omega

/-- The fan-outs of a STREAM as its OUT holds them: a u16 for each entry, and zeros up to a multiple of 64 (R227). -/
def fanOuts (ds : List (List Nat)) : List Byte :=
  let body := ds.flatMap (fun x => leBytes 2 x.length)
  body ++ zeros (roundUp 64 body.length - body.length)

/-- A STREAM whose fan-outs cannot be written fails before its deliveries begin. -/
theorem streamBegin_outFails {y t tier a : Nat} {p : Plan} {st : Step} {env : List Nat} {ds : List (List Nat)} {src : Place}
    {s : Dv d0} (hsrc : s.val.refPlace y p st env 0 = some src) (hlocal : st.isLocal 3 = true)
    (hout : s.val.refPlace y p st env 3 = some (.mem tier a))
    (hfails : ((writeMem y tier a (fanOuts ds) : M d0 Bool) s).1 = false) :
    (((streamBegin y t p st env ds : M d0 Unit) s).2.val.active y t).bind (fun a => a.stream) = none := by
  have hplace : ((writePlace y (.mem tier a) (fanOuts ds) : M d0 Bool) s).1 = false := hfails
  unfold fanOuts at hplace
  rw [streamBegin, dev_bind_run, hsrc]
  simp only [hlocal, if_true, hout]
  rw [bind_run, hplace]
  exact stream_streamFail ..

/-- The destination sets of the tiles of a stream table that names no demand output (R227). -/
def Plan.allSets (p : Plan) (o : Nat) : List (List Nat) := (p.streamEnts o).map (fun e => destSet (le p.tables (o + 0x14) 1) e.2 [])

/-- The device once a step that may start has been made active. -/
def Issue.started (i : Issue) (s : State) (y t : Nat) : Dv s.dev :=
  ((startStep y t i none : M s.dev Unit) ⟨s.dev, Steps.refl s.dev⟩).2

/-- A STREAM command without a demand reference whose OUT cannot be written has no entry. -/
theorem stream_outFails {s t' : State} {y t tier a : Nat} {i : Issue} {src : Place} {host : HostSide}
    (hissue : s.dev.issue y t tStream = some i) (hdemand : le i.p.tables (i.st.sp 0x68 4 + 4) 2 = 0xFFFF)
    (hsrc : (i.started s y t).val.refPlace y i.p i.st i.env 0 = some src) (hlocal : i.st.isLocal 3 = true)
    (hout : (i.started s y t).val.refPlace y i.p i.st i.env 3 = some (.mem tier a))
    (hfails : ((writeMem y tier a (fanOuts (i.p.allSets (i.st.sp 0x68 4))) : M s.dev Bool) (i.started s y t)).1 = false)
    (hexec : exec (.stream y t host) s = .next t') : (t'.dev.active y t).bind (fun a => a.stream) = none := by
  have hbegin : (beginStep y t tStream : M s.dev _) ⟨s.dev, Steps.refl s.dev⟩ =
      (some (i.p, i.st, i.env, true), i.started s y t) := by
    rw [beginStep, dev_bind_run, hissue]
    rfl
  have hstream : exec (.stream y t host) s = execStream y t host s := rfl
  rw [hstream, execStream, perform_eq, bind_run, hbegin] at hexec
  simp only [dev_bind_run, hlocal, if_true, hout, hdemand] at hexec
  cases hexec
  exact streamBegin_outFails hsrc hlocal hout hfails

/-! ### A STREAM whose OUT lies in an uncorrectable block -/

/-- A STREAM of one tile from buffer 0 as it is stored, without a shed; its fan-out goes to buffer 1. -/
def tornStream : Step :=
  { sealStep 0xFFFF with
    type := tStream, count := 1, in0 := .to 0, out := .to 1, spec := zeros 4 ++ leBytes 2 0xFFFF ++ [0, 0xFF] ++ zeros 16 }

/-- A plan whose one thread runs it: buffer 0 in the loft, buffer 1 at the start of near memory, and the stream table of a dense
E4M3 tile of 256 elements, which drover 0 delivers to landing buffer 7 of the accelerator at 0x300. -/
def tornPlan : Plan :=
  { sealPlan 0xFFFF [] with
    conns := 0, bufs := [loftBuf 0 4096, { loftBuf 0 4096 with tier := 1 }], steps := [tornStream]
    tables := leBytes 4 1 ++ leBytes 2 0xFFFF ++ [0xFF, 3] ++ zeros 12 ++ [1, 0] ++ leBytes 2 1 ++ leBytes 8 256 ++
      leBytes 8 256 ++ zeros 24 ++ leBytes 2 0x300 ++ leBytes 2 7 ++ zeros 60 ++ zeros 8 ++ leBytes 4 (2 ^ 31) ++ zeros 52 }

/-- Its thread before the STREAM. -/
def tornThread : Thr := { sealThread with active := none }

/-- One yard of twelve bays, ENABLED and RUNNING the plan; the first block of near memory is uncorrectable. -/
def tornState : State :=
  { pending := []
    dev := { Dev.reset with
      regs := Tab.setNum (Tab.setNum [] (R.BAY_FN_STATE_STATE 0).key 2) (R.PLN_STATUS_STATE 0).key 3
      lay := { Lay.reset with cur := { Layout.none with n := 1, enable := 1 } }
      mem := { cells := [], opened := [], veils := [], uc := [2 ^ 40] }
      yards := [(0, { Yard.empty with plan := some tornPlan, running := true, endless := true, thrs := [tornThread] })] } }

/-- The STREAM as it is issued. -/
def tornIssue : Issue := { p := tornPlan, h := tornThread, st := tornStream, env := tornThread.env }

theorem issue_tornState : tornState.dev.issue 0 0 tStream = some tornIssue := by rfl

/-- The write of the fan-outs, 64 bytes of the marked block, fails. -/
theorem fanOuts_torn : ((writeMem 0 1 0 (fanOuts (tornPlan.allSets 0)) : M tornState.dev Bool)
    (tornIssue.started tornState 0 0)).1 = false := by
  have haddr : ∀ a, (tornIssue.started tornState 0 0).val.addr 0 1 a = 2 ^ 40 + a := by
    intro a
    simp [Dev.addr, tierBase]
  have hlen : (fanOuts (tornPlan.allSets 0)).length = 64 := by decide +kernel
  apply writeMem_torn (u := 2 ^ 40)
  · decide +kernel
  · exact List.ne_nil_of_length_pos (by omega)
  · rw [haddr]
    decide
  · rw [haddr, hlen]
    omega
  · rw [haddr, haddr, hlen]
    decide

end Sys2Proof.Machine

namespace Sys2Proof

open Machine

/-- Refutes O42: its first clause asks that OUT lies in the yard's own memory, and not that it can be written. In `tornState`
the 64 bytes of fan-outs meet an uncorrectable block of 256 bytes in part, so the write fails and with it the STREAM (R330),
which keeps no entry (R243), where the clause claims the entry of the one tile. -/
theorem not_streamDeliveries : ¬ Obligations.StreamDeliveries := by
  rintro ⟨hbegins, -⟩
  have hdemand : le tornPlan.tables (tornStream.sp 0x68 4 + 4) 2 = 0xFFFF := by decide +kernel
  have hsrc : (tornIssue.started tornState 0 0).val.refPlace 0 tornPlan tornStream tornThread.env 0 = some (.mem 0 0) := by
    decide +kernel
  have hout : (tornIssue.started tornState 0 0).val.refPlace 0 tornPlan tornStream tornThread.env 3 = some (.mem 1 0) := by
    decide +kernel
  have hsets : tornPlan.allSets (tornStream.sp 0x68 4) = [[0]] := by decide +kernel
  obtain ⟨t, hexec, -, hentries, -⟩ := hbegins tornState 0 0 tornPlan tornThread tornStream noHost (.mem 0 0)
    (by decide +kernel) rfl rfl rfl (by rw [issue_tornState]; rfl) hdemand (by decide +kernel) (by decide +kernel)
  have hnone := stream_outFails issue_tornState hdemand hsrc (by decide) hout fanOuts_torn hexec
  rw [Plan.allSets] at hsets
  rw [hnone, hsets] at hentries
  cases hentries

end Sys2Proof
